-- ==== Sys2Proof/Word.lean ====
section
/-! DEFINITION. The word types of the machine (R4, R10) and the sparse map in which every large array of the state is
held: a list of key and value pairs with keys rising. Its operations are in Machine/Ops.lean. -/

namespace Sys2Proof

/-- A byte. -/
abbrev Byte := BitVec 8

/-- A scalar register, a slot word or a dword of a record (R4). -/
abbrev W64 := BitVec 64

/-- A 32-bit cell of the matrix register file or of memory (R188, R269). -/
abbrev W32 := BitVec 32

/-- A line of 512 bytes, lane `i` in bits `32 i + 31` to `32 i` (R10). -/
abbrev Line := BitVec 4096

/-- A lane mask, one bit for each byte of a line (R108). -/
abbrev Mask := BitVec 512

/-- A 64-byte continuity entry as it reaches a queue's submission slot (R242). -/
abbrev Entry := BitVec 512

/-- A sparse array: pairs of an index and a value, indices strictly rising. -/
abbrev FMap (α : Type) := List (Nat × α)

end Sys2Proof
end

