-- ==== Sys2Proof/Syntax.lean ====
section
/-! DEFINITION. The instructions: one constructor for each row of the opcode table (R35 to R47 for the words of a
bundle; the rules named beside each row for the events of the machine's agents), and the records that hold their
operands. The field positions are in Decode.lean; what an event works on (its input) is at the head of the agenda in
the state (Machine/Inputs.lean). -/

namespace Sys2Proof

/-- The part that every slot word has (R27): the slot it occupies, GNEG and GPRED. -/
structure Hdr where
  slot : Fin 9
  neg  : Bool
  pred : BitVec 4
  deriving DecidableEq, Repr

/-- A register source and its FE bit (R28). -/
structure Src where
  r  : BitVec 6
  fe : Bool
  deriving DecidableEq, Repr

/-- S class, IMM = 0: `op sD, sA, sB` (R59). -/
structure RR where
  d : BitVec 6
  a : Src
  b : Src
  deriving DecidableEq, Repr

/-- S class, IMM = 1: `op sD, sA, imm` (R59). -/
structure RI where
  d   : BitVec 6
  a   : Src
  imm : BitVec 32
  deriving DecidableEq, Repr

/-- S class, source A only (R59). -/
structure R1 where
  d : BitVec 6
  a : Src
  deriving DecidableEq, Repr

/-- BFX and BFXZ (R61). -/
structure Bf where
  d   : BitVec 6
  a   : Src
  pos : BitVec 6
  wm1 : BitVec 6
  deriving DecidableEq, Repr

/-- BFI (R61). -/
structure Bfi where
  d   : BitVec 6
  a   : Src
  b   : Src
  pos : BitVec 6
  wm1 : BitVec 6
  deriving DecidableEq, Repr

/-- Three register sources (R62). -/
structure R3 where
  d : BitVec 6
  a : Src
  b : Src
  c : Src
  deriving DecidableEq, Repr

/-- SEL with a register as its second source (R63). -/
structure SelR where
  d : BitVec 6
  a : Src
  b : Src
  q : BitVec 4
  deriving DecidableEq, Repr

/-- SEL with an immediate (R63). -/
structure SelI where
  d   : BitVec 6
  a   : Src
  q   : BitVec 4
  imm : BitVec 32
  deriving DecidableEq, Repr

/-- MOVI (R63). -/
structure Movi where
  d   : BitVec 6
  imm : BitVec 32
  deriving DecidableEq, Repr

/-- A compare of two registers (R64). -/
structure CmpR where
  pd : BitVec 4
  a  : Src
  b  : Src
  deriving DecidableEq, Repr

/-- A compare with an immediate (R64). -/
structure CmpI where
  pd  : BitVec 4
  a   : Src
  imm : BitVec 32
  deriving DecidableEq, Repr

/-- A predicate operation (R65). -/
structure PredOp where
  pd : BitVec 4
  pa : BitVec 4
  pb : BitVec 4
  na : Bool
  nb : Bool
  deriving DecidableEq, Repr

/-- PSET: enables in the upper half of the immediate, values in the lower (R65). -/
structure PsetOp where
  imm : BitVec 32
  deriving DecidableEq, Repr

/-- Scalar FP32 with two registers (R66). -/
structure FpR where
  d  : BitVec 6
  a  : Src
  b  : Src
  rm : BitVec 3
  deriving DecidableEq, Repr

/-- Scalar FP32 with an immediate (R66). -/
structure FpI where
  d   : BitVec 6
  a   : Src
  rm  : BitVec 3
  imm : BitVec 32
  deriving DecidableEq, Repr

/-- FMA (R66). -/
structure Fma3 where
  d  : BitVec 6
  a  : Src
  b  : Src
  c  : Src
  rm : BitVec 3
  deriving DecidableEq, Repr

/-- A scalar FP32 compare of two registers (R68). -/
structure FcmpR where
  pd : BitVec 4
  a  : Src
  b  : Src
  rm : BitVec 3
  deriving DecidableEq, Repr

/-- A scalar FP32 compare with an immediate (R68). -/
structure FcmpI where
  pd  : BitVec 4
  a   : Src
  rm  : BitVec 3
  imm : BitVec 32
  deriving DecidableEq, Repr

/-- FCVTI and FCVTF (R69). -/
structure Fcvt where
  d    : BitVec 6
  a    : Src
  rm   : BitVec 3
  ty   : BitVec 4
  wide : Bool
  deriving DecidableEq, Repr

/-- RDSR (R71). -/
structure Rdsr where
  d   : BitVec 6
  num : BitVec 8
  deriving DecidableEq, Repr

/-- WRSR (R71). -/
structure Wrsr where
  num : BitVec 8
  a   : Src
  deriving DecidableEq, Repr

/-- The two words of a BRT (R39). -/
structure BrtOp where
  shape : BitVec 5
  p0 : BitVec 4
  p1 : BitVec 4
  p2 : BitVec 4
  p3 : BitVec 4
  leaf0 : BitVec 20
  leaf1 : BitVec 20
  leaf2 : BitVec 20
  leaf3 : BitVec 20
  leaf4 : BitVec 20
  deriving DecidableEq, Repr

/-- LD and ST in the offset and post-increment modes (R90): `bit36` is SX of LD and the FE bit of DATA of ST. -/
structure Mem where
  reg   : BitVec 6
  base  : Src
  size  : BitVec 2
  bit36 : Bool
  ord   : BitVec 2
  scope : BitVec 3
  off   : BitVec 24
  deriving DecidableEq, Repr

/-- LD and ST in the indexed mode (R90). -/
structure MemIdx where
  reg   : BitVec 6
  base  : Src
  size  : BitVec 2
  bit36 : Bool
  ord   : BitVec 2
  scope : BitVec 3
  index : Src
  deriving DecidableEq, Repr

/-- LDL and STL (R91). -/
structure LineMem where
  line  : BitVec 13
  ad    : Bool
  ord   : BitVec 2
  scope : BitVec 3
  base  : Src
  mask  : BitVec 4
  off   : BitVec 18
  deriving DecidableEq, Repr

/-- LDX and STX (R92): `sx` and `z` are used by LDX only. -/
structure Gather where
  line  : BitVec 13
  sx    : Bool
  size  : BitVec 2
  ord   : BitVec 2
  scope : BitVec 3
  index : BitVec 13
  base  : Src
  mask  : BitVec 4
  z     : Bool
  sc    : Bool
  deriving DecidableEq, Repr

/-- GLD (R95). -/
structure Gld where
  line  : BitVec 13
  op    : BitVec 3
  ord   : BitVec 2
  scope : BitVec 3
  base  : Src
  ty    : BitVec 4
  cp    : BitVec 4
  off   : BitVec 16
  deriving DecidableEq, Repr

/-- GLDS (R95). -/
structure Glds where
  dest  : BitVec 6
  op    : BitVec 3
  ord   : BitVec 2
  scope : BitVec 3
  base  : Src
  ty    : BitVec 4
  cp    : BitVec 4
  off   : BitVec 16
  deriving DecidableEq, Repr

/-- AMO (R93). -/
structure Amo where
  dest  : BitVec 6
  addr  : Src
  size  : BitVec 2
  ord   : BitVec 2
  scope : BitVec 3
  val   : Src
  op    : BitVec 4
  deriving DecidableEq, Repr

/-- CAS (R93). -/
structure Cas where
  dest  : BitVec 6
  addr  : Src
  size  : BitVec 2
  ord   : BitVec 2
  scope : BitVec 3
  exp   : Src
  new   : Src
  deriving DecidableEq, Repr

/-- AMOL (R94). -/
structure Amol where
  src   : BitVec 13
  op    : BitVec 3
  ord   : BitVec 2
  scope : BitVec 3
  base  : Src
  ty    : BitVec 4
  mask  : BitVec 4
  off   : BitVec 16
  deriving DecidableEq, Repr

/-- PCFG (R100). -/
structure Pcfg where
  port : BitVec 4
  base : Src
  off  : BitVec 16
  deriving DecidableEq, Repr

/-- PRST (R100). -/
structure PortOp where
  port : BitVec 4
  deriving DecidableEq, Repr

/-- HGIVE (R103). -/
structure Hgive where
  dest : BitVec 6
  base : Src
  desc : Src
  deriving DecidableEq, Repr

/-- HTAKE (R103). -/
structure Htake where
  dest : BitVec 6
  h    : BitVec 4
  deriving DecidableEq, Repr

/-- HBACK (R103). -/
structure Hback where
  h : BitVec 4
  deriving DecidableEq, Repr

/-- The fields of a V word (R28, R113). -/
structure VF where
  ty   : BitVec 4
  k    : BitVec 4
  dst  : BitVec 13
  s1   : BitVec 13
  s2   : BitVec 13
  mode : BitVec 3
  sat  : Bool
  z    : Bool
  deriving DecidableEq, Repr

/-- The fields of an X word (R28, R130). -/
structure XF where
  dt   : BitVec 4
  st   : BitVec 4
  dst  : BitVec 13
  s1   : BitVec 13
  s2   : BitVec 13
  mode : BitVec 3
  md   : BitVec 2
  deriving DecidableEq, Repr

/-- The fields of an M word (R28, R146). -/
structure MF where
  wty   : BitVec 4
  sty   : BitVec 4
  trans : Bool
  bank  : Bool
  row   : BitVec 7
  line  : BitVec 13
  seg   : BitVec 3
  low   : BitVec 19
  deriving DecidableEq, Repr

/-- COPY: the address of a transfer record (R161). -/
structure RecOp where
  base : Src
  off  : BitVec 16
  deriving DecidableEq, Repr

/-- COPYNB (R161). -/
structure RecDst where
  dest : BitVec 6
  base : Src
  off  : BitVec 16
  deriving DecidableEq, Repr

/-- TWANY, TWALL, TCLR (R161). -/
structure TagMask where
  mask : Src
  deriving DecidableEq, Repr

/-- TFIND (R161). -/
structure Tfind where
  dest : BitVec 6
  mask : Src
  deriving DecidableEq, Repr

/-- FENCE of kind mem and TRIGGER (R161). -/
structure Order where
  ord   : BitVec 2
  scope : BitVec 3
  deriving DecidableEq, Repr

/-- DRAIN (R161). -/
structure Drain where
  nt    : Bool
  cp    : Bool
  ord   : BitVec 2
  scope : BitVec 3
  deriving DecidableEq, Repr

/-- BARRIVE and BWAIT (R161). -/
structure GroupOp where
  group : BitVec 8
  deriving DecidableEq, Repr

/-- BTEST (R161). -/
structure Btest where
  group : BitVec 8
  pd    : BitVec 4
  deriving DecidableEq, Repr

/-- STEP (R161). -/
structure StepOp where
  d : BitVec 6
  deriving DecidableEq, Repr

/-- SUBMIT (R161). -/
structure Submit where
  dest  : BitVec 6
  queue : BitVec 7
  ord   : BitVec 2
  scope : BitVec 3
  base  : Src
  off   : BitVec 16
  deriving DecidableEq, Repr

/-- SKIM (R161). -/
structure SkimOp where
  dest  : BitVec 6
  ord   : BitVec 2
  scope : BitVec 3
  base  : Src
  off   : BitVec 16
  deriving DecidableEq, Repr

/-- EVADD and EVWAIT (R161). -/
structure EvOp where
  ord   : BitVec 2
  scope : BitVec 3
  ctr   : Src
  val   : Src
  deriving DecidableEq, Repr

/-- TRAP (R80). -/
structure TrapOp where
  num : BitVec 8
  deriving DecidableEq, Repr

/-- LSAVE and LLOAD (R82). -/
structure LoopMem where
  base : Src
  off  : BitVec 16
  deriving DecidableEq, Repr

/-- SVSAVE and SVLOAD (R83). -/
structure SvOp where
  base  : Src
  part  : BitVec 3
  tag   : BitVec 6
  ord   : BitVec 2
  scope : BitVec 3
  deriving DecidableEq, Repr

/-- The instructions: operations of slot words and branch words first, then the events of the
machine's agents. -/
inductive Instr where
  /-- SNOP (R42). -/
  | snop (h : Hdr)
  /-- ADD (R59). -/
  | add (h : Hdr) (o : RR)
  /-- ADD_IMM (R59). -/
  | addImm (h : Hdr) (o : RI)
  /-- SUB (R59). -/
  | sub (h : Hdr) (o : RR)
  /-- SUB_IMM (R59). -/
  | subImm (h : Hdr) (o : RI)
  /-- MUL (R59). -/
  | mul (h : Hdr) (o : RR)
  /-- MUL_IMM (R59). -/
  | mulImm (h : Hdr) (o : RI)
  /-- MULH (R59). -/
  | mulh (h : Hdr) (o : RR)
  /-- MULH_IMM (R59). -/
  | mulhImm (h : Hdr) (o : RI)
  /-- MULHZ (R59). -/
  | mulhz (h : Hdr) (o : RR)
  /-- MULHZ_IMM (R59). -/
  | mulhzImm (h : Hdr) (o : RI)
  /-- DIV (R60). -/
  | div (h : Hdr) (o : RR)
  /-- DIV_IMM (R60). -/
  | divImm (h : Hdr) (o : RI)
  /-- DIVZ (R60). -/
  | divz (h : Hdr) (o : RR)
  /-- DIVZ_IMM (R60). -/
  | divzImm (h : Hdr) (o : RI)
  /-- REM (R60). -/
  | rem (h : Hdr) (o : RR)
  /-- REM_IMM (R60). -/
  | remImm (h : Hdr) (o : RI)
  /-- REMZ (R60). -/
  | remz (h : Hdr) (o : RR)
  /-- REMZ_IMM (R60). -/
  | remzImm (h : Hdr) (o : RI)
  /-- AND (R59). -/
  | and (h : Hdr) (o : RR)
  /-- AND_IMM (R59). -/
  | andImm (h : Hdr) (o : RI)
  /-- OR (R59). -/
  | or (h : Hdr) (o : RR)
  /-- OR_IMM (R59). -/
  | orImm (h : Hdr) (o : RI)
  /-- XOR (R59). -/
  | xor (h : Hdr) (o : RR)
  /-- XOR_IMM (R59). -/
  | xorImm (h : Hdr) (o : RI)
  /-- ANDN (R59). -/
  | andn (h : Hdr) (o : RR)
  /-- ANDN_IMM (R59). -/
  | andnImm (h : Hdr) (o : RI)
  /-- SHL (R59). -/
  | shl (h : Hdr) (o : RR)
  /-- SHL_IMM (R59). -/
  | shlImm (h : Hdr) (o : RI)
  /-- SHR (R59). -/
  | shr (h : Hdr) (o : RR)
  /-- SHR_IMM (R59). -/
  | shrImm (h : Hdr) (o : RI)
  /-- SAR (R59). -/
  | sar (h : Hdr) (o : RR)
  /-- SAR_IMM (R59). -/
  | sarImm (h : Hdr) (o : RI)
  /-- ROL (R59). -/
  | rol (h : Hdr) (o : RR)
  /-- ROL_IMM (R59). -/
  | rolImm (h : Hdr) (o : RI)
  /-- MIN (R59). -/
  | min (h : Hdr) (o : RR)
  /-- MIN_IMM (R59). -/
  | minImm (h : Hdr) (o : RI)
  /-- MAX (R59). -/
  | max (h : Hdr) (o : RR)
  /-- MAX_IMM (R59). -/
  | maxImm (h : Hdr) (o : RI)
  /-- MINZ (R59). -/
  | minz (h : Hdr) (o : RR)
  /-- MINZ_IMM (R59). -/
  | minzImm (h : Hdr) (o : RI)
  /-- MAXZ (R59). -/
  | maxz (h : Hdr) (o : RR)
  /-- MAXZ_IMM (R59). -/
  | maxzImm (h : Hdr) (o : RI)
  /-- CLZ (R59). -/
  | clz (h : Hdr) (o : R1)
  /-- CTZ (R59). -/
  | ctz (h : Hdr) (o : R1)
  /-- POPC (R59). -/
  | popc (h : Hdr) (o : R1)
  /-- BFX (R61). -/
  | bfx (h : Hdr) (o : Bf)
  /-- BFXZ (R61). -/
  | bfxz (h : Hdr) (o : Bf)
  /-- BFI (R61). -/
  | bfi (h : Hdr) (o : Bfi)
  /-- FSHL (R62). -/
  | fshl (h : Hdr) (o : R3)
  /-- FSHR (R62). -/
  | fshr (h : Hdr) (o : R3)
  /-- SEL (R63). -/
  | sel (h : Hdr) (o : SelR)
  /-- SEL_IMM (R63). -/
  | selImm (h : Hdr) (o : SelI)
  /-- MOVI (R63). -/
  | movi (h : Hdr) (o : Movi)
  /-- MOVHI (R63). -/
  | movhi (h : Hdr) (o : RI)
  /-- CMPEQ (R64). -/
  | cmpeq (h : Hdr) (o : CmpR)
  /-- CMPEQ_IMM (R64). -/
  | cmpeqImm (h : Hdr) (o : CmpI)
  /-- CMPNE (R64). -/
  | cmpne (h : Hdr) (o : CmpR)
  /-- CMPNE_IMM (R64). -/
  | cmpneImm (h : Hdr) (o : CmpI)
  /-- CMPLT (R64). -/
  | cmplt (h : Hdr) (o : CmpR)
  /-- CMPLT_IMM (R64). -/
  | cmpltImm (h : Hdr) (o : CmpI)
  /-- CMPLE (R64). -/
  | cmple (h : Hdr) (o : CmpR)
  /-- CMPLE_IMM (R64). -/
  | cmpleImm (h : Hdr) (o : CmpI)
  /-- CMPLTZ (R64). -/
  | cmpltz (h : Hdr) (o : CmpR)
  /-- CMPLTZ_IMM (R64). -/
  | cmpltzImm (h : Hdr) (o : CmpI)
  /-- CMPLEZ (R64). -/
  | cmplez (h : Hdr) (o : CmpR)
  /-- CMPLEZ_IMM (R64). -/
  | cmplezImm (h : Hdr) (o : CmpI)
  /-- PAND (R65). -/
  | pand (h : Hdr) (o : PredOp)
  /-- POR (R65). -/
  | por (h : Hdr) (o : PredOp)
  /-- PXOR (R65). -/
  | pxor (h : Hdr) (o : PredOp)
  /-- PANDN (R65). -/
  | pandn (h : Hdr) (o : PredOp)
  /-- PSET (R65). -/
  | pset (h : Hdr) (o : PsetOp)
  /-- FADD (R66). -/
  | fadd (h : Hdr) (o : FpR)
  /-- FADD_IMM (R66). -/
  | faddImm (h : Hdr) (o : FpI)
  /-- FSUB (R66). -/
  | fsub (h : Hdr) (o : FpR)
  /-- FSUB_IMM (R66). -/
  | fsubImm (h : Hdr) (o : FpI)
  /-- FMUL (R66). -/
  | fmul (h : Hdr) (o : FpR)
  /-- FMUL_IMM (R66). -/
  | fmulImm (h : Hdr) (o : FpI)
  /-- FMA (R66). -/
  | fma (h : Hdr) (o : Fma3)
  /-- FMIN (R66). -/
  | fmin (h : Hdr) (o : FpR)
  /-- FMIN_IMM (R66). -/
  | fminImm (h : Hdr) (o : FpI)
  /-- FMAX (R66). -/
  | fmax (h : Hdr) (o : FpR)
  /-- FMAX_IMM (R66). -/
  | fmaxImm (h : Hdr) (o : FpI)
  /-- FCMPEQ (R68). -/
  | fcmpeq (h : Hdr) (o : FcmpR)
  /-- FCMPEQ_IMM (R68). -/
  | fcmpeqImm (h : Hdr) (o : FcmpI)
  /-- FCMPLT (R68). -/
  | fcmplt (h : Hdr) (o : FcmpR)
  /-- FCMPLT_IMM (R68). -/
  | fcmpltImm (h : Hdr) (o : FcmpI)
  /-- FCMPLE (R68). -/
  | fcmple (h : Hdr) (o : FcmpR)
  /-- FCMPLE_IMM (R68). -/
  | fcmpleImm (h : Hdr) (o : FcmpI)
  /-- FCVTI (R69). -/
  | fcvti (h : Hdr) (o : Fcvt)
  /-- FCVTF (R69). -/
  | fcvtf (h : Hdr) (o : Fcvt)
  /-- RDSR (R71). -/
  | rdsr (h : Hdr) (o : Rdsr)
  /-- WRSR (R71). -/
  | wrsr (h : Hdr) (o : Wrsr)
  /-- BRC (R75). -/
  | brc (neg : Bool) (pred : BitVec 4) (tgt : BitVec 20)
  /-- JMP (R75). -/
  | jmp (tgt : BitVec 20)
  /-- CALL (R75). -/
  | call (tgt : BitVec 20) (link : BitVec 6)
  /-- RET (R75). -/
  | ret (reg : BitVec 6)
  /-- JMPI (R75). -/
  | jmpi (tgt : BitVec 20) (reg : BitVec 6)
  /-- CALLI (R75). -/
  | calli (tgt : BitVec 20) (link reg : BitVec 6)
  /-- LOOP (R75). -/
  | loop (endOff : BitVec 20) (reg : BitVec 6)
  /-- LOOP_IMM (R75). -/
  | loopImm (endOff : BitVec 20) (count : BitVec 16)
  /-- LPOP (R75). -/
  | lpop (n : BitVec 3)
  /-- BRT (R40). -/
  | brt (o : BrtOp)
  /-- LNOP (R89). -/
  | lnop (h : Hdr)
  /-- LD (R90). -/
  | ld (h : Hdr) (o : Mem)
  /-- LD_INDEXED (R90). -/
  | ldIndexed (h : Hdr) (o : MemIdx)
  /-- LD_POSTINC (R90). -/
  | ldPostinc (h : Hdr) (o : Mem)
  /-- ST (R90). -/
  | st (h : Hdr) (o : Mem)
  /-- ST_INDEXED (R90). -/
  | stIndexed (h : Hdr) (o : MemIdx)
  /-- ST_POSTINC (R90). -/
  | stPostinc (h : Hdr) (o : Mem)
  /-- LDL (R91). -/
  | ldl (h : Hdr) (o : LineMem)
  /-- LDL_POSTINC (R91). -/
  | ldlPostinc (h : Hdr) (o : LineMem)
  /-- STL (R91). -/
  | stl (h : Hdr) (o : LineMem)
  /-- STL_POSTINC (R91). -/
  | stlPostinc (h : Hdr) (o : LineMem)
  /-- LDX (R92). -/
  | ldx (h : Hdr) (o : Gather)
  /-- STX (R92). -/
  | stx (h : Hdr) (o : Gather)
  /-- GLD (R95). -/
  | gld (h : Hdr) (o : Gld)
  /-- GLDS (R95). -/
  | glds (h : Hdr) (o : Glds)
  /-- AMO (R93). -/
  | amo (h : Hdr) (o : Amo)
  /-- CAS (R93). -/
  | cas (h : Hdr) (o : Cas)
  /-- AMOL (R94). -/
  | amol (h : Hdr) (o : Amol)
  /-- PCFG (R100). -/
  | pcfg (h : Hdr) (o : Pcfg)
  /-- PRST (R100). -/
  | prst (h : Hdr) (o : PortOp)
  /-- HGIVE (R104). -/
  | hgive (h : Hdr) (o : Hgive)
  /-- HTAKE (R105). -/
  | htake (h : Hdr) (o : Htake)
  /-- HBACK (R106). -/
  | hback (h : Hdr) (o : Hback)
  /-- VNOP (R112). -/
  | vnop (h : Hdr)
  /-- VADD (R114). -/
  | vadd (h : Hdr) (o : VF)
  /-- VSUB (R114). -/
  | vsub (h : Hdr) (o : VF)
  /-- VMUL (R114). -/
  | vmul (h : Hdr) (o : VF)
  /-- VFMA (R114). -/
  | vfma (h : Hdr) (o : VF)
  /-- VMIN (R114). -/
  | vmin (h : Hdr) (o : VF)
  /-- VMAX (R114). -/
  | vmax (h : Hdr) (o : VF)
  /-- VABS (R114). -/
  | vabs (h : Hdr) (o : VF)
  /-- VNEG (R114). -/
  | vneg (h : Hdr) (o : VF)
  /-- VADDS (R115). -/
  | vadds (h : Hdr) (o : VF)
  /-- VSUBS (R115). -/
  | vsubs (h : Hdr) (o : VF)
  /-- VMULH (R114). -/
  | vmulh (h : Hdr) (o : VF)
  /-- VAND (R117). -/
  | vand (h : Hdr) (o : VF)
  /-- VOR (R117). -/
  | vor (h : Hdr) (o : VF)
  /-- VXOR (R117). -/
  | vxor (h : Hdr) (o : VF)
  /-- VSHL (R117). -/
  | vshl (h : Hdr) (o : VF)
  /-- VSHR (R117). -/
  | vshr (h : Hdr) (o : VF)
  /-- VSAR (R117). -/
  | vsar (h : Hdr) (o : VF)
  /-- VBFX (R118). -/
  | vbfx (h : Hdr) (o : VF)
  /-- VBFXZ (R118). -/
  | vbfxz (h : Hdr) (o : VF)
  /-- VFSHR (R118). -/
  | vfshr (h : Hdr) (o : VF)
  /-- VCLZ (R117). -/
  | vclz (h : Hdr) (o : VF)
  /-- VPOPC (R117). -/
  | vpopc (h : Hdr) (o : VF)
  /-- VCMPEQ (R119). -/
  | vcmpeq (h : Hdr) (o : VF)
  /-- VCMPNE (R119). -/
  | vcmpne (h : Hdr) (o : VF)
  /-- VCMPLT (R119). -/
  | vcmplt (h : Hdr) (o : VF)
  /-- VCMPLE (R119). -/
  | vcmple (h : Hdr) (o : VF)
  /-- VCLASS (R120). -/
  | vclass (h : Hdr) (o : VF)
  /-- VSEL (R121). -/
  | vsel (h : Hdr) (o : VF)
  /-- VMOV (R122). -/
  | vmov (h : Hdr) (o : VF)
  /-- VBCAST (R122). -/
  | vbcast (h : Hdr) (o : VF)
  /-- VPERM (R122). -/
  | vperm (h : Hdr) (o : VF)
  /-- VROT (R122). -/
  | vrot (h : Hdr) (o : VF)
  /-- VIOTA (R122). -/
  | viota (h : Hdr) (o : VF)
  /-- VEXTR (R123). -/
  | vextr (h : Hdr) (o : VF)
  /-- VINS (R123). -/
  | vins (h : Hdr) (o : VF)
  /-- VRSUM (R124). -/
  | vrsum (h : Hdr) (o : VF)
  /-- VRMAX (R124). -/
  | vrmax (h : Hdr) (o : VF)
  /-- VRMIN (R124). -/
  | vrmin (h : Hdr) (o : VF)
  /-- VROR (R124). -/
  | vror (h : Hdr) (o : VF)
  /-- VSCAN (R125). -/
  | vscan (h : Hdr) (o : VF)
  /-- VWIDEN (R126). -/
  | vwiden (h : Hdr) (o : VF)
  /-- VNARROW (R127). -/
  | vnarrow (h : Hdr) (o : VF)
  /-- VDOT4 (R128). -/
  | vdot4 (h : Hdr) (o : VF)
  /-- KAND (R129). -/
  | kand (h : Hdr) (o : VF)
  /-- KOR (R129). -/
  | kor (h : Hdr) (o : VF)
  /-- KXOR (R129). -/
  | kxor (h : Hdr) (o : VF)
  /-- KNOT (R129). -/
  | knot (h : Hdr) (o : VF)
  /-- KPOPC (R129). -/
  | kpopc (h : Hdr) (o : VF)
  /-- KANY (R129). -/
  | kany (h : Hdr) (o : VF)
  /-- XNOP (R130). -/
  | xnop (h : Hdr)
  /-- XRCP (R133). -/
  | xrcp (h : Hdr) (o : XF)
  /-- XRSQ (R133). -/
  | xrsq (h : Hdr) (o : XF)
  /-- XSQRT (R133). -/
  | xsqrt (h : Hdr) (o : XF)
  /-- XEXP2 (R133). -/
  | xexp2 (h : Hdr) (o : XF)
  /-- XLOG2 (R133). -/
  | xlog2 (h : Hdr) (o : XF)
  /-- XTANH (R133). -/
  | xtanh (h : Hdr) (o : XF)
  /-- XSIG (R133). -/
  | xsig (h : Hdr) (o : XF)
  /-- XDIV (R133). -/
  | xdiv (h : Hdr) (o : XF)
  /-- XCVT (R136). -/
  | xcvt (h : Hdr) (o : XF)
  /-- XAMAX (R138). -/
  | xamax (h : Hdr) (o : XF)
  /-- XSCALE (R139). -/
  | xscale (h : Hdr) (o : XF)
  /-- XQNT (R140). -/
  | xqnt (h : Hdr) (o : XF)
  /-- XDQNT (R141). -/
  | xdqnt (h : Hdr) (o : XF)
  /-- XSEED (R142). -/
  | xseed (h : Hdr) (o : XF)
  /-- XRAND (R143). -/
  | xrand (h : Hdr) (o : XF)
  /-- MNOP (R146). -/
  | mnop (h : Hdr)
  /-- MWLD (R148). -/
  | mwld (h : Hdr) (o : MF)
  /-- MSWAP (R150). -/
  | mswap (h : Hdr) (o : MF)
  /-- MSHF (R149). -/
  | mshf (h : Hdr) (o : MF)
  /-- MACC (R151). -/
  | macc (h : Hdr) (o : MF)
  /-- MACCZ (R151). -/
  | maccz (h : Hdr) (o : MF)
  /-- MDRN (R157). -/
  | mdrn (h : Hdr) (o : MF)
  /-- MZERO (R156). -/
  | mzero (h : Hdr) (o : MF)
  /-- MANCH (R156). -/
  | manch (h : Hdr) (o : MF)
  /-- MSCL (R149). -/
  | mscl (h : Hdr) (o : MF)
  /-- MXSC (R153). -/
  | mxsc (h : Hdr) (o : MF)
  /-- CNOP (R47). -/
  | cnop (h : Hdr)
  /-- COPY (R166). -/
  | copy (h : Hdr) (o : RecOp)
  /-- COPYNB (R166). -/
  | copynb (h : Hdr) (o : RecDst)
  /-- TWANY (R168). -/
  | twany (h : Hdr) (o : TagMask)
  /-- TWALL (R168). -/
  | twall (h : Hdr) (o : TagMask)
  /-- TFIND (R168). -/
  | tfind (h : Hdr) (o : Tfind)
  /-- TCLR (R169). -/
  | tclr (h : Hdr) (o : TagMask)
  /-- FENCE (R172). -/
  | fence (h : Hdr) (o : Order)
  /-- FENCE_INSTR (R173). -/
  | fenceInstr (h : Hdr)
  /-- DRAIN (R174). -/
  | drain (h : Hdr) (o : Drain)
  /-- BARRIVE (R175). -/
  | barrive (h : Hdr) (o : GroupOp)
  /-- BWAIT (R175). -/
  | bwait (h : Hdr) (o : GroupOp)
  /-- BTEST (R175). -/
  | btest (h : Hdr) (o : Btest)
  /-- STEP (R176). -/
  | step (h : Hdr) (o : StepOp)
  /-- TRIGGER (R178). -/
  | trigger (h : Hdr) (o : Order)
  /-- EXIT (R179). -/
  | exit (h : Hdr)
  /-- SUBMIT (R180). -/
  | submit (h : Hdr) (o : Submit)
  /-- SKIM (R181). -/
  | skim (h : Hdr) (o : SkimOp)
  /-- EVADD (R182). -/
  | evadd (h : Hdr) (o : EvOp)
  /-- EVWAIT (R182). -/
  | evwait (h : Hdr) (o : EvOp)
  /-- TRAP (R80). -/
  | trap (h : Hdr) (o : TrapOp)
  /-- RETI (R81). -/
  | reti (h : Hdr)
  /-- LSAVE (R82). -/
  | lsave (h : Hdr) (o : LoopMem)
  /-- LLOAD (R82). -/
  | lload (h : Hdr) (o : LoopMem)
  /-- SVSAVE (R83). -/
  | svsave (h : Hdr) (o : SvOp)
  /-- SVLOAD (R83). -/
  | svload (h : Hdr) (o : SvOp)
  /-- BUNDLE_ISSUE (R189). -/
  | bundleIssue
  /-- NULLIFIER_SKIP (R191). -/
  | nullifierSkip
  /-- RESULT_LANDING (R7). -/
  | resultLanding
  /-- VARIABLE_RESULT_ARRIVAL (R187). -/
  | variableResultArrival
  /-- DEFERRED_LOAD_ERROR_TRAP (R87). -/
  | deferredLoadErrorTrap
  /-- MACHINE_ERROR_TRAP (R361). -/
  | machineErrorTrap
  /-- PREEMPTION_STOP (R192). -/
  | preemptionStop
  /-- PREEMPT_HELD_TIMEOUT (R199). -/
  | preemptHeldTimeout
  /-- SYSTEM_TRAP_ENTRY (R202). -/
  | systemTrapEntry
  /-- STEP_DELIVERY (R176). -/
  | stepDelivery
  /-- COPYNB_STATUS (R166). -/
  | copynbStatus
  /-- SUBMIT_STATUS (R180). -/
  | submitStatus
  /-- SKIM_STATUS (R181). -/
  | skimStatus
  /-- READ_PORT_FILL (R100). -/
  | readPortFill
  /-- WRITE_PORT_WRITE (R100). -/
  | writePortWrite
  /-- GROUP_LOAD_MEMBER_READ (R283). -/
  | groupLoadMemberRead
  /-- GROUP_LOAD_COMPLETE (R97). -/
  | groupLoadComplete
  /-- HTAKE_OFFER_ACCEPT (R105). -/
  | htakeOfferAccept
  /-- HANDLE_RETURN_COMPLETE (R106). -/
  | handleReturnComplete
  /-- EXIT_COMPLETE (R179). -/
  | exitComplete
  /-- COPY_START (R166). -/
  | copyStart
  /-- COPY_COMPLETE (R167). -/
  | copyComplete
  /-- SV_COMMAND_COMPLETE (R83). -/
  | svCommandComplete
  /-- LAUNCH_BY_DELTA (R243). -/
  | launchByDelta
  /-- LAUNCH_BY_REFERENCE (R243). -/
  | launchByReference
  /-- QUEUE_RESET (R243). -/
  | queueReset
  /-- QUEUE_SET_IN_ORDER (R242). -/
  | queueSetInOrder
  /-- QUEUE_SET_CONCURRENT (R242). -/
  | queueSetConcurrent
  /-- QUEUE_DISABLE (R243). -/
  | queueDisable
  /-- QUEUE_ENABLE (R243). -/
  | queueEnable
  /-- SUBMISSION_STRAY_WRITE (R244). -/
  | submissionStrayWrite
  /-- GROUP_LIST_READ (R246). -/
  | groupListRead
  /-- LAUNCH_ADMISSION (R249). -/
  | launchAdmission
  /-- CLUSTER_JOIN (R249). -/
  | clusterJoin
  /-- STEP_SERVICE (R250). -/
  | stepService
  /-- EARLY_TRIGGER_ADD (R253). -/
  | earlyTriggerAdd
  /-- LAUNCH_COMPLETION (R253). -/
  | launchCompletion
  /-- PREEMPTION_DEADLINE_EXPIRY (R257). -/
  | preemptionDeadlineExpiry
  /-- LAUNCH_PREEMPTED (R258). -/
  | launchPreempted
  /-- LAUNCH_RESUME (R260). -/
  | launchResume
  /-- PRIORITY_AGEING (R261). -/
  | priorityAgeing
  /-- COUNTER_ADD_WRITE (R357). -/
  | counterAddWrite
  /-- COUNTER_SET_WRITE (R357). -/
  | counterSetWrite
  /-- EVT_IRQ_WRITE (R358). -/
  | evtIrqWrite
  /-- STORYBOARD_LOAD (R294). -/
  | storyboardLoad
  /-- STORYBOARD_RUN (R295). -/
  | storyboardRun
  /-- RUN_ARMING (R295). -/
  | runArming
  /-- ENTRY_FIRE (R296). -/
  | entryFire
  /-- NOTICE_RECEIVE (R304). -/
  | noticeReceive
  /-- NOTICE_REPOST (R304). -/
  | noticeRepost
  /-- PULL_NOTICE_MATCH (R305). -/
  | pullNoticeMatch
  /-- ROOM_ACQUIRE (R306). -/
  | roomAcquire
  /-- PULL_DATA_ARRIVAL (R305). -/
  | pullDataArrival
  /-- NOTICE_COMPLETE (R303). -/
  | noticeComplete
  /-- ENTRY_COMPLETE (R297). -/
  | entryComplete
  /-- FLIT_RECEIVE (R315). -/
  | flitReceive
  /-- TRANSLATION_FAULT_PARK (R328). -/
  | translationFaultPark
  /-- XL_ROOT_WRITE (R323). -/
  | xlRootWrite
  /-- XL_INVAL_WRITE (R327). -/
  | xlInvalWrite
  /-- XL_INVAL_COMPLETE (R327). -/
  | xlInvalComplete
  /-- XL_RESOLVE_RESUME (R329). -/
  | xlResolveResume
  /-- XL_RESOLVE_ABORT (R329). -/
  | xlResolveAbort
  /-- RING_TAIL_WRITE (R356). -/
  | ringTailWrite
  /-- RING_CONFIG_WRITE (R356). -/
  | ringConfigWrite
  /-- DM_CONFIG_WRITE (R332). -/
  | dmConfigWrite
  /-- HW_ERROR_EVENT (R363). -/
  | hwErrorEvent
  /-- MAKE_GOOD_REBUILD (R341). -/
  | makeGoodRebuild
  /-- HBM_RETRAIN (R338). -/
  | hbmRetrain
  /-- SELF_REFRESH_ENTRY (R338). -/
  | selfRefreshEntry
  /-- SKIM_ENGINE_START (R347). -/
  | skimEngineStart
  /-- SKIM_BLOCK_QUANTISE (R350). -/
  | skimBlockQuantise
  /-- SKIM_RECORD_COMPLETE (R352). -/
  | skimRecordComplete
  /-- HOST_DEVMEM_ACCESS (R354). -/
  | hostDevmemAccess
  /-- CORE_CTL_FENCE (R360). -/
  | coreCtlFence
  /-- CORE_CTL_END (R360). -/
  | coreCtlEnd
  /-- CORE_CTL_STOP (R360). -/
  | coreCtlStop
  /-- FABRIC_PKGID_WRITE (R15). -/
  | fabricPkgidWrite
  /-- FABRIC_DIMS_WRITE (R356). -/
  | fabricDimsWrite
  /-- SEC_POLICY_WRITE (R371). -/
  | secPolicyWrite
  /-- REGISTER_WRITE (R356). -/
  | registerWrite
  /-- MBOX_ATTEST (R370). -/
  | mboxAttest
  /-- MBOX_IMAGE_CHUNK (R369). -/
  | mboxImageChunk
  /-- MBOX_IMAGE_END (R369). -/
  | mboxImageEnd
  /-- MBOX_IMAGE_RESET (R369). -/
  | mboxImageReset
  /-- MBOX_UNKNOWN_COMMAND (R369). -/
  | mboxUnknownCommand
  /-- RESET_RELEASE (R366). -/
  | resetRelease
  /-- SENSOR_ALARM (R372). -/
  | sensorAlarm
  /-- POWER_MANAGER_TICK (R373). -/
  | powerManagerTick
  /-- THERMAL_TRIP (R374). -/
  | thermalTrip
  /-- THERMAL_STEP_TICK (R374). -/
  | thermalStepTick
  /-- I3C_TELEMETRY_READ (R375). -/
  | i3cTelemetryRead
  /-- I3C_CAP_WRITE (R375). -/
  | i3cCapWrite
  /-- I3C_STATUS_READ (R375). -/
  | i3cStatusRead
  /-- I3C_FENCE_MAP_READ (R375). -/
  | i3cFenceMapRead
  /-- I3C_UNKNOWN_COMMAND (R375). -/
  | i3cUnknownCommand
  /-- POWER_CYCLE (R372). -/
  | powerCycle
  /-- PORT_RETRAINING_COMPLETE (R315). -/
  | portRetrainingComplete
  /-- ENTDAA (R375). -/
  | entdaa
  deriving DecidableEq, Repr

end Sys2Proof
end

