-- ==== Sys2Proof/Decode.lean ====
section
/-! DEFINITION. The binary form of bundles, slot words and branch words (R20 to R48, and the encoding table of each
instruction chapter): decoding, which is total and refuses by the REASON code of R48, the advance of a sticky word
(R24), and after them the encoder. -/

namespace Sys2Proof

/-! ## Fields -/

/-- The field of `n` bits of a word whose lowest bit is `lo`. -/
def fld (n : Nat) (w : W64) (lo : Nat) : BitVec n := BitVec.ofNat n (w.toNat >>> lo)

/-- One bit of a word. -/
def bit (w : W64) (i : Nat) : Bool := w.toNat.testBit i

/-- A scalar source: the register field at `lo` and its FE bit. -/
def srcAt (w : W64) (lo feBit : Nat) : Src := ⟨fld 6 w lo, bit w feBit⟩

/-- The bits of a scalar source, as a number to be added to a word. -/
def srcEnc (s : Src) (lo feBit : Nat) : Nat := s.r.toNat * 2 ^ lo + s.fe.toNat * 2 ^ feBit

/-! ## Types (R32) -/

/-- The width in bits of an element of a type code; 0 for the reserved code. -/
def tyWidth (ty : BitVec 4) : Nat :=
  match ty.toNat with
  | 0 | 1 | 11 | 12 | 14 => 8
  | 2 | 3 | 9 | 10 => 16
  | 4 | 5 | 8 => 32
  | 6 | 7 | 13 => 4
  | _ => 0

/-- The codes of integer types. -/
def tyInt (ty : BitVec 4) : Bool := ty.toNat ≤ 7

/-- The codes 8 to 10. -/
def tyF (ty : BitVec 4) : Bool := 8 ≤ ty.toNat && ty.toNat ≤ 10

/-! ## Line specifiers (R29, R30) -/

/-- KIND of a line specifier. -/
def specKind (s : BitVec 13) : Nat := (s.toNat >>> 10) % 4

/-- Bits [9:0] of a line specifier: tile and index, or the special value. -/
def specLow (s : BitVec 13) : Nat := s.toNat % 1024

/-- Index of a line specifier. -/
def specIndex (s : BitVec 13) : Nat := s.toNat % 128

/-- FE of a line specifier. -/
def specFe (s : BitVec 13) : Bool := s.toNat.testBit 12

/-- A tile line: KIND 00, 01 or 10. -/
def specTile (s : BitVec 13) : Bool := specKind s != 3

/-- A legal source specifier (R30). -/
def srcSpecOk (s : BitVec 13) : Bool :=
  specTile s || specLow s ≤ 7 || (0x40 ≤ specLow s && specLow s ≤ 0x7F) || specLow s == 0x3FF

/-- A legal destination specifier (R29, R30). -/
def dstSpecOk (s : BitVec 13) : Bool :=
  !specFe s && (specTile s || specLow s ≤ 3 || specLow s == 0x3FF)

/-- The specifier of the next line: Index plus `n`, modulo 128; a special specifier never moves (R24). -/
def specAdvance (s : BitVec 13) (n : Nat) : BitVec 13 :=
  if specTile s then BitVec.ofNat 13 (s.toNat / 128 * 128 + (s.toNat + n) % 128) else s

/-! ## Operand fields, as each instruction's entry places them -/

def RR.dec (w : W64) : RR := ⟨fld 6 w 46, srcAt w 40 38, srcAt w 32 31⟩
def RR.enc (o : RR) : Nat := o.d.toNat * 2 ^ 46 + srcEnc o.a 40 38 + srcEnc o.b 32 31

def RI.dec (w : W64) : RI := ⟨fld 6 w 46, srcAt w 40 38, fld 32 w 0⟩
def RI.enc (o : RI) : Nat := o.d.toNat * 2 ^ 46 + srcEnc o.a 40 38 + 2 ^ 39 + o.imm.toNat

def R1.dec (w : W64) : R1 := ⟨fld 6 w 46, srcAt w 40 38⟩
def R1.enc (o : R1) : Nat := o.d.toNat * 2 ^ 46 + srcEnc o.a 40 38

def Bf.dec (w : W64) : Bf := ⟨fld 6 w 46, srcAt w 40 38, fld 6 w 18, fld 6 w 12⟩
def Bf.enc (o : Bf) : Nat :=
  o.d.toNat * 2 ^ 46 + srcEnc o.a 40 38 + o.pos.toNat * 2 ^ 18 + o.wm1.toNat * 2 ^ 12

def Bfi.dec (w : W64) : Bfi := ⟨fld 6 w 46, srcAt w 40 38, srcAt w 32 31, fld 6 w 18, fld 6 w 12⟩
def Bfi.enc (o : Bfi) : Nat :=
  o.d.toNat * 2 ^ 46 + srcEnc o.a 40 38 + srcEnc o.b 32 31 + o.pos.toNat * 2 ^ 18 + o.wm1.toNat * 2 ^ 12

def R3.dec (w : W64) : R3 := ⟨fld 6 w 46, srcAt w 40 38, srcAt w 32 31, srcAt w 25 24⟩
def R3.enc (o : R3) : Nat := o.d.toNat * 2 ^ 46 + srcEnc o.a 40 38 + srcEnc o.b 32 31 + srcEnc o.c 25 24

def SelR.dec (w : W64) : SelR := ⟨fld 6 w 46, srcAt w 40 38, srcAt w 32 31, fld 4 w 20⟩
def SelR.enc (o : SelR) : Nat :=
  o.d.toNat * 2 ^ 46 + srcEnc o.a 40 38 + srcEnc o.b 32 31 + o.q.toNat * 2 ^ 20

def SelI.dec (w : W64) : SelI := ⟨fld 6 w 46, srcAt w 40 38, fld 4 w 34, fld 32 w 0⟩
def SelI.enc (o : SelI) : Nat :=
  o.d.toNat * 2 ^ 46 + srcEnc o.a 40 38 + 2 ^ 39 + o.q.toNat * 2 ^ 34 + o.imm.toNat

def Movi.dec (w : W64) : Movi := ⟨fld 6 w 46, fld 32 w 0⟩
def Movi.enc (o : Movi) : Nat := o.d.toNat * 2 ^ 46 + 2 ^ 39 + o.imm.toNat

def CmpR.dec (w : W64) : CmpR := ⟨fld 4 w 46, srcAt w 40 38, srcAt w 32 31⟩
def CmpR.enc (o : CmpR) : Nat := o.pd.toNat * 2 ^ 46 + srcEnc o.a 40 38 + srcEnc o.b 32 31

def CmpI.dec (w : W64) : CmpI := ⟨fld 4 w 46, srcAt w 40 38, fld 32 w 0⟩
def CmpI.enc (o : CmpI) : Nat := o.pd.toNat * 2 ^ 46 + srcEnc o.a 40 38 + 2 ^ 39 + o.imm.toNat

def PredOp.dec (w : W64) : PredOp := ⟨fld 4 w 46, fld 4 w 40, fld 4 w 32, bit w 23, bit w 22⟩
def PredOp.enc (o : PredOp) : Nat :=
  o.pd.toNat * 2 ^ 46 + o.pa.toNat * 2 ^ 40 + o.pb.toNat * 2 ^ 32 + o.na.toNat * 2 ^ 23 + o.nb.toNat * 2 ^ 22

def PsetOp.dec (w : W64) : PsetOp := ⟨fld 32 w 0⟩
def PsetOp.enc (o : PsetOp) : Nat := 2 ^ 39 + o.imm.toNat

def FpR.dec (w : W64) : FpR := ⟨fld 6 w 46, srcAt w 40 38, srcAt w 32 31, fld 3 w 21⟩
def FpR.enc (o : FpR) : Nat :=
  o.d.toNat * 2 ^ 46 + srcEnc o.a 40 38 + srcEnc o.b 32 31 + o.rm.toNat * 2 ^ 21

def FpI.dec (w : W64) : FpI := ⟨fld 6 w 46, srcAt w 40 38, fld 3 w 35, fld 32 w 0⟩
def FpI.enc (o : FpI) : Nat :=
  o.d.toNat * 2 ^ 46 + srcEnc o.a 40 38 + 2 ^ 39 + o.rm.toNat * 2 ^ 35 + o.imm.toNat

def Fma3.dec (w : W64) : Fma3 :=
  ⟨fld 6 w 46, srcAt w 40 38, srcAt w 32 31, srcAt w 25 24, if bit w 39 then fld 3 w 35 else fld 3 w 21⟩
def Fma3.enc (o : Fma3) : Nat :=
  o.d.toNat * 2 ^ 46 + srcEnc o.a 40 38 + srcEnc o.b 32 31 + srcEnc o.c 25 24 + o.rm.toNat * 2 ^ 21

def FcmpR.dec (w : W64) : FcmpR := ⟨fld 4 w 46, srcAt w 40 38, srcAt w 32 31, fld 3 w 21⟩
def FcmpR.enc (o : FcmpR) : Nat :=
  o.pd.toNat * 2 ^ 46 + srcEnc o.a 40 38 + srcEnc o.b 32 31 + o.rm.toNat * 2 ^ 21

def FcmpI.dec (w : W64) : FcmpI := ⟨fld 4 w 46, srcAt w 40 38, fld 3 w 35, fld 32 w 0⟩
def FcmpI.enc (o : FcmpI) : Nat :=
  o.pd.toNat * 2 ^ 46 + srcEnc o.a 40 38 + 2 ^ 39 + o.rm.toNat * 2 ^ 35 + o.imm.toNat

def Fcvt.dec (w : W64) : Fcvt := ⟨fld 6 w 46, srcAt w 40 38, fld 3 w 21, fld 4 w 17, bit w 16⟩
def Fcvt.enc (o : Fcvt) : Nat :=
  o.d.toNat * 2 ^ 46 + srcEnc o.a 40 38 + o.rm.toNat * 2 ^ 21 + o.ty.toNat * 2 ^ 17 + o.wide.toNat * 2 ^ 16

def Rdsr.dec (w : W64) : Rdsr := ⟨fld 6 w 46, fld 8 w 16⟩
def Rdsr.enc (o : Rdsr) : Nat := o.d.toNat * 2 ^ 46 + o.num.toNat * 2 ^ 16

def Wrsr.dec (w : W64) : Wrsr := ⟨fld 8 w 16, srcAt w 40 38⟩
def Wrsr.enc (o : Wrsr) : Nat := o.num.toNat * 2 ^ 16 + srcEnc o.a 40 38

def Mem.dec (w : W64) : Mem :=
  ⟨fld 6 w 46, srcAt w 40 39, fld 2 w 37, bit w 36, fld 2 w 34, fld 3 w 31, fld 24 w 0⟩
def Mem.enc (o : Mem) : Nat :=
  o.reg.toNat * 2 ^ 46 + srcEnc o.base 40 39 + o.size.toNat * 2 ^ 37 + o.bit36.toNat * 2 ^ 36 +
  o.ord.toNat * 2 ^ 34 + o.scope.toNat * 2 ^ 31 + o.off.toNat

def MemIdx.dec (w : W64) : MemIdx :=
  ⟨fld 6 w 46, srcAt w 40 39, fld 2 w 37, bit w 36, fld 2 w 34, fld 3 w 31, srcAt w 23 22⟩
def MemIdx.enc (o : MemIdx) : Nat :=
  o.reg.toNat * 2 ^ 46 + srcEnc o.base 40 39 + o.size.toNat * 2 ^ 37 + o.bit36.toNat * 2 ^ 36 +
  o.ord.toNat * 2 ^ 34 + o.scope.toNat * 2 ^ 31 + srcEnc o.index 23 22

def LineMem.dec (w : W64) : LineMem :=
  ⟨fld 13 w 39, bit w 38, fld 2 w 34, fld 3 w 31, srcAt w 25 24, fld 4 w 18, fld 18 w 0⟩
def LineMem.enc (o : LineMem) : Nat :=
  o.line.toNat * 2 ^ 39 + o.ad.toNat * 2 ^ 38 + o.ord.toNat * 2 ^ 34 + o.scope.toNat * 2 ^ 31 +
  srcEnc o.base 25 24 + o.mask.toNat * 2 ^ 18 + o.off.toNat

def Gather.dec (w : W64) : Gather :=
  ⟨fld 13 w 39, bit w 38, fld 2 w 36, fld 2 w 34, fld 3 w 31, fld 13 w 18, srcAt w 12 11, fld 4 w 7, bit w 6,
    bit w 5⟩
def Gather.enc (o : Gather) : Nat :=
  o.line.toNat * 2 ^ 39 + o.sx.toNat * 2 ^ 38 + o.size.toNat * 2 ^ 36 + o.ord.toNat * 2 ^ 34 +
  o.scope.toNat * 2 ^ 31 + o.index.toNat * 2 ^ 18 + srcEnc o.base 12 11 + o.mask.toNat * 2 ^ 7 +
  o.z.toNat * 2 ^ 6 + o.sc.toNat * 2 ^ 5

def Gld.dec (w : W64) : Gld :=
  ⟨fld 13 w 39, fld 3 w 36, fld 2 w 34, fld 3 w 31, srcAt w 25 24, fld 4 w 20, fld 4 w 16, fld 16 w 0⟩
def Gld.enc (o : Gld) : Nat :=
  o.line.toNat * 2 ^ 39 + o.op.toNat * 2 ^ 36 + o.ord.toNat * 2 ^ 34 + o.scope.toNat * 2 ^ 31 +
  srcEnc o.base 25 24 + o.ty.toNat * 2 ^ 20 + o.cp.toNat * 2 ^ 16 + o.off.toNat

def Glds.dec (w : W64) : Glds :=
  ⟨fld 6 w 46, fld 3 w 36, fld 2 w 34, fld 3 w 31, srcAt w 25 24, fld 4 w 20, fld 4 w 16, fld 16 w 0⟩
def Glds.enc (o : Glds) : Nat :=
  o.dest.toNat * 2 ^ 46 + o.op.toNat * 2 ^ 36 + o.ord.toNat * 2 ^ 34 + o.scope.toNat * 2 ^ 31 +
  srcEnc o.base 25 24 + o.ty.toNat * 2 ^ 20 + o.cp.toNat * 2 ^ 16 + o.off.toNat

def Amo.dec (w : W64) : Amo :=
  ⟨fld 6 w 46, srcAt w 40 39, fld 2 w 37, fld 2 w 34, fld 3 w 31, srcAt w 25 24, fld 4 w 20⟩
def Amo.enc (o : Amo) : Nat :=
  o.dest.toNat * 2 ^ 46 + srcEnc o.addr 40 39 + o.size.toNat * 2 ^ 37 + o.ord.toNat * 2 ^ 34 +
  o.scope.toNat * 2 ^ 31 + srcEnc o.val 25 24 + o.op.toNat * 2 ^ 20

def Cas.dec (w : W64) : Cas :=
  ⟨fld 6 w 46, srcAt w 40 39, fld 2 w 37, fld 2 w 34, fld 3 w 31, srcAt w 25 24, srcAt w 18 17⟩
def Cas.enc (o : Cas) : Nat :=
  o.dest.toNat * 2 ^ 46 + srcEnc o.addr 40 39 + o.size.toNat * 2 ^ 37 + o.ord.toNat * 2 ^ 34 +
  o.scope.toNat * 2 ^ 31 + srcEnc o.exp 25 24 + srcEnc o.new 18 17

def Amol.dec (w : W64) : Amol :=
  ⟨fld 13 w 39, fld 3 w 36, fld 2 w 34, fld 3 w 31, srcAt w 25 24, fld 4 w 20, fld 4 w 16, fld 16 w 0⟩
def Amol.enc (o : Amol) : Nat :=
  o.src.toNat * 2 ^ 39 + o.op.toNat * 2 ^ 36 + o.ord.toNat * 2 ^ 34 + o.scope.toNat * 2 ^ 31 +
  srcEnc o.base 25 24 + o.ty.toNat * 2 ^ 20 + o.mask.toNat * 2 ^ 16 + o.off.toNat

def Pcfg.dec (w : W64) : Pcfg := ⟨fld 4 w 48, srcAt w 25 24, fld 16 w 0⟩
def Pcfg.enc (o : Pcfg) : Nat := o.port.toNat * 2 ^ 48 + srcEnc o.base 25 24 + o.off.toNat

def PortOp.dec (w : W64) : PortOp := ⟨fld 4 w 48⟩
def PortOp.enc (o : PortOp) : Nat := o.port.toNat * 2 ^ 48

def Hgive.dec (w : W64) : Hgive := ⟨fld 6 w 46, srcAt w 40 39, srcAt w 25 24⟩
def Hgive.enc (o : Hgive) : Nat := o.dest.toNat * 2 ^ 46 + srcEnc o.base 40 39 + srcEnc o.desc 25 24

def Htake.dec (w : W64) : Htake := ⟨fld 6 w 46, fld 4 w 42⟩
def Htake.enc (o : Htake) : Nat := o.dest.toNat * 2 ^ 46 + o.h.toNat * 2 ^ 42

def Hback.dec (w : W64) : Hback := ⟨fld 4 w 48⟩
def Hback.enc (o : Hback) : Nat := o.h.toNat * 2 ^ 48

def VF.dec (w : W64) : VF :=
  ⟨fld 4 w 48, fld 4 w 44, fld 13 w 31, fld 13 w 18, fld 13 w 5, fld 3 w 2, bit w 1, bit w 0⟩
def VF.enc (o : VF) : Nat :=
  o.ty.toNat * 2 ^ 48 + o.k.toNat * 2 ^ 44 + o.dst.toNat * 2 ^ 31 + o.s1.toNat * 2 ^ 18 + o.s2.toNat * 2 ^ 5 +
  o.mode.toNat * 2 ^ 2 + o.sat.toNat * 2 + o.z.toNat

def XF.dec (w : W64) : XF :=
  ⟨fld 4 w 48, fld 4 w 44, fld 13 w 31, fld 13 w 18, fld 13 w 5, fld 3 w 2, fld 2 w 0⟩
def XF.enc (o : XF) : Nat :=
  o.dt.toNat * 2 ^ 48 + o.st.toNat * 2 ^ 44 + o.dst.toNat * 2 ^ 31 + o.s1.toNat * 2 ^ 18 + o.s2.toNat * 2 ^ 5 +
  o.mode.toNat * 2 ^ 2 + o.md.toNat

def MF.dec (w : W64) : MF :=
  ⟨fld 4 w 48, fld 4 w 44, bit w 43, bit w 42, fld 7 w 35, fld 13 w 22, fld 3 w 19, fld 19 w 0⟩
def MF.enc (o : MF) : Nat :=
  o.wty.toNat * 2 ^ 48 + o.sty.toNat * 2 ^ 44 + o.trans.toNat * 2 ^ 43 + o.bank.toNat * 2 ^ 42 +
  o.row.toNat * 2 ^ 35 + o.line.toNat * 2 ^ 22 + o.seg.toNat * 2 ^ 19 + o.low.toNat

def RecOp.dec (w : W64) : RecOp := ⟨srcAt w 25 24, fld 16 w 0⟩
def RecOp.enc (o : RecOp) : Nat := srcEnc o.base 25 24 + o.off.toNat

def RecDst.dec (w : W64) : RecDst := ⟨fld 6 w 46, srcAt w 25 24, fld 16 w 0⟩
def RecDst.enc (o : RecDst) : Nat := o.dest.toNat * 2 ^ 46 + srcEnc o.base 25 24 + o.off.toNat

def TagMask.dec (w : W64) : TagMask := ⟨srcAt w 25 24⟩
def TagMask.enc (o : TagMask) : Nat := srcEnc o.mask 25 24

def Tfind.dec (w : W64) : Tfind := ⟨fld 6 w 46, srcAt w 25 24⟩
def Tfind.enc (o : Tfind) : Nat := o.dest.toNat * 2 ^ 46 + srcEnc o.mask 25 24

def Order.dec (w : W64) : Order := ⟨fld 2 w 34, fld 3 w 31⟩
def Order.enc (o : Order) : Nat := o.ord.toNat * 2 ^ 34 + o.scope.toNat * 2 ^ 31

def Drain.dec (w : W64) : Drain := ⟨bit w 51, bit w 50, fld 2 w 34, fld 3 w 31⟩
def Drain.enc (o : Drain) : Nat :=
  o.nt.toNat * 2 ^ 51 + o.cp.toNat * 2 ^ 50 + o.ord.toNat * 2 ^ 34 + o.scope.toNat * 2 ^ 31

def GroupOp.dec (w : W64) : GroupOp := ⟨fld 8 w 44⟩
def GroupOp.enc (o : GroupOp) : Nat := o.group.toNat * 2 ^ 44

def Btest.dec (w : W64) : Btest := ⟨fld 8 w 44, fld 4 w 40⟩
def Btest.enc (o : Btest) : Nat := o.group.toNat * 2 ^ 44 + o.pd.toNat * 2 ^ 40

def StepOp.dec (w : W64) : StepOp := ⟨fld 6 w 46⟩
def StepOp.enc (o : StepOp) : Nat := o.d.toNat * 2 ^ 46

def Submit.dec (w : W64) : Submit := ⟨fld 6 w 46, fld 7 w 39, fld 2 w 34, fld 3 w 31, srcAt w 25 24, fld 16 w 0⟩
def Submit.enc (o : Submit) : Nat :=
  o.dest.toNat * 2 ^ 46 + o.queue.toNat * 2 ^ 39 + o.ord.toNat * 2 ^ 34 + o.scope.toNat * 2 ^ 31 +
  srcEnc o.base 25 24 + o.off.toNat

def SkimOp.dec (w : W64) : SkimOp := ⟨fld 6 w 46, fld 2 w 34, fld 3 w 31, srcAt w 25 24, fld 16 w 0⟩
def SkimOp.enc (o : SkimOp) : Nat :=
  o.dest.toNat * 2 ^ 46 + o.ord.toNat * 2 ^ 34 + o.scope.toNat * 2 ^ 31 + srcEnc o.base 25 24 + o.off.toNat

def EvOp.dec (w : W64) : EvOp := ⟨fld 2 w 34, fld 3 w 31, srcAt w 25 24, srcAt w 18 17⟩
def EvOp.enc (o : EvOp) : Nat :=
  o.ord.toNat * 2 ^ 34 + o.scope.toNat * 2 ^ 31 + srcEnc o.ctr 25 24 + srcEnc o.val 18 17

def TrapOp.dec (w : W64) : TrapOp := ⟨fld 8 w 44⟩
def TrapOp.enc (o : TrapOp) : Nat := o.num.toNat * 2 ^ 44

def LoopMem.dec (w : W64) : LoopMem := ⟨srcAt w 46 45, fld 16 w 0⟩
def LoopMem.enc (o : LoopMem) : Nat := srcEnc o.base 46 45 + o.off.toNat

def SvOp.dec (w : W64) : SvOp := ⟨srcAt w 46 45, fld 3 w 42, fld 6 w 36, fld 2 w 34, fld 3 w 31⟩
def SvOp.enc (o : SvOp) : Nat :=
  srcEnc o.base 46 45 + o.part.toNat * 2 ^ 42 + o.tag.toNat * 2 ^ 36 + o.ord.toNat * 2 ^ 34 +
  o.scope.toNat * 2 ^ 31

def BrtOp.dec (w0 w1 : W64) : BrtOp :=
  ⟨fld 5 w0 54, fld 4 w0 50, fld 4 w0 46, fld 4 w0 42, fld 4 w0 38, fld 20 w0 16, fld 20 w1 44, fld 20 w1 24,
    fld 20 w1 4, BitVec.ofNat 20 ((fld 4 w1 0).toNat * 2 ^ 16 + (fld 16 w0 0).toNat)⟩
def BrtOp.enc0 (o : BrtOp) : Nat :=
  o.shape.toNat * 2 ^ 54 + o.p0.toNat * 2 ^ 50 + o.p1.toNat * 2 ^ 46 + o.p2.toNat * 2 ^ 42 + o.p3.toNat * 2 ^ 38 +
  o.leaf0.toNat * 2 ^ 16 + o.leaf4.toNat % 2 ^ 16
def BrtOp.enc1 (o : BrtOp) : Nat :=
  o.leaf1.toNat * 2 ^ 44 + o.leaf2.toNat * 2 ^ 24 + o.leaf3.toNat * 2 ^ 4 + o.leaf4.toNat / 2 ^ 16

/-! ## Opcode maps -/

/-- The header part of a slot word (R27). -/
def hdrOf (slot : Fin 9) (w : W64) : Hdr := ⟨slot, bit w 56, fld 4 w 52⟩

/-- The S-slot opcodes (R43). -/
def parseS (h : Hdr) (w : W64) : Option Instr :=
  match w.toNat >>> 57 with
  | 0x00 => some (.snop h)
  | 0x01 => some (if bit w 39 then .addImm h (RI.dec w) else .add h (RR.dec w))
  | 0x02 => some (if bit w 39 then .subImm h (RI.dec w) else .sub h (RR.dec w))
  | 0x03 => some (if bit w 39 then .mulImm h (RI.dec w) else .mul h (RR.dec w))
  | 0x04 => some (if bit w 39 then .mulhImm h (RI.dec w) else .mulh h (RR.dec w))
  | 0x05 => some (if bit w 39 then .mulhzImm h (RI.dec w) else .mulhz h (RR.dec w))
  | 0x06 => some (if bit w 39 then .divImm h (RI.dec w) else .div h (RR.dec w))
  | 0x07 => some (if bit w 39 then .divzImm h (RI.dec w) else .divz h (RR.dec w))
  | 0x08 => some (if bit w 39 then .remImm h (RI.dec w) else .rem h (RR.dec w))
  | 0x09 => some (if bit w 39 then .remzImm h (RI.dec w) else .remz h (RR.dec w))
  | 0x0A => some (if bit w 39 then .andImm h (RI.dec w) else .and h (RR.dec w))
  | 0x0B => some (if bit w 39 then .orImm h (RI.dec w) else .or h (RR.dec w))
  | 0x0C => some (if bit w 39 then .xorImm h (RI.dec w) else .xor h (RR.dec w))
  | 0x0D => some (if bit w 39 then .andnImm h (RI.dec w) else .andn h (RR.dec w))
  | 0x0E => some (if bit w 39 then .shlImm h (RI.dec w) else .shl h (RR.dec w))
  | 0x0F => some (if bit w 39 then .shrImm h (RI.dec w) else .shr h (RR.dec w))
  | 0x10 => some (if bit w 39 then .sarImm h (RI.dec w) else .sar h (RR.dec w))
  | 0x11 => some (if bit w 39 then .rolImm h (RI.dec w) else .rol h (RR.dec w))
  | 0x12 => some (if bit w 39 then .minImm h (RI.dec w) else .min h (RR.dec w))
  | 0x13 => some (if bit w 39 then .maxImm h (RI.dec w) else .max h (RR.dec w))
  | 0x14 => some (if bit w 39 then .minzImm h (RI.dec w) else .minz h (RR.dec w))
  | 0x15 => some (if bit w 39 then .maxzImm h (RI.dec w) else .maxz h (RR.dec w))
  | 0x16 => some (.clz h (R1.dec w))
  | 0x17 => some (.ctz h (R1.dec w))
  | 0x18 => some (.popc h (R1.dec w))
  | 0x19 => some (.bfx h (Bf.dec w))
  | 0x1A => some (.bfxz h (Bf.dec w))
  | 0x1B => some (.bfi h (Bfi.dec w))
  | 0x1C => some (.fshl h (R3.dec w))
  | 0x1D => some (.fshr h (R3.dec w))
  | 0x1E => some (if bit w 39 then .selImm h (SelI.dec w) else .sel h (SelR.dec w))
  | 0x1F => some (.movi h (Movi.dec w))
  | 0x20 => some (.movhi h (RI.dec w))
  | 0x21 => some (if bit w 39 then .cmpeqImm h (CmpI.dec w) else .cmpeq h (CmpR.dec w))
  | 0x22 => some (if bit w 39 then .cmpneImm h (CmpI.dec w) else .cmpne h (CmpR.dec w))
  | 0x23 => some (if bit w 39 then .cmpltImm h (CmpI.dec w) else .cmplt h (CmpR.dec w))
  | 0x24 => some (if bit w 39 then .cmpleImm h (CmpI.dec w) else .cmple h (CmpR.dec w))
  | 0x25 => some (if bit w 39 then .cmpltzImm h (CmpI.dec w) else .cmpltz h (CmpR.dec w))
  | 0x26 => some (if bit w 39 then .cmplezImm h (CmpI.dec w) else .cmplez h (CmpR.dec w))
  | 0x28 => some (.pand h (PredOp.dec w))
  | 0x29 => some (.por h (PredOp.dec w))
  | 0x2A => some (.pxor h (PredOp.dec w))
  | 0x2B => some (.pandn h (PredOp.dec w))
  | 0x2C => some (.pset h (PsetOp.dec w))
  | 0x30 => some (if bit w 39 then .faddImm h (FpI.dec w) else .fadd h (FpR.dec w))
  | 0x31 => some (if bit w 39 then .fsubImm h (FpI.dec w) else .fsub h (FpR.dec w))
  | 0x32 => some (if bit w 39 then .fmulImm h (FpI.dec w) else .fmul h (FpR.dec w))
  | 0x33 => some (.fma h (Fma3.dec w))
  | 0x34 => some (if bit w 39 then .fminImm h (FpI.dec w) else .fmin h (FpR.dec w))
  | 0x35 => some (if bit w 39 then .fmaxImm h (FpI.dec w) else .fmax h (FpR.dec w))
  | 0x36 => some (if bit w 39 then .fcmpeqImm h (FcmpI.dec w) else .fcmpeq h (FcmpR.dec w))
  | 0x37 => some (if bit w 39 then .fcmpltImm h (FcmpI.dec w) else .fcmplt h (FcmpR.dec w))
  | 0x38 => some (if bit w 39 then .fcmpleImm h (FcmpI.dec w) else .fcmple h (FcmpR.dec w))
  | 0x39 => some (.fcvti h (Fcvt.dec w))
  | 0x3A => some (.fcvtf h (Fcvt.dec w))
  | 0x3E => some (.rdsr h (Rdsr.dec w))
  | 0x3F => some (.wrsr h (Wrsr.dec w))
  | _ => none

/-- The L-slot opcodes (R44), with the modes of R90 and R91. -/
def parseL (h : Hdr) (w : W64) : Option Instr :=
  match w.toNat >>> 57 with
  | 0x00 => some (.lnop h)
  | 0x01 => some (match fld 2 w 29 with | 1#2 => .ldIndexed h (MemIdx.dec w) | 2#2 => .ldPostinc h (Mem.dec w) | _ => .ld h (Mem.dec w))
  | 0x02 => some (match fld 2 w 29 with | 1#2 => .stIndexed h (MemIdx.dec w) | 2#2 => .stPostinc h (Mem.dec w) | _ => .st h (Mem.dec w))
  | 0x03 => some (match fld 2 w 22 with | 2#2 => .ldlPostinc h (LineMem.dec w) | _ => .ldl h (LineMem.dec w))
  | 0x04 => some (match fld 2 w 22 with | 2#2 => .stlPostinc h (LineMem.dec w) | _ => .stl h (LineMem.dec w))
  | 0x05 => some (.ldx h (Gather.dec w))
  | 0x06 => some (.stx h (Gather.dec w))
  | 0x08 => some (.gld h (Gld.dec w))
  | 0x09 => some (.glds h (Glds.dec w))
  | 0x0A => some (.amo h (Amo.dec w))
  | 0x0B => some (.cas h (Cas.dec w))
  | 0x0C => some (.amol h (Amol.dec w))
  | 0x10 => some (.pcfg h (Pcfg.dec w))
  | 0x11 => some (.prst h (PortOp.dec w))
  | 0x12 => some (.hgive h (Hgive.dec w))
  | 0x13 => some (.htake h (Htake.dec w))
  | 0x14 => some (.hback h (Hback.dec w))
  | _ => none

/-- The V-slot opcodes (R45). -/
def parseV (h : Hdr) (w : W64) : Option Instr :=
  match w.toNat >>> 57 with
  | 0x00 => some (.vnop h)
  | 0x01 => some (.vadd h (VF.dec w))
  | 0x02 => some (.vsub h (VF.dec w))
  | 0x03 => some (.vmul h (VF.dec w))
  | 0x04 => some (.vfma h (VF.dec w))
  | 0x05 => some (.vmin h (VF.dec w))
  | 0x06 => some (.vmax h (VF.dec w))
  | 0x07 => some (.vabs h (VF.dec w))
  | 0x08 => some (.vneg h (VF.dec w))
  | 0x09 => some (.vadds h (VF.dec w))
  | 0x0A => some (.vsubs h (VF.dec w))
  | 0x0B => some (.vmulh h (VF.dec w))
  | 0x0C => some (.vand h (VF.dec w))
  | 0x0D => some (.vor h (VF.dec w))
  | 0x0E => some (.vxor h (VF.dec w))
  | 0x10 => some (.vshl h (VF.dec w))
  | 0x11 => some (.vshr h (VF.dec w))
  | 0x12 => some (.vsar h (VF.dec w))
  | 0x13 => some (.vbfx h (VF.dec w))
  | 0x14 => some (.vbfxz h (VF.dec w))
  | 0x15 => some (.vfshr h (VF.dec w))
  | 0x16 => some (.vclz h (VF.dec w))
  | 0x17 => some (.vpopc h (VF.dec w))
  | 0x18 => some (.vcmpeq h (VF.dec w))
  | 0x19 => some (.vcmpne h (VF.dec w))
  | 0x1A => some (.vcmplt h (VF.dec w))
  | 0x1B => some (.vcmple h (VF.dec w))
  | 0x1C => some (.vclass h (VF.dec w))
  | 0x1D => some (.vsel h (VF.dec w))
  | 0x20 => some (.vmov h (VF.dec w))
  | 0x21 => some (.vbcast h (VF.dec w))
  | 0x22 => some (.vperm h (VF.dec w))
  | 0x23 => some (.vrot h (VF.dec w))
  | 0x24 => some (.viota h (VF.dec w))
  | 0x25 => some (.vextr h (VF.dec w))
  | 0x26 => some (.vins h (VF.dec w))
  | 0x28 => some (.vrsum h (VF.dec w))
  | 0x29 => some (.vrmax h (VF.dec w))
  | 0x2A => some (.vrmin h (VF.dec w))
  | 0x2B => some (.vror h (VF.dec w))
  | 0x2C => some (.vscan h (VF.dec w))
  | 0x30 => some (.vwiden h (VF.dec w))
  | 0x31 => some (.vnarrow h (VF.dec w))
  | 0x32 => some (.vdot4 h (VF.dec w))
  | 0x38 => some (.kand h (VF.dec w))
  | 0x39 => some (.kor h (VF.dec w))
  | 0x3A => some (.kxor h (VF.dec w))
  | 0x3B => some (.knot h (VF.dec w))
  | 0x3C => some (.kpopc h (VF.dec w))
  | 0x3D => some (.kany h (VF.dec w))
  | _ => none

/-- The X-slot opcodes (R46). -/
def parseX (h : Hdr) (w : W64) : Option Instr :=
  match w.toNat >>> 57 with
  | 0x00 => some (.xnop h)
  | 0x01 => some (.xrcp h (XF.dec w))
  | 0x02 => some (.xrsq h (XF.dec w))
  | 0x03 => some (.xsqrt h (XF.dec w))
  | 0x04 => some (.xexp2 h (XF.dec w))
  | 0x05 => some (.xlog2 h (XF.dec w))
  | 0x06 => some (.xtanh h (XF.dec w))
  | 0x07 => some (.xsig h (XF.dec w))
  | 0x08 => some (.xdiv h (XF.dec w))
  | 0x09 => some (.xcvt h (XF.dec w))
  | 0x0A => some (.xamax h (XF.dec w))
  | 0x0B => some (.xscale h (XF.dec w))
  | 0x0C => some (.xqnt h (XF.dec w))
  | 0x0D => some (.xdqnt h (XF.dec w))
  | 0x0E => some (.xseed h (XF.dec w))
  | 0x0F => some (.xrand h (XF.dec w))
  | _ => none

/-- The M-slot opcodes (R46). -/
def parseM (h : Hdr) (w : W64) : Option Instr :=
  match w.toNat >>> 57 with
  | 0x00 => some (.mnop h)
  | 0x01 => some (.mwld h (MF.dec w))
  | 0x02 => some (.mswap h (MF.dec w))
  | 0x03 => some (.mshf h (MF.dec w))
  | 0x04 => some (.macc h (MF.dec w))
  | 0x05 => some (.maccz h (MF.dec w))
  | 0x06 => some (.mdrn h (MF.dec w))
  | 0x07 => some (.mzero h (MF.dec w))
  | 0x08 => some (.manch h (MF.dec w))
  | 0x09 => some (.mscl h (MF.dec w))
  | 0x0A => some (.mxsc h (MF.dec w))
  | _ => none

/-- The C-slot opcodes (R47), with the two kinds of FENCE (R161). -/
def parseC (h : Hdr) (w : W64) : Option Instr :=
  match w.toNat >>> 57 with
  | 0x00 => some (.cnop h)
  | 0x01 => some (.copy h (RecOp.dec w))
  | 0x02 => some (.copynb h (RecDst.dec w))
  | 0x03 => some (.twany h (TagMask.dec w))
  | 0x04 => some (.twall h (TagMask.dec w))
  | 0x05 => some (.tfind h (Tfind.dec w))
  | 0x06 => some (.tclr h (TagMask.dec w))
  | 0x08 => some (match fld 2 w 50 with | 1#2 => .fenceInstr h | _ => .fence h (Order.dec w))
  | 0x09 => some (.drain h (Drain.dec w))
  | 0x0A => some (.barrive h (GroupOp.dec w))
  | 0x0B => some (.bwait h (GroupOp.dec w))
  | 0x0C => some (.btest h (Btest.dec w))
  | 0x10 => some (.step h (StepOp.dec w))
  | 0x11 => some (.trigger h (Order.dec w))
  | 0x12 => some (.exit h)
  | 0x13 => some (.submit h (Submit.dec w))
  | 0x14 => some (.skim h (SkimOp.dec w))
  | 0x15 => some (.evadd h (EvOp.dec w))
  | 0x16 => some (.evwait h (EvOp.dec w))
  | 0x18 => some (.trap h (TrapOp.dec w))
  | 0x19 => some (.reti h)
  | 0x1A => some (.lsave h (LoopMem.dec w))
  | 0x1B => some (.lload h (LoopMem.dec w))
  | 0x1C => some (.svsave h (SvOp.dec w))
  | 0x1D => some (.svload h (SvOp.dec w))
  | _ => none

/-- The class of a slot, as the letter of R28: S, L, V, X, M or C (R21, R27). -/
def slotClass (slot : Fin 9) : Char :=
  match slot.val with
  | 0 | 1 => 'S'
  | 2 | 3 => 'L'
  | 4 | 5 => 'V'
  | 6 => 'X'
  | 7 => 'M'
  | _ => 'C'

/-- The operation that a slot word names in its slot; none for a reserved OPC (R42). -/
def parse (slot : Fin 9) (w : W64) : Option Instr :=
  match slot.val with
  | 0 | 1 => parseS (hdrOf slot w) w
  | 2 | 3 => parseL (hdrOf slot w) w
  | 4 | 5 => parseV (hdrOf slot w) w
  | 6 => parseX (hdrOf slot w) w
  | 7 => parseM (hdrOf slot w) w
  | _ => parseC (hdrOf slot w) w

/-- The branch operation of the branch words (R36, R39); none for a reserved BOP. -/
def parseBranch (w0 w1 : W64) : Option Instr :=
  match w0.toNat >>> 59 with
  | 0 => some (.brc (bit w0 58) (fld 4 w0 54) (fld 20 w0 34))
  | 1 => some (.jmp (fld 20 w0 34))
  | 2 => some (.call (fld 20 w0 34) (fld 6 w0 28))
  | 3 => some (.ret (fld 6 w0 22))
  | 4 => some (.jmpi (fld 20 w0 34) (fld 6 w0 22))
  | 5 => some (.calli (fld 20 w0 34) (fld 6 w0 28) (fld 6 w0 22))
  | 6 => some (if bit w0 58 then .loopImm (fld 20 w0 34) (fld 16 w0 18) else .loop (fld 20 w0 34) (fld 6 w0 28))
  | 7 => some (.lpop (fld 3 w0 56))
  | 8 => some (.brt (BrtOp.dec w0 w1))
  | _ => none

/-! ## The encoder -/

/-- A slot word from its header part, its opcode and the value of bits [51:0] (R27). -/
def slotWord (h : Hdr) (opc body : Nat) : W64 :=
  BitVec.ofNat 64 (opc * 2 ^ 57 + h.neg.toNat * 2 ^ 56 + h.pred.toNat * 2 ^ 52 + body)

/-- The slot word of a slot operation; the first branch word of a branch operation; zero for an event, which has no
word. -/
def encodeWord : Instr → W64
  | .snop h => slotWord h 0x00 (0)
  | .add h o => slotWord h 0x01 (o.enc)
  | .addImm h o => slotWord h 0x01 (o.enc)
  | .sub h o => slotWord h 0x02 (o.enc)
  | .subImm h o => slotWord h 0x02 (o.enc)
  | .mul h o => slotWord h 0x03 (o.enc)
  | .mulImm h o => slotWord h 0x03 (o.enc)
  | .mulh h o => slotWord h 0x04 (o.enc)
  | .mulhImm h o => slotWord h 0x04 (o.enc)
  | .mulhz h o => slotWord h 0x05 (o.enc)
  | .mulhzImm h o => slotWord h 0x05 (o.enc)
  | .div h o => slotWord h 0x06 (o.enc)
  | .divImm h o => slotWord h 0x06 (o.enc)
  | .divz h o => slotWord h 0x07 (o.enc)
  | .divzImm h o => slotWord h 0x07 (o.enc)
  | .rem h o => slotWord h 0x08 (o.enc)
  | .remImm h o => slotWord h 0x08 (o.enc)
  | .remz h o => slotWord h 0x09 (o.enc)
  | .remzImm h o => slotWord h 0x09 (o.enc)
  | .and h o => slotWord h 0x0A (o.enc)
  | .andImm h o => slotWord h 0x0A (o.enc)
  | .or h o => slotWord h 0x0B (o.enc)
  | .orImm h o => slotWord h 0x0B (o.enc)
  | .xor h o => slotWord h 0x0C (o.enc)
  | .xorImm h o => slotWord h 0x0C (o.enc)
  | .andn h o => slotWord h 0x0D (o.enc)
  | .andnImm h o => slotWord h 0x0D (o.enc)
  | .shl h o => slotWord h 0x0E (o.enc)
  | .shlImm h o => slotWord h 0x0E (o.enc)
  | .shr h o => slotWord h 0x0F (o.enc)
  | .shrImm h o => slotWord h 0x0F (o.enc)
  | .sar h o => slotWord h 0x10 (o.enc)
  | .sarImm h o => slotWord h 0x10 (o.enc)
  | .rol h o => slotWord h 0x11 (o.enc)
  | .rolImm h o => slotWord h 0x11 (o.enc)
  | .min h o => slotWord h 0x12 (o.enc)
  | .minImm h o => slotWord h 0x12 (o.enc)
  | .max h o => slotWord h 0x13 (o.enc)
  | .maxImm h o => slotWord h 0x13 (o.enc)
  | .minz h o => slotWord h 0x14 (o.enc)
  | .minzImm h o => slotWord h 0x14 (o.enc)
  | .maxz h o => slotWord h 0x15 (o.enc)
  | .maxzImm h o => slotWord h 0x15 (o.enc)
  | .clz h o => slotWord h 0x16 (o.enc)
  | .ctz h o => slotWord h 0x17 (o.enc)
  | .popc h o => slotWord h 0x18 (o.enc)
  | .bfx h o => slotWord h 0x19 (o.enc)
  | .bfxz h o => slotWord h 0x1A (o.enc)
  | .bfi h o => slotWord h 0x1B (o.enc)
  | .fshl h o => slotWord h 0x1C (o.enc)
  | .fshr h o => slotWord h 0x1D (o.enc)
  | .sel h o => slotWord h 0x1E (o.enc)
  | .selImm h o => slotWord h 0x1E (o.enc)
  | .movi h o => slotWord h 0x1F (o.enc)
  | .movhi h o => slotWord h 0x20 (o.enc)
  | .cmpeq h o => slotWord h 0x21 (o.enc)
  | .cmpeqImm h o => slotWord h 0x21 (o.enc)
  | .cmpne h o => slotWord h 0x22 (o.enc)
  | .cmpneImm h o => slotWord h 0x22 (o.enc)
  | .cmplt h o => slotWord h 0x23 (o.enc)
  | .cmpltImm h o => slotWord h 0x23 (o.enc)
  | .cmple h o => slotWord h 0x24 (o.enc)
  | .cmpleImm h o => slotWord h 0x24 (o.enc)
  | .cmpltz h o => slotWord h 0x25 (o.enc)
  | .cmpltzImm h o => slotWord h 0x25 (o.enc)
  | .cmplez h o => slotWord h 0x26 (o.enc)
  | .cmplezImm h o => slotWord h 0x26 (o.enc)
  | .pand h o => slotWord h 0x28 (o.enc)
  | .por h o => slotWord h 0x29 (o.enc)
  | .pxor h o => slotWord h 0x2A (o.enc)
  | .pandn h o => slotWord h 0x2B (o.enc)
  | .pset h o => slotWord h 0x2C (o.enc)
  | .fadd h o => slotWord h 0x30 (o.enc)
  | .faddImm h o => slotWord h 0x30 (o.enc)
  | .fsub h o => slotWord h 0x31 (o.enc)
  | .fsubImm h o => slotWord h 0x31 (o.enc)
  | .fmul h o => slotWord h 0x32 (o.enc)
  | .fmulImm h o => slotWord h 0x32 (o.enc)
  | .fma h o => slotWord h 0x33 (o.enc)
  | .fmin h o => slotWord h 0x34 (o.enc)
  | .fminImm h o => slotWord h 0x34 (o.enc)
  | .fmax h o => slotWord h 0x35 (o.enc)
  | .fmaxImm h o => slotWord h 0x35 (o.enc)
  | .fcmpeq h o => slotWord h 0x36 (o.enc)
  | .fcmpeqImm h o => slotWord h 0x36 (o.enc)
  | .fcmplt h o => slotWord h 0x37 (o.enc)
  | .fcmpltImm h o => slotWord h 0x37 (o.enc)
  | .fcmple h o => slotWord h 0x38 (o.enc)
  | .fcmpleImm h o => slotWord h 0x38 (o.enc)
  | .fcvti h o => slotWord h 0x39 (o.enc)
  | .fcvtf h o => slotWord h 0x3A (o.enc)
  | .rdsr h o => slotWord h 0x3E (o.enc)
  | .wrsr h o => slotWord h 0x3F (o.enc)
  | .lnop h => slotWord h 0x00 (0)
  | .ld h o => slotWord h 0x01 (o.enc)
  | .ldIndexed h o => slotWord h 0x01 (o.enc + 2 ^ 29)
  | .ldPostinc h o => slotWord h 0x01 (o.enc + 2 ^ 30)
  | .st h o => slotWord h 0x02 (o.enc)
  | .stIndexed h o => slotWord h 0x02 (o.enc + 2 ^ 29)
  | .stPostinc h o => slotWord h 0x02 (o.enc + 2 ^ 30)
  | .ldl h o => slotWord h 0x03 (o.enc)
  | .ldlPostinc h o => slotWord h 0x03 (o.enc + 2 ^ 23)
  | .stl h o => slotWord h 0x04 (o.enc)
  | .stlPostinc h o => slotWord h 0x04 (o.enc + 2 ^ 23)
  | .ldx h o => slotWord h 0x05 (o.enc)
  | .stx h o => slotWord h 0x06 (o.enc)
  | .gld h o => slotWord h 0x08 (o.enc)
  | .glds h o => slotWord h 0x09 (o.enc)
  | .amo h o => slotWord h 0x0A (o.enc)
  | .cas h o => slotWord h 0x0B (o.enc)
  | .amol h o => slotWord h 0x0C (o.enc)
  | .pcfg h o => slotWord h 0x10 (o.enc)
  | .prst h o => slotWord h 0x11 (o.enc)
  | .hgive h o => slotWord h 0x12 (o.enc)
  | .htake h o => slotWord h 0x13 (o.enc)
  | .hback h o => slotWord h 0x14 (o.enc)
  | .vnop h => slotWord h 0x00 (0)
  | .vadd h o => slotWord h 0x01 (o.enc)
  | .vsub h o => slotWord h 0x02 (o.enc)
  | .vmul h o => slotWord h 0x03 (o.enc)
  | .vfma h o => slotWord h 0x04 (o.enc)
  | .vmin h o => slotWord h 0x05 (o.enc)
  | .vmax h o => slotWord h 0x06 (o.enc)
  | .vabs h o => slotWord h 0x07 (o.enc)
  | .vneg h o => slotWord h 0x08 (o.enc)
  | .vadds h o => slotWord h 0x09 (o.enc)
  | .vsubs h o => slotWord h 0x0A (o.enc)
  | .vmulh h o => slotWord h 0x0B (o.enc)
  | .vand h o => slotWord h 0x0C (o.enc)
  | .vor h o => slotWord h 0x0D (o.enc)
  | .vxor h o => slotWord h 0x0E (o.enc)
  | .vshl h o => slotWord h 0x10 (o.enc)
  | .vshr h o => slotWord h 0x11 (o.enc)
  | .vsar h o => slotWord h 0x12 (o.enc)
  | .vbfx h o => slotWord h 0x13 (o.enc)
  | .vbfxz h o => slotWord h 0x14 (o.enc)
  | .vfshr h o => slotWord h 0x15 (o.enc)
  | .vclz h o => slotWord h 0x16 (o.enc)
  | .vpopc h o => slotWord h 0x17 (o.enc)
  | .vcmpeq h o => slotWord h 0x18 (o.enc)
  | .vcmpne h o => slotWord h 0x19 (o.enc)
  | .vcmplt h o => slotWord h 0x1A (o.enc)
  | .vcmple h o => slotWord h 0x1B (o.enc)
  | .vclass h o => slotWord h 0x1C (o.enc)
  | .vsel h o => slotWord h 0x1D (o.enc)
  | .vmov h o => slotWord h 0x20 (o.enc)
  | .vbcast h o => slotWord h 0x21 (o.enc)
  | .vperm h o => slotWord h 0x22 (o.enc)
  | .vrot h o => slotWord h 0x23 (o.enc)
  | .viota h o => slotWord h 0x24 (o.enc)
  | .vextr h o => slotWord h 0x25 (o.enc)
  | .vins h o => slotWord h 0x26 (o.enc)
  | .vrsum h o => slotWord h 0x28 (o.enc)
  | .vrmax h o => slotWord h 0x29 (o.enc)
  | .vrmin h o => slotWord h 0x2A (o.enc)
  | .vror h o => slotWord h 0x2B (o.enc)
  | .vscan h o => slotWord h 0x2C (o.enc)
  | .vwiden h o => slotWord h 0x30 (o.enc)
  | .vnarrow h o => slotWord h 0x31 (o.enc)
  | .vdot4 h o => slotWord h 0x32 (o.enc)
  | .kand h o => slotWord h 0x38 (o.enc)
  | .kor h o => slotWord h 0x39 (o.enc)
  | .kxor h o => slotWord h 0x3A (o.enc)
  | .knot h o => slotWord h 0x3B (o.enc)
  | .kpopc h o => slotWord h 0x3C (o.enc)
  | .kany h o => slotWord h 0x3D (o.enc)
  | .xnop h => slotWord h 0x00 (0)
  | .xrcp h o => slotWord h 0x01 (o.enc)
  | .xrsq h o => slotWord h 0x02 (o.enc)
  | .xsqrt h o => slotWord h 0x03 (o.enc)
  | .xexp2 h o => slotWord h 0x04 (o.enc)
  | .xlog2 h o => slotWord h 0x05 (o.enc)
  | .xtanh h o => slotWord h 0x06 (o.enc)
  | .xsig h o => slotWord h 0x07 (o.enc)
  | .xdiv h o => slotWord h 0x08 (o.enc)
  | .xcvt h o => slotWord h 0x09 (o.enc)
  | .xamax h o => slotWord h 0x0A (o.enc)
  | .xscale h o => slotWord h 0x0B (o.enc)
  | .xqnt h o => slotWord h 0x0C (o.enc)
  | .xdqnt h o => slotWord h 0x0D (o.enc)
  | .xseed h o => slotWord h 0x0E (o.enc)
  | .xrand h o => slotWord h 0x0F (o.enc)
  | .mnop h => slotWord h 0x00 (0)
  | .mwld h o => slotWord h 0x01 (o.enc)
  | .mswap h o => slotWord h 0x02 (o.enc)
  | .mshf h o => slotWord h 0x03 (o.enc)
  | .macc h o => slotWord h 0x04 (o.enc)
  | .maccz h o => slotWord h 0x05 (o.enc)
  | .mdrn h o => slotWord h 0x06 (o.enc)
  | .mzero h o => slotWord h 0x07 (o.enc)
  | .manch h o => slotWord h 0x08 (o.enc)
  | .mscl h o => slotWord h 0x09 (o.enc)
  | .mxsc h o => slotWord h 0x0A (o.enc)
  | .cnop h => slotWord h 0x00 (0)
  | .copy h o => slotWord h 0x01 (o.enc)
  | .copynb h o => slotWord h 0x02 (o.enc)
  | .twany h o => slotWord h 0x03 (o.enc)
  | .twall h o => slotWord h 0x04 (o.enc)
  | .tfind h o => slotWord h 0x05 (o.enc)
  | .tclr h o => slotWord h 0x06 (o.enc)
  | .fence h o => slotWord h 0x08 (o.enc)
  | .fenceInstr h => slotWord h 0x08 (2 ^ 50)
  | .drain h o => slotWord h 0x09 (o.enc)
  | .barrive h o => slotWord h 0x0A (o.enc)
  | .bwait h o => slotWord h 0x0B (o.enc)
  | .btest h o => slotWord h 0x0C (o.enc)
  | .step h o => slotWord h 0x10 (o.enc)
  | .trigger h o => slotWord h 0x11 (o.enc)
  | .exit h => slotWord h 0x12 (0)
  | .submit h o => slotWord h 0x13 (o.enc)
  | .skim h o => slotWord h 0x14 (o.enc)
  | .evadd h o => slotWord h 0x15 (o.enc)
  | .evwait h o => slotWord h 0x16 (o.enc)
  | .trap h o => slotWord h 0x18 (o.enc)
  | .reti h => slotWord h 0x19 (0)
  | .lsave h o => slotWord h 0x1A (o.enc)
  | .lload h o => slotWord h 0x1B (o.enc)
  | .svsave h o => slotWord h 0x1C (o.enc)
  | .svload h o => slotWord h 0x1D (o.enc)  | .brc n p t => BitVec.ofNat 64 (n.toNat * 2 ^ 58 + p.toNat * 2 ^ 54 + t.toNat * 2 ^ 34)
  | .jmp t => BitVec.ofNat 64 (1 * 2 ^ 59 + t.toNat * 2 ^ 34)
  | .call t l => BitVec.ofNat 64 (2 * 2 ^ 59 + t.toNat * 2 ^ 34 + l.toNat * 2 ^ 28)
  | .ret r => BitVec.ofNat 64 (3 * 2 ^ 59 + r.toNat * 2 ^ 22)
  | .jmpi t r => BitVec.ofNat 64 (4 * 2 ^ 59 + t.toNat * 2 ^ 34 + r.toNat * 2 ^ 22)
  | .calli t l r => BitVec.ofNat 64 (5 * 2 ^ 59 + t.toNat * 2 ^ 34 + l.toNat * 2 ^ 28 + r.toNat * 2 ^ 22)
  | .loop e r => BitVec.ofNat 64 (6 * 2 ^ 59 + e.toNat * 2 ^ 34 + r.toNat * 2 ^ 28)
  | .loopImm e c => BitVec.ofNat 64 (6 * 2 ^ 59 + 2 ^ 58 + e.toNat * 2 ^ 34 + c.toNat * 2 ^ 18)
  | .lpop n => BitVec.ofNat 64 (7 * 2 ^ 59 + n.toNat * 2 ^ 56)
  | .brt o => BitVec.ofNat 64 (8 * 2 ^ 59 + o.enc0)
  | _ => 0

/-- The second branch word: that of BRT, otherwise zero (R39). -/
def encodeWord1 : Instr → W64
  | .brt o => BitVec.ofNat 64 o.enc1
  | _ => 0

/-! ## What makes an operation illegal (R33, R34, R48 and the entry of each instruction) -/

/-- REASON 0x06 when a type code is not among those permitted. -/
def needType (ok : Bool) : List Nat := if ok then [] else [6]
/-- REASON 0x07 when a line specifier is not permitted. -/
def needSpec (ok : Bool) : List Nat := if ok then [] else [7]
/-- REASON 0x08 when a mode or class modifier is not permitted. -/
def needMode (ok : Bool) : List Nat := if ok then [] else [8]
/-- REASON 0x09 when any other field is not permitted. -/
def needField (ok : Bool) : List Nat := if ok then [] else [9]

/-- ORD among the permitted values, and SCOPE 000 with ORD 00 (R88, R162). -/
def ordReasons (ok : List Nat) (ord : BitVec 2) (scope : BitVec 3) : List Nat :=
  needField (ok.contains ord.toNat && (ord != 0 || scope == 0))

/-- A rounding mode other than 110 (R34). -/
def rmReasons (rm : BitVec 3) : List Nat := needMode (rm != 6)

/-- The assigned special-register numbers (R72). -/
def srAssigned (n : Nat) : Bool :=
  n ≤ 3 || (0x08 ≤ n && n ≤ 0x0D) || (0x10 ≤ n && n ≤ 0x15) || (0x18 ≤ n && n ≤ 0x1E) ||
  n == 0x20 || n == 0x21 || (0x28 ≤ n && n ≤ 0x2B) || (0x30 ≤ n && n ≤ 0x33) ||
  n == 0x38 || n == 0x39 || n == 0x3C || n == 0x3D || (0x40 ≤ n && n ≤ 0x42)

/-- OP and TYPE of GLD, GLDS and AMOL (R94, R95). -/
def reduceReasons (op : BitVec 3) (ty : BitVec 4) : List Nat :=
  needField (op.toNat ≤ 5) ++
  needType ([4, 5, 8, 9].contains ty.toNat && !(8 ≤ ty.toNat && 3 ≤ op.toNat && op.toNat ≤ 5))

/-- The kinds of source 1 of a V word (R112, R113). -/
inductive VSrc1 where
  | line | tile | mask
  deriving DecidableEq, Repr

/-- The kinds of the source 2 field of a V word. -/
inductive VSrc2 where
  | line | unused | cls | idx | rot | stype | mask
  deriving DecidableEq, Repr

/-- The kinds of the destination field of a V word. -/
inductive VDst where
  | line | tile | mask | scalar | pred
  deriving DecidableEq, Repr

/-- The uses of a V word's mode field: a rounding mode for F types, one for every type, or reserved. -/
inductive VMode where
  | round | always | none
  deriving DecidableEq, Repr

/-- The uses of SAT: integer types only, allowed, reserved. -/
inductive VSat where
  | ints | any | none
  deriving DecidableEq, Repr

/-- The uses of K and Z: a mask, a mask with Z = 0, both reserved. -/
inductive VMask where
  | mask | maskNoZ | none
  deriving DecidableEq, Repr

/-- One row of the table of R112. -/
structure VRow where
  types : List Nat
  s1    : VSrc1
  s2    : VSrc2
  mode  : VMode
  sat   : VSat
  kz    : VMask
  dst   : VDst
  deriving DecidableEq, Repr

def codesI : List Nat := [0, 1, 2, 3, 4, 5, 6, 7]
def codesI8 : List Nat := [0, 1, 2, 3, 4, 5]
def codesF : List Nat := [8, 9, 10]
def codesA : List Nat := [0, 1, 2, 3, 4, 5, 6, 7, 8, 9, 10, 11, 12, 13, 14]

/-- The row of R112 of a V operation. -/
def vRow : Instr → Option VRow
  | .vadd .. | .vsub .. | .vmul .. => some ⟨codesI ++ codesF, .line, .line, .round, .ints, .mask, .line⟩
  | .vfma .. => some ⟨codesI ++ codesF, .line, .line, .round, .ints, .mask, .tile⟩
  | .vmin .. | .vmax .. => some ⟨codesI ++ codesF, .line, .line, .none, .none, .mask, .line⟩
  | .vabs .. | .vneg .. => some ⟨codesI ++ codesF, .line, .unused, .none, .ints, .mask, .line⟩
  | .vadds .. | .vsubs .. => some ⟨codesI ++ codesF, .line, .line, .always, .none, .mask, .line⟩
  | .vmulh .. | .vand .. | .vor .. | .vxor .. | .vshr .. | .vsar .. =>
    some ⟨codesI, .line, .line, .none, .none, .mask, .line⟩
  | .vshl .. => some ⟨codesI, .line, .line, .none, .any, .mask, .line⟩
  | .vbfx .. | .vbfxz .. => some ⟨[2, 3, 4, 5], .line, .line, .none, .none, .mask, .line⟩
  | .vfshr .. => some ⟨[2, 3, 4, 5], .line, .line, .none, .none, .mask, .tile⟩
  | .vclz .. | .vpopc .. | .viota .. => some ⟨codesI, .line, .unused, .none, .none, .mask, .line⟩
  | .vcmpeq .. | .vcmpne .. | .vcmplt .. | .vcmple .. =>
    some ⟨codesI8 ++ codesF, .line, .line, .none, .none, .mask, .mask⟩
  | .vclass .. => some ⟨codesF, .line, .cls, .none, .none, .mask, .mask⟩
  | .vsel .. => some ⟨codesA, .line, .line, .none, .none, .maskNoZ, .line⟩
  | .vmov .. => some ⟨codesA, .line, .unused, .none, .none, .mask, .line⟩
  | .vbcast .. => some ⟨codesA, .line, .idx, .none, .none, .mask, .line⟩
  | .vperm .. => some ⟨[2, 3, 4, 5] ++ codesF, .line, .line, .none, .none, .mask, .line⟩
  | .vrot .. => some ⟨codesA, .line, .rot, .none, .none, .mask, .line⟩
  | .vextr .. => some ⟨codesA, .line, .idx, .none, .none, .none, .scalar⟩
  | .vins .. => some ⟨codesA, .line, .idx, .none, .none, .none, .tile⟩
  | .vrsum .. | .vrmax .. | .vrmin .. => some ⟨codesI8 ++ codesF, .line, .unused, .none, .none, .maskNoZ, .line⟩
  | .vror .. => some ⟨codesI8, .line, .unused, .none, .none, .maskNoZ, .line⟩
  | .vscan .. => some ⟨codesI8 ++ codesF, .line, .unused, .none, .none, .mask, .line⟩
  | .vwiden .. => some ⟨codesI8 ++ codesF, .line, .stype, .none, .none, .none, .tile⟩
  | .vnarrow .. => some ⟨codesA, .tile, .stype, .round, .ints, .none, .line⟩
  | .vdot4 .. => some ⟨[0, 1], .line, .line, .none, .any, .mask, .tile⟩
  | .kand .. | .kor .. | .kxor .. => some ⟨[0], .mask, .mask, .none, .none, .none, .mask⟩
  | .knot .. => some ⟨[0], .mask, .unused, .none, .none, .none, .mask⟩
  | .kpopc .. => some ⟨[0], .mask, .unused, .none, .none, .none, .scalar⟩
  | .kany .. => some ⟨[0], .mask, .unused, .none, .none, .none, .pred⟩
  | _ => none

/-- The pairs of a narrow and a wide type of R126. -/
def widenPair (narrow wide : Nat) : Bool :=
  match narrow with
  | 6 | 7 => wide ≤ 3
  | 0 | 1 => 2 ≤ wide && wide ≤ 5
  | 2 | 3 => wide == 4 || wide == 5
  | 9 | 10 => wide == 8
  | _ => false

/-- IDX, CLASS: the immediate at [14:5], the low ten bits of the source 2 field (R113). -/
def VF.imm (o : VF) : Nat := o.s2.toNat % 1024

/-- STYPE: the type code at [8:5] (R113). -/
def VF.stype (o : VF) : BitVec 4 := BitVec.ofNat 4 o.s2.toNat

/-- The reasons of a V word against its row (R112, R113). -/
def vReasons (r : VRow) (o : VF) : List Nat :=
  needType (r.types.contains o.ty.toNat) ++
  needMode (match r.mode with
    | .none => o.mode == 0
    | .always => o.mode != 6
    | .round => o.mode != 6 && (tyF o.ty || o.mode == 0)) ++
  needField (match r.sat with
    | .none => !o.sat
    | .ints => !o.sat || tyInt o.ty
    | .any => true) ++
  needField (match r.kz with
    | .mask => true
    | .maskNoZ => !o.z
    | .none => o.k == 0 && !o.z) ++
  (match r.dst with
    | .line => needSpec (dstSpecOk o.dst)
    | .tile => needSpec (dstSpecOk o.dst && specTile o.dst)
    | .mask | .pred => needField (o.dst.toNat < 16)
    | .scalar => needField (o.dst.toNat < 64)) ++
  (match r.s1 with
    | .line => needSpec (srcSpecOk o.s1)
    | .tile => needSpec (specTile o.s1)
    | .mask => needField (o.s1.toNat < 16)) ++
  (match r.s2 with
    | .line => needSpec (srcSpecOk o.s2)
    | .unused => needField (o.s2 == 0)
    | .cls | .rot => needField (o.s2.toNat < 1024)
    | .idx => needField (o.s2.toNat < 1024 && (tyWidth o.ty == 0 || o.imm < 4096 / tyWidth o.ty))
    | .mask => needField (o.s2.toNat < 16)
    | .stype => needField (o.s2.toNat < 16))

/-- The type pair of VWIDEN (TYPE wide) and of VNARROW (TYPE narrow), R126 and R127. -/
def pairReasons (narrow wide : BitVec 4) : List Nat := needType (widenPair narrow.toNat wide.toNat)

/-- XCVT's permitted pairs (R135). -/
def cvtPair (dt st : BitVec 4) : Bool :=
  if st == 14 then dt == 8 || dt == 9
  else dt.toNat ≤ 13 && st.toNat ≤ 13 && tyWidth dt ≤ 4 * tyWidth st && tyWidth st ≤ 4 * tyWidth dt

/-- The number of lines of the destination and of source 1 of an X operation (R135, R137). -/
def xLines (i : Instr) : Nat × Nat :=
  match i with
  | .xcvt _ o =>
    if tyWidth o.st < tyWidth o.dt then (tyWidth o.dt / tyWidth o.st, 1) else (1, tyWidth o.st / tyWidth o.dt)
  | .xamax .. => (1, 16)
  | .xqnt _ o => (16 / (tyWidth o.st / tyWidth o.dt), 16)
  | .xdqnt _ o => (16, 16 / (tyWidth o.dt / tyWidth o.st))
  | _ => (1, 1)

/-- A group of `n` lines begins at a multiple of `n` (R137); the line sets of XCVT may begin anywhere. -/
def groupSpecOk (i : Instr) (n : Nat) (s : BitVec 13) : Bool :=
  match i with
  | .xcvt .. => n ≤ 1 || specTile s
  | _ => n ≤ 1 || (specTile s && specIndex s % n == 0)

/-- The reasons of an X word (R130): whether its types, mode and class modifier are permitted, and what source 2 is. -/
def xReasons (i : Instr) (o : XF) (types rounds md two : Bool) : List Nat :=
  needType types ++
  needMode (if rounds then o.mode != 6 else o.mode == 0) ++
  needMode md ++
  (if two then needSpec (srcSpecOk o.s2) else needField (o.s2 == 0)) ++
  needSpec (dstSpecOk o.dst && (!types || groupSpecOk i (xLines i).1 o.dst)) ++
  needSpec (srcSpecOk o.s1 && (!types || groupSpecOk i (xLines i).2 o.s1))

/-- The width class of a MACC's types: N = 32, 64 or 128 (R145). -/
def macClass (wty sty : BitVec 4) : Option Nat :=
  if [9, 10].contains wty.toNat && [9, 10].contains sty.toNat then some 32
  else if [0, 11, 12].contains wty.toNat && [0, 11, 12].contains sty.toNat then some 64
  else if [6, 13].contains wty.toNat && [6, 13].contains sty.toNat then some 128
  else none

/-- The unused fields of an M word, each true where the beat uses it (R146): TRANS, bank, row, line, segment, and how
many low bits of [18:0] are reserved. -/
def mUnused (o : MF) (trans bank row line seg : Bool) (lowBits : Nat) : List Nat :=
  needField ((trans || !o.trans) && (bank || !o.bank) && (row || o.row == 0) && (line || o.line == 0) &&
    (seg || o.seg == 0) && o.low.toNat % 2 ^ lowBits == 0)

/-- Both type fields zero (R33, R146). -/
def mNoTypes (o : MF) : List Nat := needType (o.wty == 0 && o.sty == 0)

/-- The number of tests of a BRT shape (R41). -/
def brtTests (shape : Nat) : Nat :=
  if shape = 0 then 1 else if shape ≤ 2 then 2 else if shape ≤ 7 then 3 else 4

/-- A BRT field that its shape does not use is zero (R39). -/
def brtReasons (o : BrtOp) : List Nat :=
  let n := brtTests o.shape.toNat
  if o.shape.toNat ≤ 21 && (2 ≤ n || (o.p1 == 0 && o.leaf2 == 0)) && (3 ≤ n || (o.p2 == 0 && o.leaf3 == 0)) &&
      (4 ≤ n || (o.p3 == 0 && o.leaf4 == 0)) then [] else [0x0A]

/-- The REASON codes that the fields of an operation raise, apart from reserved bits, which the comparison with the
encoder finds; for a branch operation the bundle's length in words is needed (R37). An FCVTI or FCVTF word with IMM = 1,
which has no immediate form, still has the bits of its type and RM fields looked at beside that fault: DESIGN CHOICE (log
46), R69 does not say. -/
def instrReasons (len : Nat) : Instr → List Nat
  | .fadd _ o | .fsub _ o | .fmul _ o => rmReasons o.rm
  | .faddImm _ o | .fsubImm _ o | .fmulImm _ o => rmReasons o.rm
  | .fma _ o => rmReasons o.rm
  | .fmin _ o | .fmax _ o => needMode (o.rm == 0)
  | .fminImm _ o | .fmaxImm _ o => needMode (o.rm == 0)
  | .fcmpeq _ o | .fcmplt _ o | .fcmple _ o => needMode (o.rm == 0)
  | .fcmpeqImm _ o | .fcmpltImm _ o | .fcmpleImm _ o => needMode (o.rm == 0)
  | .fcvti _ o | .fcvtf _ o => rmReasons o.rm ++ needType (o.ty == 4 || o.ty == 5)
  | .rdsr _ o => needField (srAssigned o.num.toNat)
  | .wrsr _ o => needField (srAssigned o.num.toNat)
  | .ld _ o => ordReasons [0, 1] o.ord o.scope ++ needField (!(o.bit36 && o.size == 3))
  | .ldIndexed _ o => ordReasons [0, 1] o.ord o.scope ++ needField (!(o.bit36 && o.size == 3))
  | .ldPostinc _ o =>
    ordReasons [0, 1] o.ord o.scope ++ needField (!(o.bit36 && o.size == 3)) ++ needField (o.reg != o.base.r)
  | .st _ o | .stPostinc _ o => ordReasons [0, 2] o.ord o.scope
  | .stIndexed _ o => ordReasons [0, 2] o.ord o.scope
  | .ldl _ o | .ldlPostinc _ o =>
    ordReasons [0, 1] o.ord o.scope ++ needField (o.mask == 0) ++
    needSpec (dstSpecOk o.line && (!o.ad || specKind o.line == 2))
  | .stl _ o | .stlPostinc _ o =>
    ordReasons [0, 2] o.ord o.scope ++ needSpec (srcSpecOk o.line && (!o.ad || specKind o.line == 2))
  | .ldx _ o =>
    ordReasons [0, 1] o.ord o.scope ++ needField (o.size != 3 && !(o.sx && o.size == 2)) ++
    needSpec (dstSpecOk o.line && srcSpecOk o.index)
  | .stx _ o =>
    ordReasons [0, 2] o.ord o.scope ++ needField (o.size != 3 && !o.sx && !o.z) ++
    needSpec (srcSpecOk o.line && srcSpecOk o.index)
  | .gld _ o => ordReasons [0, 1] o.ord o.scope ++ reduceReasons o.op o.ty ++ needSpec (dstSpecOk o.line)
  | .glds _ o => ordReasons [0, 1] o.ord o.scope ++ reduceReasons o.op o.ty
  | .amo _ o => ordReasons [0, 1, 2, 3] o.ord o.scope ++ needField (2 ≤ o.size.toNat && o.op.toNat ≤ 8)
  | .cas _ o => ordReasons [0, 1, 2, 3] o.ord o.scope ++ needField (2 ≤ o.size.toNat)
  | .amol _ o => ordReasons [0, 1, 2, 3] o.ord o.scope ++ reduceReasons o.op o.ty ++ needSpec (srcSpecOk o.src)
  | .pcfg _ o => needField (o.port.toNat < 12)
  | .prst _ o => needField (o.port.toNat < 12)
  | .vwiden h o => (match vRow (.vwiden h o) with | some r => vReasons r o | none => []) ++ pairReasons o.stype o.ty
  | .vnarrow h o => (match vRow (.vnarrow h o) with | some r => vReasons r o | none => []) ++ pairReasons o.ty o.stype
  | i@(.vadd _ o) | i@(.vsub _ o) | i@(.vmul _ o) | i@(.vfma _ o) | i@(.vmin _ o) | i@(.vmax _ o) | i@(.vabs _ o)
  | i@(.vneg _ o) | i@(.vadds _ o) | i@(.vsubs _ o) | i@(.vmulh _ o) | i@(.vand _ o) | i@(.vor _ o)
  | i@(.vxor _ o) | i@(.vshl _ o) | i@(.vshr _ o) | i@(.vsar _ o) | i@(.vbfx _ o) | i@(.vbfxz _ o)
  | i@(.vfshr _ o) | i@(.vclz _ o) | i@(.vpopc _ o) | i@(.vcmpeq _ o) | i@(.vcmpne _ o) | i@(.vcmplt _ o)
  | i@(.vcmple _ o) | i@(.vclass _ o) | i@(.vsel _ o) | i@(.vmov _ o) | i@(.vbcast _ o) | i@(.vperm _ o)
  | i@(.vrot _ o) | i@(.viota _ o) | i@(.vextr _ o) | i@(.vins _ o) | i@(.vrsum _ o) | i@(.vrmax _ o)
  | i@(.vrmin _ o) | i@(.vror _ o) | i@(.vscan _ o) | i@(.vdot4 _ o) | i@(.kand _ o) | i@(.kor _ o)
  | i@(.kxor _ o) | i@(.knot _ o) | i@(.kpopc _ o) | i@(.kany _ o) =>
    (match vRow i with | some r => vReasons r o | none => [])
  | i@(.xrcp _ o) | i@(.xrsq _ o) | i@(.xsqrt _ o) | i@(.xexp2 _ o) | i@(.xlog2 _ o) | i@(.xtanh _ o)
  | i@(.xsig _ o) => xReasons i o (tyF o.dt && o.st == o.dt) true (o.md == 0) false
  | i@(.xdiv _ o) => xReasons i o (tyF o.dt && o.st == o.dt) true (o.md == 0) true
  | i@(.xcvt _ o) =>
    xReasons i o (cvtPair o.dt o.st) true (o.md == 0 || (o.md == 1 && (tyInt o.dt || o.dt == 12))) false
  | i@(.xamax _ o) => xReasons i o (o.dt == 8 && tyF o.st) false (o.md == 0) false
  | i@(.xscale _ o) => xReasons i o (o.dt == 14 && o.st == 8) false (o.md != 3) false
  | i@(.xqnt _ o) =>
    xReasons i o (11 ≤ o.dt.toNat && o.dt.toNat ≤ 13 && tyF o.st) true (o.md == 0 || (o.md == 1 && o.dt == 12)) true
  | i@(.xdqnt _ o) => xReasons i o (tyF o.dt && 11 ≤ o.st.toNat && o.st.toNat ≤ 13) true (o.md == 0) true
  | .xseed _ o =>
    needType (o.dt == 0 && o.st == 0) ++ needMode (o.mode == 0) ++ needMode (o.md.toNat < 2) ++
    needField (o.s2 == 0 && o.dst == 0) ++
    needSpec (!specTile o.s1 && 0x40 ≤ specLow o.s1 && specLow o.s1 ≤ 0x7F)
  | .xrand _ o =>
    needType ((o.dt == 5 || o.dt == 8) && o.st == 0) ++ needMode (o.mode == 0) ++ needMode (o.md == 0) ++
    needField (o.s2 == 0 && o.s1 == 0) ++ needSpec (dstSpecOk o.dst && (specTile o.dst || specLow o.dst ≤ 3))
  | .mwld _ o =>
    mNoTypes o ++ mUnused o false false true true false 19 ++ needField (o.row.toNat < 16) ++
    needSpec (srcSpecOk o.line)
  | .mswap _ o => mNoTypes o ++ mUnused o false false false false false 19
  | .mshf _ o => mNoTypes o ++ mUnused o false false false true true 19 ++ needSpec (srcSpecOk o.line)
  | .macc _ o | .maccz _ o =>
    (match macClass o.wty o.sty with
      | some n => needField (o.low.toNat / 2 ^ 17 * n < 128)
      | none => [6]) ++
    mUnused o true true true true true 17 ++ needField (o.row.toNat < 64) ++ needSpec (srcSpecOk o.line)
  | .mdrn _ o =>
    needType ([4, 8, 9, 10].contains o.wty.toNat && o.sty == 0) ++ mUnused o false true true true true 15 ++
    needField (o.row.toNat < 64) ++ needMode (o.low.toNat / 2 ^ 16 != 6) ++
    needSpec (dstSpecOk o.line && specTile o.line)
  | .mzero _ o => mNoTypes o ++ mUnused o false true true false false 13 ++ needField (o.row.toNat < 64)
  | .manch _ o => mNoTypes o ++ mUnused o false true false false false 9
  | .mscl _ o => mNoTypes o ++ mUnused o false false false true true 19 ++ needSpec (srcSpecOk o.line)
  | .mxsc _ o => mNoTypes o ++ mUnused o false false false true true 16 ++ needSpec (srcSpecOk o.line)
  | .fence _ o => ordReasons [0, 1, 2, 3] o.ord o.scope
  | .trigger _ o => ordReasons [0, 2] o.ord o.scope
  | .drain _ o => ordReasons [3] o.ord o.scope
  | .step _ o => needField (1 ≤ o.d.toNat && o.d.toNat ≤ 57)
  | .submit _ o => ordReasons [0, 2] o.ord o.scope ++ needField (o.queue.toNat < 80)
  | .skim _ o => ordReasons [0, 2] o.ord o.scope
  | .evadd _ o => ordReasons [0, 2] o.ord o.scope
  | .evwait _ o => ordReasons [0, 1] o.ord o.scope
  | .svsave _ o | .svload _ o => ordReasons [0, 1, 2, 3] o.ord o.scope ++ needField (o.part.toNat < 3)
  | .loop e _ | .loopImm e _ => if e.toInt < len then [0x0B] else []
  | .lpop n => if n == 0 || n == 7 then [0x0B] else []
  | .brt o => brtReasons o
  | _ => []

/-! ## Slot words -/

/-- The lowest of a list of REASON codes. -/
def lowest : List Nat → Option Nat
  | [] => none
  | r :: rs => match lowest rs with
    | none => some r
    | some q => some (min r q)

/-- SCOPE 6 and 7 in a word of class L or C (R34, R161). -/
def scopeReasons (slot : Fin 9) (w : W64) : List Nat :=
  if slotClass slot = 'L' ∨ slotClass slot = 'C' then needMode ((fld 3 w 31).toNat < 6) else []

/-- The type fields, the rounding mode and the class modifier of an operation that does nothing, all of which it does not
use (R28, R33, R48, R130, R146); any other field of it that is not zero has REASON 0x09. -/
def nopReasons (i : Instr) (w : W64) : List Nat :=
  match i with
  | .mnop _ => needType (fld 8 w 44 == 0)
  | .vnop _ => needType (fld 4 w 48 == 0) ++ needMode (fld 3 w 2 == 0)
  | .xnop _ => needType (fld 8 w 44 == 0) ++ needMode (fld 5 w 0 == 0)
  | _ => []

/-- Why a slot word is illegal, if it is (R42, R48): the lowest REASON. -/
def slotReason (slot : Fin 9) (w : W64) : Option Nat :=
  match parse slot w with
  | none => some 5
  | some i =>
    lowest (instrReasons 0 i ++ scopeReasons slot w ++ nopReasons i w ++ needField (encodeWord i == w))

/-! ## Bundles -/

/-- Where and why a bundle is illegal (R48): WORD, SLOT and REASON of trapinfo. -/
structure Illegal where
  word   : Nat
  slot   : Nat
  reason : Nat
  deriving DecidableEq, Repr

/-- trapinfo of the illegal-bundle trap (R48). -/
def Illegal.info (e : Illegal) : W64 := BitVec.ofNat 64 (e.word * 2 ^ 12 + e.slot * 2 ^ 8 + e.reason)

/-- A decoded bundle (R20, R21): its length in words, REP, the PRES, HOLD and STEP fields, its branch operation, and
the words of its present slots. -/
structure Bundle where
  len    : Nat
  rep    : Nat
  pres   : BitVec 9
  hold   : BitVec 9
  step   : BitVec 18
  branch : Option Instr
  slots  : List (Fin 9 × W64)
  deriving DecidableEq, Repr

/-- The slots in ascending order. -/
def allSlots : List (Fin 9) := [0, 1, 2, 3, 4, 5, 6, 7, 8]

/-- PRES of a header (R21). -/
def hdrPres (h : W64) : BitVec 9 := fld 9 h 0
/-- HOLD of a header. -/
def hdrHold (h : W64) : BitVec 9 := fld 9 h 9
/-- REP of a header. -/
def hdrRep (h : W64) : Nat := (fld 6 h 18).toNat
/-- BFORM of a header. -/
def hdrForm (h : W64) : Nat := (fld 2 h 24).toNat
/-- STEP of a header. -/
def hdrStep (h : W64) : BitVec 18 := fld 18 h 26

/-- The step code of a slot (R21). -/
def stepCode (step : BitVec 18) (slot : Fin 9) : Nat := step.toNat / 2 ^ (2 * slot.val) % 4

/-- The number of slots present. -/
def presCount (h : W64) : Nat := (allSlots.filter (fun i => (hdrPres h).getLsbD i.val)).length

/-- The length of a bundle in words, from its header (R20). -/
def hdrLength (h : W64) : Nat := 1 + hdrForm h + presCount h

/-- The faults of a header alone (R48, R49). -/
def headerReason (h : W64) : Option Nat :=
  lowest ((if h.toNat >>> 44 = 0 then [] else [1]) ++
    (if hdrPres h &&& hdrHold h = 0 then [] else [2]) ++
    (if hdrForm h = 3 then [3] else []) ++
    (if allSlots.any (fun i => stepCode (hdrStep h) i != 0 &&
        (i.val < 2 || !(hdrPres h ||| hdrHold h).getLsbD i.val)) then [4] else []))

/-- The X operations whose step code must be 00 (R131). -/
def xGroupOpcode (w : W64) : Bool :=
  let opc := w.toNat >>> 57
  opc == 0x0A || opc == 0x0C || opc == 0x0D

/-- The faults of the branch words, as word index and REASON (R35 to R39). -/
def branchFaults (form len : Nat) (w0 w1 : W64) : List Illegal :=
  if form = 0 then []
  else
    let bop := w0.toNat >>> 59
    (if (bop = 8) ↔ (form = 2) then [] else [⟨0, 0xF, 3⟩]) ++
    match parseBranch w0 w1 with
    | none => [⟨1, 0xF, 5⟩]
    | some i =>
      if ¬ ((bop = 8) ↔ (form = 2)) then []
      else
        (if encodeWord i = w0 then [] else [⟨1, 0xF, 9⟩]) ++
        match i with
        | .brt o =>
          (let n := brtTests o.shape.toNat
           (if o.shape.toNat ≤ 21 && (2 ≤ n || o.p1 == 0) && (3 ≤ n || o.p2 == 0) &&
               (4 ≤ n || (o.p3 == 0 && o.leaf4.toNat % 2 ^ 16 == 0)) then [] else [⟨1, 0xF, 0x0A⟩]) ++
           (if brtReasons o = [] then [] else [⟨2, 0xF, 0x0A⟩]))
        | _ => (instrReasons len i).map (fun r => ⟨1, 0xF, r⟩)

/-- The faults of the slot words, the first at word `pos` (R48); `step` is the header's STEP, `form` its BFORM. The spec does
not say which word and slot are reported for RETI beside a branch word (R81), nor for a present XAMAX, XQNT or XDQNT with a
step code (R131): here it is the word and the slot of the RETI, and of the X operation, itself. DESIGN CHOICE (log 57). -/
def slotFaults (step : BitVec 18) (form : Nat) : Nat → List (Fin 9 × W64) → List Illegal
  | _, [] => []
  | pos, (slot, w) :: rest =>
    (match slotReason slot w with
      | some r => [⟨pos, slot.val, r⟩]
      | none =>
        if (slot = 6 ∧ xGroupOpcode w ∧ stepCode step slot ≠ 0) ∨ (slot = 8 ∧ w.toNat >>> 57 = 0x19 ∧ form ≠ 0)
        then [⟨pos, slot.val, 9⟩] else []) ++
    slotFaults step form (pos + 1) rest

/-- Pair the present slots with their words, in ascending slot index (R20). -/
def pairSlots : List (Fin 9) → List W64 → List (Fin 9 × W64)
  | [], _ => []
  | i :: is, ws => (i, ws.headD 0) :: pairSlots is ws.tail

/-- The fault in the lowest-numbered word and, within it, of the lowest reason (R48). -/
def firstFault : List Illegal → Option Illegal
  | [] => none
  | f :: fs => match firstFault fs with
    | none => some f
    | some g => if g.word < f.word ∨ (g.word = f.word ∧ g.reason < f.reason) then some g else some f

/-- Decode a bundle from its words, header first; words beyond the list read as zero. `xSticky` is the sticky word that
the previous bundle left in slot X (R131). -/
def decodeBundle (ws : List W64) (xSticky : W64) : Except Illegal Bundle :=
  let h := ws.headD 0
  match headerReason h with
  | some r => .error ⟨0, 0xF, r⟩
  | none =>
    let form := hdrForm h
    let len := hdrLength h
    let present := allSlots.filter (fun i => (hdrPres h).getLsbD i.val)
    let slots := pairSlots present (ws.drop (1 + form))
    let w0 := (ws.drop 1).headD 0
    let w1 := if form = 2 then (ws.drop 2).headD 0 else 0
    let heldX : List Illegal :=
      if (hdrHold h).getLsbD 6 ∧ stepCode (hdrStep h) 6 ≠ 0 ∧ xGroupOpcode xSticky then [⟨0, 6, 9⟩] else []
    match firstFault (heldX ++ branchFaults form len w0 w1 ++ slotFaults (hdrStep h) form (1 + form) slots) with
    | some f => .error f
    | none =>
      .ok { len := len, rep := hdrRep h, pres := hdrPres h, hold := hdrHold h, step := hdrStep h,
            branch := if form = 0 then none else parseBranch w0 w1, slots := slots }

/-! ## The advance of sticky words (R24) -/

/-- Replace the line specifier whose lowest bit is `lo` by the one `n` lines on. -/
def advanceSpec (w : W64) (lo n : Nat) : W64 :=
  let s := fld 13 w lo
  BitVec.ofNat 64 (w.toNat - s.toNat * 2 ^ lo + (specAdvance s n).toNat * 2 ^ lo)

/-- Step the row field [41:35] of an M word, modulo 64. -/
def advanceRow (w : W64) : W64 :=
  let r := (fld 7 w 35).toNat
  BitVec.ofNat 64 (w.toNat - r * 2 ^ 35 + (r + 1) % 64 * 2 ^ 35)

/-- Step the combined line index of an M word: the segment, and the line's Index when the segment wraps; only the
segment for a special specifier. -/
def advanceSeg (w : W64) : W64 :=
  let g := (fld 3 w 19).toNat
  let w' := BitVec.ofNat 64 (w.toNat - g * 2 ^ 19 + (g + 1) % 8 * 2 ^ 19)
  if g = 7 then advanceSpec w' 22 1 else w'

/-- Step an optional field. -/
def advanceIf (c : Bool) (f : W64 → W64) (w : W64) : W64 := if c then f w else w

/-- The slot word after one step under a step code: 01 every line index, 10 the destination, 11 every source (R21,
R24). -/
def advance (slot : Fin 9) (code : Nat) (w : W64) : W64 :=
  let d := code = 1 ∨ code = 2
  let s := code = 1 ∨ code = 3
  match parse slot w with
  | some (.ldl ..) | some (.ldlPostinc ..) | some (.gld ..) => advanceIf d (advanceSpec · 39 1) w
  | some (.stl ..) | some (.stlPostinc ..) | some (.amol ..) => advanceIf s (advanceSpec · 39 1) w
  | some (.ldx ..) => advanceIf s (advanceSpec · 18 1) (advanceIf d (advanceSpec · 39 1) w)
  | some (.stx ..) => advanceIf s (advanceSpec · 18 1) (advanceIf s (advanceSpec · 39 1) w)
  | some (.xseed ..) | some (.xnop ..) | some (.mnop ..) | some (.mswap ..) | some (.manch ..) => w
  | some (.xrand ..) => advanceIf d (advanceSpec · 31 1) w
  | some (.xdiv ..) | some (.xqnt ..) | some (.xdqnt ..) =>
    advanceIf s (advanceSpec · 5 1) (advanceIf s (advanceSpec · 18 1) (advanceIf d (advanceSpec · 31 1) w))
  | some (.mwld ..) => advanceIf s (advanceSpec · 22 1) (advanceIf d advanceRow w)
  | some (.mshf ..) | some (.mscl ..) | some (.mxsc ..) => advanceIf s advanceSeg w
  | some (.macc ..) | some (.maccz ..) => advanceIf s advanceSeg (advanceIf d advanceRow w)
  | some (.mdrn ..) => advanceIf s advanceRow (advanceIf d advanceSeg w)
  | some (.mzero ..) => advanceIf d advanceRow w
  | some i =>
    if slotClass slot = 'X' then advanceIf s (advanceSpec · 18 1) (advanceIf d (advanceSpec · 31 1) w)
    else match vRow i with
      | some r =>
        advanceIf (s && r.s2 = .line) (advanceSpec · 5 1)
          (advanceIf (s && r.s1 != .mask) (advanceSpec · 18 1)
            (advanceIf (d && (r.dst = .line ∨ r.dst = .tile)) (advanceSpec · 31 1) w))
      | none => w
  | none => w

/-! ## One instruction as a bundle of its own -/

/-- The slot of a slot operation. -/
def hdrOfInstr (i : Instr) : Option Hdr :=
  match i with
  | .snop h | .add h _ | .addImm h _ | .sub h _ | .subImm h _ | .mul h _ | .mulImm h _ | .mulh h _ | .mulhImm h _
  | .mulhz h _ | .mulhzImm h _ | .div h _ | .divImm h _ | .divz h _ | .divzImm h _ | .rem h _ | .remImm h _
  | .remz h _ | .remzImm h _ | .and h _ | .andImm h _ | .or h _ | .orImm h _ | .xor h _ | .xorImm h _
  | .andn h _ | .andnImm h _ | .shl h _ | .shlImm h _ | .shr h _ | .shrImm h _ | .sar h _ | .sarImm h _
  | .rol h _ | .rolImm h _ | .min h _ | .minImm h _ | .max h _ | .maxImm h _ | .minz h _ | .minzImm h _
  | .maxz h _ | .maxzImm h _ | .clz h _ | .ctz h _ | .popc h _ | .bfx h _ | .bfxz h _ | .bfi h _ | .fshl h _
  | .fshr h _ | .sel h _ | .selImm h _ | .movi h _ | .movhi h _ | .cmpeq h _ | .cmpeqImm h _ | .cmpne h _
  | .cmpneImm h _ | .cmplt h _ | .cmpltImm h _ | .cmple h _ | .cmpleImm h _ | .cmpltz h _ | .cmpltzImm h _
  | .cmplez h _ | .cmplezImm h _ | .pand h _ | .por h _ | .pxor h _ | .pandn h _ | .pset h _ | .fadd h _
  | .faddImm h _ | .fsub h _ | .fsubImm h _ | .fmul h _ | .fmulImm h _ | .fma h _ | .fmin h _ | .fminImm h _
  | .fmax h _ | .fmaxImm h _ | .fcmpeq h _ | .fcmpeqImm h _ | .fcmplt h _ | .fcmpltImm h _ | .fcmple h _
  | .fcmpleImm h _ | .fcvti h _ | .fcvtf h _ | .rdsr h _ | .wrsr h _ | .lnop h | .ld h _ | .ldIndexed h _
  | .ldPostinc h _ | .st h _ | .stIndexed h _ | .stPostinc h _ | .ldl h _ | .ldlPostinc h _ | .stl h _
  | .stlPostinc h _ | .ldx h _ | .stx h _ | .gld h _ | .glds h _ | .amo h _ | .cas h _ | .amol h _ | .pcfg h _
  | .prst h _ | .hgive h _ | .htake h _ | .hback h _ | .vnop h | .vadd h _ | .vsub h _ | .vmul h _ | .vfma h _
  | .vmin h _ | .vmax h _ | .vabs h _ | .vneg h _ | .vadds h _ | .vsubs h _ | .vmulh h _ | .vand h _
  | .vor h _ | .vxor h _ | .vshl h _ | .vshr h _ | .vsar h _ | .vbfx h _ | .vbfxz h _ | .vfshr h _ | .vclz h _
  | .vpopc h _ | .vcmpeq h _ | .vcmpne h _ | .vcmplt h _ | .vcmple h _ | .vclass h _ | .vsel h _ | .vmov h _
  | .vbcast h _ | .vperm h _ | .vrot h _ | .viota h _ | .vextr h _ | .vins h _ | .vrsum h _ | .vrmax h _
  | .vrmin h _ | .vror h _ | .vscan h _ | .vwiden h _ | .vnarrow h _ | .vdot4 h _ | .kand h _ | .kor h _
  | .kxor h _ | .knot h _ | .kpopc h _ | .kany h _ | .xnop h | .xrcp h _ | .xrsq h _ | .xsqrt h _ | .xexp2 h _
  | .xlog2 h _ | .xtanh h _ | .xsig h _ | .xdiv h _ | .xcvt h _ | .xamax h _ | .xscale h _ | .xqnt h _
  | .xdqnt h _ | .xseed h _ | .xrand h _ | .mnop h | .mwld h _ | .mswap h _ | .mshf h _ | .macc h _ | .maccz h _
  | .mdrn h _ | .mzero h _ | .manch h _ | .mscl h _ | .mxsc h _ | .cnop h | .copy h _ | .copynb h _ | .twany h _
  | .twall h _ | .tfind h _ | .tclr h _ | .fence h _ | .fenceInstr h | .drain h _ | .barrive h _ | .bwait h _
  | .btest h _ | .step h _ | .trigger h _ | .exit h | .submit h _ | .skim h _ | .evadd h _ | .evwait h _
  | .trap h _ | .reti h | .lsave h _ | .lload h _ | .svsave h _ | .svload h _ => some h
  | _ => none

/-- A branch operation: the bundle form it needs, 0 for none (R35). -/
def branchForm (i : Instr) : Nat :=
  match i with
  | .brc .. | .jmp .. | .call .. | .ret .. | .jmpi .. | .calli .. | .loop .. | .loopImm .. | .lpop .. => 1
  | .brt .. => 2
  | _ => 0

/-- The header of the bundle that holds one instruction alone. -/
def soloHeader (i : Instr) : W64 :=
  match hdrOfInstr i with
  | some h => BitVec.ofNat 64 (2 ^ h.slot.val)
  | none => BitVec.ofNat 64 (branchForm i * 2 ^ 24)

/-- The words of the bundle that holds one instruction alone, once (R20); an event has none. -/
def encode (i : Instr) : List W64 :=
  match hdrOfInstr i, branchForm i with
  | some _, _ => [soloHeader i, encodeWord i]
  | none, 0 => []
  | none, 1 => [soloHeader i, encodeWord i]
  | none, _ => [soloHeader i, encodeWord i, encodeWord1 i]

/-- The one instruction of a bundle that holds nothing, repeats nothing and has exactly one operation. -/
def soloInstr (b : Bundle) : Option Instr :=
  if b.rep = 0 ∧ b.hold = 0 ∧ b.step = 0 then
    match b.branch, b.slots with
    | none, [(slot, w)] => parse slot w
    | some i, [] => some i
    | _, _ => none
  else none

/-- The instruction that a list of words begins with, when it is a bundle of one operation. -/
def decode (ws : List W64) : Option Instr :=
  match decodeBundle ws 0 with
  | .ok b => soloInstr b
  | .error _ => none

/-- `n` little-endian 64-bit words of a number whose bit 0 is the lowest bit of the first (R4, R20). -/
def wordsOf : Nat → Nat → List W64
  | 0, _ => []
  | n + 1, w => BitVec.ofNat 64 w :: wordsOf n (w >>> 64)

/-- The instruction whose bits are `w`, bit 0 the lowest of the first word (the header); every bit above `nbits` is
zero. -/
def decodeTableWord (nbits w : Nat) : Option Instr := decode (wordsOf 12 (w % 2 ^ nbits))

end Sys2Proof
end

