-- ==== Sys2Proof/Machine/Numbers.lean ====
section
/-! DEFINITION. Numbers (chapter 12): the formats, the one RoundTo, the stipple generator, the arithmetic of floating
elements, the correctly rounded special functions, ACC96 and the pairwise tree. Element values are the naturals of their
bit patterns; flag sets are naturals in the layout of fpflags (R74). -/

namespace Sys2Proof.Num

/-! ## Flags (R74) -/

def NV : Nat := 1
def DZ : Nat := 2
def OF : Nat := 4
def UF : Nat := 8
def NX : Nat := 16
def NF : Nat := 32

/-- A flag when a condition holds. -/
def flagIf (c : Bool) (f : Nat) : Nat := if c then f else 0

/-! ## Integers (R10, R213) -/

/-- SignExt: the low `n` bits as a two's-complement integer. -/
def signExt (x n : Nat) : Int :=
  if n = 0 then 0
  else if x % 2 ^ n < 2 ^ (n - 1) then ((x % 2 ^ n : Nat) : Int) else ((x % 2 ^ n : Nat) : Int) - 2 ^ n

/-- The low `n` bits of an integer. -/
def lowBits (x : Int) (n : Nat) : Nat := (x % (2 ^ n : Int)).toNat

/-- Whether an integer type is signed (R32). -/
def tySigned (ty : BitVec 4) : Bool := ty.toNat % 2 == 0

/-- The value of an element of an integer type. -/
def intVal (ty : BitVec 4) (x : Nat) : Int :=
  if tySigned ty then signExt x (tyWidth ty) else ((x % 2 ^ tyWidth ty : Nat) : Int)

/-- The least value of an integer type. -/
def intMin (ty : BitVec 4) : Int := if tySigned ty then -(2 ^ (tyWidth ty - 1)) else 0

/-- The greatest value of an integer type. -/
def intMax (ty : BitVec 4) : Int := if tySigned ty then 2 ^ (tyWidth ty - 1) - 1 else 2 ^ tyWidth ty - 1

/-- Sat (R10). -/
def sat (ty : BitVec 4) (x : Int) : Int := max (intMin ty) (min (intMax ty) x)

/-- An exact integer result kept to the width, or saturated first (R114). -/
def fit (ty : BitVec 4) (s : Bool) (x : Int) : Nat := lowBits (if s then sat ty x else x) (tyWidth ty)

/-! ## Floating formats (R214, R215) -/

/-- How a format encodes specials: as IEEE does, as e4m3 does, or not at all (e2m1). -/
inductive Specials where
  | ieee | nanOnly | none
  deriving DecidableEq, Repr

/-- A format: width, fraction bits, bias, specials. -/
structure Fmt where
  w : Nat
  f : Nat
  b : Nat
  special : Specials
  deriving DecidableEq, Repr

/-- The format of a floating type code. -/
def fmtOf (ty : BitVec 4) : Fmt :=
  match ty.toNat with
  | 9 => ⟨16, 7, 127, .ieee⟩
  | 10 => ⟨16, 10, 15, .ieee⟩
  | 11 => ⟨8, 3, 7, .nanOnly⟩
  | 12 => ⟨8, 2, 15, .ieee⟩
  | 13 => ⟨4, 1, 1, .none⟩
  | _ => ⟨32, 23, 127, .ieee⟩

def f32 : Fmt := fmtOf 8

/-- The exponent field with every bit 1. -/
def Fmt.emax (t : Fmt) : Nat := 2 ^ (t.w - 1 - t.f) - 1

/-- The weight exponent of the last fraction bit of a subnormal: emin - f. -/
def Fmt.qmin (t : Fmt) : Int := 1 - (t.b : Int) - t.f

/-- The bits of the largest finite value (R215). -/
def Fmt.maxBits (t : Fmt) : Nat :=
  match t.special with
  | .ieee => t.emax * 2 ^ t.f - 1
  | .nanOnly => 2 ^ (t.w - 1) - 2
  | .none => 2 ^ (t.w - 1) - 1

/-- The canonical NaN (R215, R216); +0 in e2m1, which has none (R136). -/
def Fmt.nan (t : Fmt) : Nat :=
  match t.special with
  | .ieee => t.emax * 2 ^ t.f + 2 ^ (t.f - 1)
  | .nanOnly => 2 ^ (t.w - 1) - 1
  | .none => 0

/-- A pattern with its sign bit. -/
def Fmt.sign (t : Fmt) (neg : Bool) (x : Nat) : Nat := if neg then x + 2 ^ (t.w - 1) else x

/-- An infinity of a format that has them. -/
def Fmt.inf (t : Fmt) (neg : Bool) : Nat := t.sign neg (t.emax * 2 ^ t.f)

/-- A floating value: a NaN, an infinity, or (-1)^neg * m * 2^e. -/
inductive FVal where
  | nan (signalling : Bool)
  | inf (neg : Bool)
  | num (neg : Bool) (m : Nat) (e : Int)
  deriving DecidableEq, Repr

/-- The value of a pattern (R214, R215, R216). -/
def Fmt.val (t : Fmt) (x : Nat) : FVal :=
  let neg := x / 2 ^ (t.w - 1) % 2 == 1
  let mag := x % 2 ^ (t.w - 1)
  let ef := mag / 2 ^ t.f
  let fr := mag % 2 ^ t.f
  let fin := if ef = 0 then FVal.num neg fr t.qmin else FVal.num neg (2 ^ t.f + fr) (t.qmin + ef - 1)
  match t.special with
  | .ieee =>
    if ef = t.emax then (if fr = 0 then .inf neg else .nan (fr < 2 ^ (t.f - 1))) else fin
  | .nanOnly => if mag = 2 ^ (t.w - 1) - 1 then .nan false else fin
  | .none => fin

/-- Whether a pattern is an infinity or a NaN: NF (R219). -/
def Fmt.nonFinite (t : Fmt) (x : Nat) : Bool :=
  match t.val x with
  | .num .. => false
  | _ => true

/-- The value of a NaN that an e4m3 conversion keeps the sign of (R136). -/
def Fmt.negBit (t : Fmt) (x : Nat) : Bool := x / 2 ^ (t.w - 1) % 2 == 1

/-! ## RoundTo (R217 to R219) -/

/-- How an element rounds: the mode (000 to 101), the generator's rnd16, and SAT. -/
structure Rnd where
  mode  : Nat
  rnd16 : Nat
  sat   : Bool
  deriving DecidableEq, Repr

def rne : Rnd := ⟨0, 0, false⟩

/-- The multiple of 2^q to which |x| rounds and whether that is exact: x has magnitude m * 2^e, or lies strictly
between m * 2^e and (m+1) * 2^e when `sticky` (R217). -/
def roundMag (r : Rnd) (neg : Bool) (m : Nat) (e : Int) (sticky : Bool) (q : Int) : Nat × Bool :=
  let s := (q - e).toNat
  let lo := if q ≤ e then m * 2 ^ (e - q).toNat else m / 2 ^ s
  let rem := if q ≤ e then 0 else m % 2 ^ s
  let one := if q ≤ e then 1 else 2 ^ s
  let exact := rem == 0 && !sticky
  let up : Bool :=
    match r.mode with
    | 0 => 2 * rem > one || (2 * rem == one && (sticky || lo % 2 == 1))
    | 1 => false
    | 2 => neg
    | 3 => !neg
    | 4 => 2 * rem ≥ one
    | _ => rem * 65536 / one + r.rnd16 ≥ 65536
  (if up && !exact then lo + 1 else lo, exact)

/-- The overflowing result (R218). XDQNT into f32 follows it in every rounding mode, where R141's last paragraph speaks of an
infinity alone: DEDUCED (log 47). -/
def Fmt.overflow (t : Fmt) (r : Rnd) (neg : Bool) : Nat :=
  let toInf :=
    match r.mode with
    | 1 => false
    | 2 => neg
    | 3 => !neg
    | _ => true
  if t.special = .ieee && !r.sat && toInf then t.inf neg else t.sign neg t.maxBits

/-- RoundTo of a magnitude that is not zero, with its flags (R217 to R219). -/
def Fmt.round (t : Fmt) (r : Rnd) (neg : Bool) (m : Nat) (e : Int) (sticky : Bool) : Nat × Nat :=
  if m = 0 && !sticky then (t.sign neg 0, 0)
  else
    let x : Int := (if m = 0 then 0 else Nat.log2 m) + e
    let emin : Int := 1 - (t.b : Int)
    let q := max x emin - t.f
    let (k, exact) := roundMag r neg m e sticky q
    let bits : Int := if k = 0 then 0 else (q - t.qmin) * 2 ^ t.f + k
    if bits > t.maxBits then
      let v := t.overflow r neg
      (v, OF ||| NX ||| flagIf (t.nonFinite v) NF)
    else
      let tiny := x < emin && !(x == emin - 1 && (roundMag r neg m e sticky (x - t.f)).1 == 2 ^ (t.f + 1))
      (t.sign neg bits.toNat, flagIf (!exact) NX ||| flagIf (!exact && tiny) UF)

/-- RoundTo of a value under the rules for specials of an IEEE-style destination (R136, R216). -/
def Fmt.roundVal (t : Fmt) (r : Rnd) (v : FVal) : Nat × Nat :=
  match v with
  | .nan s => (t.nan, flagIf s NV ||| NF)
  | .inf n => (t.inf n, NF)
  | .num n m e => t.round r n m e false

/-- Rounding to an integer, with whether it is exact (R222). -/
def roundInt (r : Rnd) (neg : Bool) (m : Nat) (e : Int) : Int × Bool :=
  let (k, exact) := roundMag r neg m e false 0
  (if neg then -(k : Int) else k, exact)

/-! ## The stipple generator (R224) -/

/-- Stipple: the 64-bit word of a key. -/
def stipple (seed step : W64) (row col stream : Nat) : W64 :=
  let z0 := seed ^^^ (step * 0x9E3779B97F4A7C15#64) ^^^ (BitVec.ofNat 64 (row % 4096) <<< 40) ^^^
    (BitVec.ofNat 64 (col % 2 ^ 20) <<< 20) ^^^ BitVec.ofNat 64 (stream % 2 ^ 20)
  let z1 := (z0 ^^^ (z0 >>> 30)) * 0xBF58476D1CE4E5B9#64
  let z2 := (z1 ^^^ (z1 >>> 27)) * 0x94D049BB133111EB#64
  z2 ^^^ (z2 >>> 31)

/-- rnd16: the top 16 bits. -/
def rnd16 (z : W64) : Nat := z.toNat / 2 ^ 48

/-! ## Floating arithmetic (R66, R114, R220, R221) -/

/-- A canonical NaN result. -/
def nanRes (t : Fmt) (nv : Bool) : Nat × Nat := (t.nan, flagIf nv NV ||| NF)

/-- Whether a value is a signalling NaN. -/
def FVal.signalling : FVal → Bool
  | .nan s => s
  | _ => false

/-- Whether a value is a NaN. -/
def FVal.isNan : FVal → Bool
  | .nan _ => true
  | _ => false

/-- The sign of an exact zero sum: that of two zeros of one sign, otherwise + except in RDN (R220). -/
def zeroSign (r : Rnd) (n1 n2 : Bool) : Bool := if n1 = n2 then n1 else r.mode == 2

/-- A signed multiple of 2^e. -/
def signedAt (n : Bool) (m : Nat) (e q : Int) : Int :=
  let k : Int := m * 2 ^ (e - q).toNat
  if n then -k else k

/-- The exact sum of two finite values times 2^shift, rounded once. -/
def addFinite (t : Fmt) (r : Rnd) (n1 : Bool) (m1 : Nat) (e1 : Int) (n2 : Bool) (m2 : Nat) (e2 shift : Int) :
    Nat × Nat :=
  let q := min e1 e2
  let s := signedAt n1 m1 e1 q + signedAt n2 m2 e2 q
  if s = 0 then
    (t.sign (if m1 = 0 && m2 = 0 then zeroSign r n1 n2 else r.mode == 2) 0, 0)
  else t.round r (s < 0) s.natAbs (q + shift) false

/-- Addition, with the sum scaled by 2^shift before the one rounding (R115 halves). -/
def fadd (t : Fmt) (r : Rnd) (shift : Int) (a b : FVal) : Nat × Nat :=
  if a.signalling || b.signalling then nanRes t true
  else match a, b with
    | .nan _, _ => nanRes t false
    | _, .nan _ => nanRes t false
    | .inf n1, .inf n2 => if n1 = n2 then (t.inf n1, NF) else nanRes t true
    | .inf n, _ => (t.inf n, NF)
    | _, .inf n => (t.inf n, NF)
    | .num n1 m1 e1, .num n2 m2 e2 => addFinite t r n1 m1 e1 n2 m2 e2 shift

/-- A value with its sign inverted. -/
def FVal.neg : FVal → FVal
  | .nan s => .nan s
  | .inf n => .inf (!n)
  | .num n m e => .num (!n) m e

/-- Multiplication. -/
def fmul (t : Fmt) (r : Rnd) (a b : FVal) : Nat × Nat :=
  if a.signalling || b.signalling then nanRes t true
  else match a, b with
    | .nan _, _ => nanRes t false
    | _, .nan _ => nanRes t false
    | .inf n1, .inf n2 => (t.inf (n1 != n2), NF)
    | .inf n1, .num n2 m _ => if m = 0 then nanRes t true else (t.inf (n1 != n2), NF)
    | .num n1 m _, .inf n2 => if m = 0 then nanRes t true else (t.inf (n1 != n2), NF)
    | .num n1 m1 e1, .num n2 m2 e2 => t.round r (n1 != n2) (m1 * m2) (e1 + e2) false

/-- Whether a product is 0 x inf. -/
def zeroTimesInf (a b : FVal) : Bool :=
  match a, b with
  | .inf _, .num _ m _ => m == 0
  | .num _ m _, .inf _ => m == 0
  | _, _ => false

/-- a x b + c, rounded once (R66, R114, R221). -/
def ffma (t : Fmt) (r : Rnd) (a b c : FVal) : Nat × Nat :=
  if a.signalling || b.signalling || c.signalling || zeroTimesInf a b then nanRes t true
  else match a, b, c with
    | .nan _, _, _ => nanRes t false
    | _, .nan _, _ => nanRes t false
    | _, _, .nan _ => nanRes t false
    | .num n1 m1 e1, .num n2 m2 e2, .num n3 m3 e3 =>
      addFinite t r (n1 != n2) (m1 * m2) (e1 + e2) n3 m3 e3 0
    | .num .., .num .., .inf n => (t.inf n, NF)
    | .inf n1, .inf n2, c | .inf n1, .num n2 _ _, c | .num n1 _ _, .inf n2, c =>
      match c with
      | .inf n => if n = (n1 != n2) then (t.inf n, NF) else nanRes t true
      | _ => (t.inf (n1 != n2), NF)

/-- A rank that orders the values that are not NaNs, -0 below +0: the pattern's magnitude with its sign. -/
def Fmt.rank (t : Fmt) (x : Nat) : Int :=
  let mag : Int := (x % 2 ^ (t.w - 1) : Nat)
  if t.negBit x then -mag - 1 else mag

/-- Minimum or maximum (R66, R114). A result that is infinite or a NaN raises NF, here and in the nodes of VRMIN and VRMAX,
although nothing is rounded: DEDUCED (log 47), since the spec ties NF to the value produced (R74) and speaks of rounding
in R111 and R219. -/
def fminmax (t : Fmt) (isMax : Bool) (x y : Nat) : Nat × Nat :=
  if (t.val x).isNan || (t.val y).isNan then nanRes t ((t.val x).signalling || (t.val y).signalling)
  else
    let v := if (t.rank x ≤ t.rank y) = isMax then y else x
    (v, flagIf (t.nonFinite v) NF)

/-- The order of two values that are not NaNs, zeros equal. -/
def fcompare (a b : FVal) : Ordering :=
  match a, b with
  | .inf n1, .inf n2 => compare (!n1) (!n2)
  | .inf n, _ => if n then .lt else .gt
  | _, .inf n => if n then .gt else .lt
  | .num n1 m1 e1, .num n2 m2 e2 =>
    let q := min e1 e2
    compare (signedAt n1 m1 e1 q) (signedAt n2 m2 e2 q)
  | _, _ => .eq

/-- The compares of R64, R68 and R119. -/
inductive Cmp where
  | eq | ne | lt | le
  deriving DecidableEq, Repr

/-- Whether an ordering satisfies a compare. -/
def Cmp.holds (c : Cmp) (o : Ordering) : Bool :=
  match c with
  | .eq => o == .eq
  | .ne => o != .eq
  | .lt => o == .lt
  | .le => o != .gt

/-- A floating compare and its NV (R68, R119). -/
def fcmp (c : Cmp) (a b : FVal) : Bool × Nat :=
  if a.isNan || b.isNan then
    (c == .ne, flagIf (match c with
      | .eq | .ne => a.signalling || b.signalling
      | _ => true) NV)
  else (c.holds (fcompare a b), 0)

/-- The class bit of a pattern (R120). -/
def Fmt.classBit (t : Fmt) (x : Nat) : Nat :=
  match t.val x with
  | .nan s => if s then 9 else 8
  | .inf n => if n then 0 else 7
  | .num n m _ =>
    if m = 0 then (if n then 3 else 4)
    else if m < 2 ^ t.f then (if n then 2 else 5) else (if n then 1 else 6)

/-! ## Division and roots -/

/-- The largest s with s * s not above n, by `k` bits from the highest. -/
def sqrtBits (n : Nat) : Nat → Nat → Nat
  | 0, acc => acc
  | k + 1, acc =>
    let c := acc + 2 ^ k
    sqrtBits n k (if c * c ≤ n then c else acc)

/-- The integer square root. -/
def isqrt (n : Nat) : Nat := sqrtBits n (Nat.log2 n / 2 + 1) 0

/-- The guard bits that quotients and roots carry below their leading bit. -/
def guardBits : Nat := 128

/-- a / b of finite values that are not zero. -/
def divFinite (t : Fmt) (r : Rnd) (neg : Bool) (m1 : Nat) (e1 : Int) (m2 : Nat) (e2 : Int) : Nat × Nat :=
  let n := m1 * 2 ^ guardBits
  t.round r neg (n / m2) (e1 - e2 - guardBits) (n % m2 != 0)

/-- XDIV (R133, R134). -/
def fdiv (t : Fmt) (r : Rnd) (a b : FVal) : Nat × Nat :=
  if a.signalling || b.signalling then nanRes t true
  else match a, b with
    | .nan _, _ => nanRes t false
    | _, .nan _ => nanRes t false
    | .inf _, .inf _ => nanRes t true
    | .inf n1, .num n2 _ _ => (t.inf (n1 != n2), NF)
    | .num n1 _ _, .inf n2 => (t.sign (n1 != n2) 0, 0)
    | .num n1 m1 e1, .num n2 m2 e2 =>
      if m2 = 0 then (if m1 = 0 then nanRes t true else (t.inf (n1 != n2), DZ ||| NF))
      else if m1 = 0 then (t.sign (n1 != n2) 0, 0)
      else divFinite t r (n1 != n2) m1 e1 m2 e2

/-- XRCP (R134). -/
def frcp (t : Fmt) (r : Rnd) (a : FVal) : Nat × Nat :=
  match a with
  | .nan s => nanRes t s
  | .inf n => (t.sign n 0, 0)
  | .num n m e => if m = 0 then (t.inf n, DZ ||| NF) else divFinite t r n 1 0 m e

/-- The magnitude of a square root: an even exponent, and bits enough below. -/
def sqrtFinite (t : Fmt) (r : Rnd) (m : Nat) (e : Int) : Nat × Nat :=
  let (m', e') := if e % 2 = 0 then (m, e) else (2 * m, e - 1)
  let n := m' * 2 ^ (2 * guardBits)
  let s := isqrt n
  t.round r false s (e' / 2 - guardBits) (s * s != n)

/-- XSQRT (R134). -/
def fsqrt (t : Fmt) (r : Rnd) (a : FVal) : Nat × Nat :=
  match a with
  | .nan s => nanRes t s
  | .inf n => if n then nanRes t true else (t.inf false, NF)
  | .num n m e => if m = 0 then (t.sign n 0, 0) else if n then nanRes t true else sqrtFinite t r m e

/-- 1 / sqrt of a positive finite value. -/
def rsqrtFinite (t : Fmt) (r : Rnd) (m : Nat) (e : Int) : Nat × Nat :=
  let (m', e') := if e % 2 = 0 then (m, e) else (2 * m, e - 1)
  let n := 2 ^ (2 * guardBits)
  let s := isqrt (n / m')
  t.round r false s (-(e' / 2) - guardBits) (s * s * m' != n)

/-- XRSQ (R134). -/
def frsq (t : Fmt) (r : Rnd) (a : FVal) : Nat × Nat :=
  match a with
  | .nan s => nanRes t s
  | .inf n => if n then nanRes t true else (t.sign false 0, 0)
  | .num n m e => if m = 0 then (t.inf n, DZ ||| NF) else if n then nanRes t true else rsqrtFinite t r m e

/-! ## Exponential and logarithm in fixed point -/

/-- The fraction bits of the fixed-point evaluation. -/
def fxBits : Nat := 768

def fxOne : Nat := 2 ^ fxBits

/-- The sum of the terms t, t*z2*..., of atanh: sum over k of z^(2k+1) / (2k+1). -/
def atanhSum (z2 : Nat) : Nat → Nat → Nat → Nat → Nat
  | 0, _, _, acc => acc
  | n + 1, k, t, acc => atanhSum z2 n (k + 2) (t * z2 / fxOne) (acc + t / k)

/-- 2 atanh z = ln ((1+z)/(1-z)) in fixed point, for z up to 1/3. -/
def fxTwoAtanh (z : Nat) : Nat := 2 * atanhSum (z * z / fxOne) 260 1 z 0

/-- ln 2 in fixed point. -/
def fxLn2 : Nat := fxTwoAtanh (fxOne / 3)

/-- The sum of the terms of the exponential series. -/
def expSum (x : Nat) : Nat → Nat → Nat → Nat → Nat
  | 0, _, _, acc => acc
  | n + 1, k, t, acc => expSum x n (k + 1) (t * x / fxOne / k) (acc + t)

/-- e^x in fixed point, for x in [0, 1). -/
def fxExp (x : Nat) : Nat := expSum x 160 1 fxOne 0

/-- 2^x in fixed point, for x in [0, 1). -/
def fxExp2 (x : Nat) : Nat := fxExp (x * fxLn2 / fxOne)

/-- log2 of a fixed-point value in [1, 2). -/
def fxLog2 (m : Nat) : Nat := fxTwoAtanh ((m - fxOne) * fxOne / (m + fxOne)) * fxOne / fxLn2

/-- Round a fixed-point approximation that is not exact, its last 32 bits dropped. -/
def fxRound (t : Fmt) (r : Rnd) (neg : Bool) (y : Nat) (e : Int) : Nat × Nat :=
  t.round r neg (y / 2 ^ 32) (e + 32 - fxBits) true

/-- A finite value as a fixed-point integer with its sign, bits below dropped. -/
def fxOf (n : Bool) (m : Nat) (e : Int) : Int :=
  let k : Int := if 0 ≤ e + fxBits then m * 2 ^ (e + fxBits).toNat else m / 2 ^ (-(e + fxBits)).toNat
  if n then -k else k

/-- XEXP2 (R133, R134). -/
def fexp2 (t : Fmt) (r : Rnd) (a : FVal) : Nat × Nat :=
  match a with
  | .nan s => nanRes t s
  | .inf n => if n then (t.sign false 0, 0) else (t.inf false, NF)
  | .num n m e =>
    if m = 0 then t.round r false 1 0 false
    else if Nat.log2 m + e ≥ 12 then t.round r false 1 (if n then -5000 else 5000) true
    else
      let x := fxOf n m e
      let whole := x / fxOne
      let frac := (x % fxOne).toNat
      if frac = 0 then
        (if 0 ≤ e || m % 2 ^ (-e).toNat = 0 then t.round r false 1 whole false
         else t.round r false (2 ^ 700) (whole - 700) true)
      else fxRound t r false (fxExp2 frac) whole

/-- XLOG2 (R133, R134). -/
def flog2 (t : Fmt) (r : Rnd) (a : FVal) : Nat × Nat :=
  match a with
  | .nan s => nanRes t s
  | .inf n => if n then nanRes t true else (t.inf false, NF)
  | .num n m e =>
    if m = 0 then (t.inf true, DZ ||| NF)
    else if n then nanRes t true
    else
      let k := Nat.log2 m
      let whole : Int := k + e
      if m = 2 ^ k then t.round r (whole < 0) whole.natAbs 0 false
      else
        let y : Int := whole * fxOne + fxLog2 (m * fxOne / 2 ^ k)
        fxRound t r (y < 0) y.natAbs 0

/-- e^x = 2^n * y with y in [1, 2) in fixed point, for a fixed-point x. -/
def fxExpFull (x : Int) : Nat × Int :=
  let p := x * fxOne / fxLn2
  (fxExp2 (p % fxOne).toNat, p / fxOne)

/-- XTANH (R133, R134). -/
def ftanh (t : Fmt) (r : Rnd) (a : FVal) : Nat × Nat :=
  match a with
  | .nan s => nanRes t s
  | .inf n => (t.sign n (t.b * 2 ^ t.f), 0)
  | .num n m e =>
    if m = 0 then (t.sign n 0, 0)
    else if Nat.log2 m + e ≥ 10 then t.round r n (2 ^ 700 - 1) (-700) true
    else
      let (y, k) := fxExpFull (fxOf false (2 * m) e)
      let ex := y * 2 ^ k.toNat
      fxRound t r n ((ex - fxOne) * fxOne / (ex + fxOne)) 0

/-- XSIG (R133, R134). -/
def fsig (t : Fmt) (r : Rnd) (a : FVal) : Nat × Nat :=
  match a with
  | .nan s => nanRes t s
  | .inf n => if n then (t.sign false 0, 0) else (t.sign false (t.b * 2 ^ t.f), 0)
  | .num n m e =>
    if m = 0 then t.round r false 1 (-1) false
    else if Nat.log2 m + e ≥ 10 then
      (if n then t.round r false 1 (-5000) true else t.round r false (2 ^ 700 - 1) (-700) true)
    else
      let (y, k) := fxExpFull (fxOf false m e)
      let ex := y * 2 ^ k.toNat
      if n then fxRound t r false (fxOne * fxOne * 2 ^ k.toNat / (fxOne + ex)) (-k)
      else fxRound t r false (ex * fxOne / (fxOne + ex)) 0

/-! ## Conversion (R69, R136) -/

/-- Float to integer (R69, R136): saturating, NaN to 0. -/
def toInt (lo hi : Int) (r : Rnd) (v : FVal) : Int × Nat :=
  match v with
  | .nan _ => (0, NV)
  | .inf n => (if n then lo else hi, NV)
  | .num n m e =>
    let (k, exact) := roundInt r n m e
    if k < lo then (lo, NV) else if k > hi then (hi, NV) else (k, flagIf (!exact) NX)

/-- An integer as a floating value; zero is +0. -/
def ofInt (x : Int) : FVal := .num (x < 0) x.natAbs 0

/-- A value into a floating type, by the rows of R136 (`neg` is the sign bit of the source, which the e4m3 NaN keeps). -/
def toFloat (ty : BitVec 4) (r : Rnd) (neg : Bool) (v : FVal) : Nat × Nat :=
  let t := fmtOf ty
  match t.special, v with
  | .nanOnly, .nan _ | .nanOnly, .inf _ => (t.sign neg t.nan, NV ||| NF)
  | .none, .nan _ | .none, .inf _ => (0, NV)
  | .ieee, _ | _, .num .. => t.roundVal r v

/-- The value of a scale code (R214). -/
def scaleVal (c : Nat) : FVal := if c = 0xFF then .nan false else .num false 1 ((c : Int) - 127)

/-- The value of an element of any type (R213, R214). -/
def anyVal (ty : BitVec 4) (x : Nat) : FVal :=
  if tyInt ty then ofInt (intVal ty x)
  else if ty = 14 then scaleVal (x % 256)
  else (fmtOf ty).val (x % 2 ^ tyWidth ty)

/-- One element of an XCVT (R135, R136). -/
def convert (dt st : BitVec 4) (r : Rnd) (x : Nat) : Nat × Nat :=
  if dt = st then (x, 0)
  else if tyInt dt then
    (if tyInt st then (fit dt r.sat (intVal st x), 0)
     else
      let (k, fl) := toInt (intMin dt) (intMax dt) r (anyVal st x)
      (lowBits k (tyWidth dt), fl))
  else toFloat dt r (!tyInt st && st != 14 && (fmtOf st).negBit x) (anyVal st x)

/-! ## The pairwise tree (R233) -/

/-- The operands of the left subtree: the greatest power of two below the number of operands. -/
def leftSize (n : Nat) : Nat := 2 ^ Nat.log2 (n - 1)

/-- Tree, by fuel: one node joins the two subtrees, left operand first. -/
def tree {α : Type} (node : α → α → α) (dflt : α) : Nat → List α → α
  | 0, vs => vs.headD dflt
  | _ + 1, [] => dflt
  | _ + 1, [v] => v
  | k + 1, vs =>
    let n := leftSize vs.length
    node (tree node dflt k (vs.take n)) (tree node dflt k (vs.drop n))

/-! ## ACC96 (R151, R154, R230) -/

/-- The tag of an accumulator cell, and the class of a product or contribution. -/
inductive Tag where
  | finite | posInf | negInf | nan
  deriving DecidableEq, Repr

/-- The code of a tag in the saved context (R205). -/
def Tag.code : Tag → Nat
  | .finite => 0
  | .posInf => 1
  | .negInf => 2
  | .nan => 3

/-- The tag of a code. -/
def Tag.ofCode (n : Nat) : Tag :=
  match n % 4 with
  | 0 => .finite
  | 1 => .posInf
  | 2 => .negInf
  | _ => .nan

/-- Two tags met, and whether infinities of both signs did (R154). -/
def Tag.join (a b : Tag) : Tag × Bool :=
  match a, b with
  | .nan, _ | _, .nan => (.nan, false)
  | .finite, x => (x, false)
  | x, .finite => (x, false)
  | .posInf, .posInf => (.posInf, false)
  | .negInf, .negInf => (.negInf, false)
  | _, _ => (.nan, true)

/-- A product of two scaled factors: its tag, its magnitude with sign, and whether it is inf times zero. -/
structure Prod where
  tag : Tag
  neg : Bool
  m   : Nat
  e   : Int
  nv  : Bool
  deriving DecidableEq, Repr

/-- A factor with its block's scale applied (R151, R154, R226): the code 0xFF makes it a NaN. -/
def scaled (v : FVal) (code : Nat) : FVal :=
  if code = 0xFF then .nan false
  else match v with
    | .num n m e => .num n m (e + code - 127)
    | x => x

/-- The product of two factors (R154). -/
def product (x w : FVal) : Prod :=
  match x, w with
  | .nan _, _ | _, .nan _ => ⟨.nan, false, 0, 0, false⟩
  | .num n1 m1 e1, .num n2 m2 e2 => ⟨.finite, n1 != n2, m1 * m2, e1 + e2, false⟩
  | .inf n1, .inf n2 => ⟨if n1 != n2 then .negInf else .posInf, n1 != n2, 0, 0, false⟩
  | .inf n1, .num n2 m _ | .num n1 m _, .inf n2 =>
    if m = 0 then ⟨.nan, false, 0, 0, true⟩ else ⟨if n1 != n2 then .negInf else .posInf, n1 != n2, 0, 0, false⟩

/-- TruncZ as an integer multiple of 2^a, and whether bits were dropped (R151). -/
def truncAt (a : Int) (p : Prod) : Int × Bool :=
  if a ≤ p.e then
    (let k : Int := p.m * 2 ^ (p.e - a).toNat
     (if p.neg then -k else k, false))
  else
    let s := (a - p.e).toNat
    let k : Int := (p.m / 2 ^ s : Nat)
    (if p.neg then -k else k, p.m % 2 ^ s != 0)

/-- A beat's contribution to one output: sum in units of 2^A; whether a product is a NaN, +inf, -inf; AX; whether an
infinity met a zero. -/
structure Contrib where
  sum : Int
  nan : Bool
  pos : Bool
  neg : Bool
  ax  : Bool
  iz  : Bool
  deriving DecidableEq, Repr

/-- The contribution of no product. -/
def Contrib.none : Contrib := ⟨0, false, false, false, false, false⟩

/-- The tag of a contribution (R154). -/
def Contrib.tag (c : Contrib) : Tag :=
  if c.nan || (c.pos && c.neg) then .nan else if c.pos then .posInf else if c.neg then .negInf else .finite

/-- Whether a contribution sets NV (R154): infinities of both signs do so whatever else the beat holds. -/
def Contrib.nv (c : Contrib) : Bool := c.iz || (c.pos && c.neg)

/-- Add a product to a contribution (R151, R154). -/
def Contrib.add (a : Int) (c : Contrib) (p : Prod) : Contrib :=
  let (k, dropped) := if p.tag = .finite then truncAt a p else (0, false)
  ⟨c.sum + k, c.nan || p.tag == .nan, c.pos || p.tag == .posInf, c.neg || p.tag == .negInf, c.ax || dropped,
   c.iz || p.nv⟩

/-- Clamp96 in units of 2^A, and whether it clamped. -/
def clamp96 (v : Int) : Int × Bool :=
  if v < -(2 ^ 95) then (-(2 ^ 95), true) else if v > 2 ^ 95 - 1 then (2 ^ 95 - 1, true) else (v, false)

/-- Drain of a cell of value n * 2^a into an element (R157). -/
def drain (ty : BitVec 4) (r : Rnd) (a : Int) (tag : Tag) (n : Int) : Nat × Nat :=
  let v : FVal :=
    match tag with
    | .finite => .num (n < 0) n.natAbs a
    | .posInf => .inf false
    | .negInf => .inf true
    | .nan => .nan false
  if tyInt ty then
    let (k, fl) := toInt (intMin ty) (intMax ty) r v
    (lowBits k (tyWidth ty), fl)
  else (fmtOf ty).roundVal r v

end Sys2Proof.Num
end

