-- ==== Sys2Proof/Machine/CoreState.lean ====
section
/-! DEFINITION. What one core holds (chapters 02 to 10 and R144, R203 to R205): plain data. A sparse field reads as its
default where it lists nothing. The operations on it are in Machine/Ops.lean and Machine/Operands.lean. -/

namespace Sys2Proof.Machine

/-- A beat that has issued and not landed, with the inputs it read at issue (R194, R205). -/
structure Beat where
  word  : W64
  sc    : W64
  plane : BitVec 512
  src   : Line
  buf   : BitVec 65536
  deriving DecidableEq, Repr

/-- What a fixed-latency result writes when it lands (R7, R196). -/
inductive Eff where
  /-- Nothing but flags. -/
  | void
  | sreg (r : Nat) (v : W64)
  | pred (p : Nat) (v : Bool)
  | mask (k : Nat) (v en : Mask)
  /-- Consecutive lines from the first specifier, under one set of bit enables. -/
  | lines (spec : BitVec 13) (en : Line) (data : List Line)
  /-- One anti-diagonal of a tile, by lanes (R29, R91). -/
  | antidiag (spec : BitVec 13) (en data : Line)
  | special (n : Nat) (v : W64)
  /-- TCLR (R169). -/
  | tclr (m : W64)
  /-- A line pushed to a write port 0 to 3. -/
  | push (port : Nat) (data : Line)
  /-- A beat's effect on array state (R160). -/
  | beat (b : Beat)
  deriving DecidableEq, Repr

/-- A fixed-latency result in flight: it lands at the issue `remain` issues after the next one; `late` marks a result
re-injected from a bank or held behind a fixed write, which lands after every other of its issue (R186, R187); `site` is
the header address of the bundle that issued it where it is that of a load or an atomic (R87). -/
structure Flight where
  eff    : Eff
  remain : Nat
  slot   : Nat
  late   : Bool
  flags  : Nat
  site   : Option W64
  deriving DecidableEq, Repr

/-- Where a variable-latency result of memory goes. -/
inductive RDst where
  | none
  /-- A scalar register; the value is sign-extended from `bits` when `sx`. -/
  | sreg (r : Nat) (bits : Nat) (sx : Bool)
  /-- A line: for each lane that is loaded, the lane, the number of the cell that holds its value and the byte of the cell
  where that begins; sign-extension of each from `bits`; the anti-diagonal when `ad`; the lanes that are zeroed. -/
  | line (spec : BitVec 13) (ad : Bool) (picks : List (Nat × Nat × Nat)) (bits : Nat) (sx : Bool) (zeroed : BitVec 128)
  deriving DecidableEq, Repr

/-- What a memory access does to a cell (R90 to R94). -/
inductive RKind where
  | load | store
  | amo (op : Nat)
  | cas
  | amol (op : Nat) (ty : BitVec 4)
  /-- EVADD: the key is the counter, the data what is added. -/
  | evadd
  deriving DecidableEq, Repr

/-- One single-copy atomic part of an access (R269): `bytes` bytes from memory key `key`; the data written or combined,
its byte enables, the value compared, and what was read once it has performed. -/
structure RCell where
  key   : Nat
  bytes : Nat
  data  : Nat
  en    : Nat
  exp   : Nat
  got   : Option Nat
  done  : Bool
  deriving DecidableEq, Repr

/-- An access whose result or effect is outstanding, in bundle order: the earlier accesses it must follow (R272),
whether it carries acquire, whether it is a load or an atomic, and the header address of its bundle (R87). -/
structure Racc where
  id    : Nat
  waits : List Nat
  acq   : Bool
  reads : Bool
  kind  : RKind
  cells : List RCell
  dst   : RDst
  pc    : W64
  handler : Bool
  handle  : Option Nat
  deriving DecidableEq, Repr

/-- What else a core awaits with a variable latency (R95, R104, R105, R163). -/
inductive VarKind where
  /-- A group load: group, operation, type, window offset, destination (a line or a scalar), completeness predicate,
  and of each member the cells read so far, `none` where it was
  fenced; whether a fenced member was met, acquire, and the accesses that its reads follow. -/
  | gload (group op : Nat) (ty : BitVec 4) (off : Nat) (line : Option (BitVec 13)) (dest cp : Nat)
      (members : List (Nat × Option (FMap W32))) (fenced acq : Bool) (waits : List Nat)
  /-- The status of a COPYNB, its transfer record, and the accesses that its reads and its writes follow. -/
  | copynb (dest : Nat) (record : BitVec 512) (readWaits waits : List Nat)
  /-- The status of a SUBMIT, its queue and its entry, whether it comes from supervisor mode, the accesses that its
  release waits for, and the answer once the entry has reached the queue. -/
  | submit (dest queue : Nat) (entry : Entry) (sup : Bool) (waits : List Nat) (answer : Option Nat)
  /-- The status of a SKIM. -/
  | skim (dest status : Nat)
  /-- A step: s[D] to s[D+6]; the walker's answer once it has served the request: an index, or that none is left. -/
  | step (dest : Nat) (answer : Option (Option Nat))
  /-- TFIND: its mask, and the bits of tagmap and tagerr that commands issued after it have cleared meanwhile. -/
  | tfind (dest : Nat) (m seen seenErr : W64)
  /-- HTAKE into a handle slot. -/
  | htake (dest slot : Nat)
  deriving DecidableEq, Repr

/-- A variable-latency result that is awaited. -/
structure Var where
  id   : Nat
  kind : VarKind
  pc   : W64
  handler : Bool
  deriving DecidableEq, Repr

/-- The state that program and supervisor mode each have of their own (R200): scalar registers and their empty bits,
predicates, pc and repetition, the bundle under way, special registers by number (R72), sticky words, tag counts,
results in flight and awaited, the orderings that fences have left (R172), the predicates that landings of the issue
about to be made and of the issue before it have written (R191). -/
structure Ctx where
  s        : FMap W64
  empty    : BitVec 64
  p        : BitVec 16
  pc       : W64
  rep      : Nat
  cur      : Option Bundle
  sr       : FMap W64
  sticky   : FMap W64
  oc       : FMap Nat
  flight   : List Flight
  racc     : List Racc
  vars     : List Var
  nextId   : Nat
  afterAcq : List Nat
  afterRel : List Nat
  landed   : BitVec 16
  lately   : BitVec 16
  deriving DecidableEq, Repr

/-- A retake bank: the results captured, and the nine sticky words frozen (R194, R197). -/
structure Bank where
  entries  : List Flight
  stickies : FMap W64
  deriving DecidableEq, Repr

/-- An accumulator row: 128 values of 96 bits and 128 tags of 2 bits (R205, R230). -/
structure AccRow where
  val  : BitVec 12288
  tags : BitVec 256
  deriving DecidableEq, Repr

/-- Array state (R144). -/
structure ArrayState where
  bufA    : BitVec 65536
  bufB    : BitVec 65536
  planeA  : BitVec 512
  planeB  : BitVec 512
  activeB : Bool
  sc      : W64
  acc     : FMap AccRow
  anchor0 : Int
  anchor1 : Int
  deriving DecidableEq, Repr

/-- A stream port (R99 to R102): its parameter record, the number of lines of the walk taken so far by the generator,
the rows still to be queued of the index line taken last (indexed mode), the queue, and for a write port the number of
lines pushed; of a read port, the cells that its generator has read ahead of the line that it takes next, by line. -/
structure Port where
  conf   : Bool
  record : BitVec 512
  taken  : Nat
  rows   : List Nat
  queue  : List Line
  pushed : Nat
  early  : FMap (FMap W32)
  deriving DecidableEq, Repr

/-- A held handle slot (R289): base and owner once taken, or the reservation of a waiting HTAKE. -/
structure Held where
  reserved : Bool
  base     : Nat
  owner    : Nat
  size     : Nat
  dest     : Nat
  deriving DecidableEq, Repr

/-- A region lent or offered (R289): its number, base, size in 4 KiB units, peer position, whether it was taken and into
which slot, HGIVE's destination register, and the status that its return delivers once the holder's accesses are done. -/
structure Lent where
  id     : Nat
  base   : Nat
  size   : Nat
  peer   : Nat
  taken  : Bool
  slot   : Nat
  dest   : Nat
  status : Option Nat
  /-- Whether a handler issued the HGIVE (R187). -/
  handler : Bool
  deriving DecidableEq, Repr

/-- A pending offer to a core (R105, R289), with the number of the giver's lent region. -/
structure Offer where
  giver  : Nat
  region : Nat
  base   : Nat
  size   : Nat
  deriving DecidableEq, Repr

/-- A supervisor command in flight (R83); a save holds the image of the frozen context as its command found it. -/
structure SvCmd where
  id   : Nat
  save : Bool
  part : Nat
  tag  : Nat
  addr : W64
  waits : List Nat
  image : List (Nat × Nat × Nat)
  /-- The supervisor's copies that a release waits for (R279). -/
  earlier : List Nat
  failed : Bool
  deriving DecidableEq, Repr

/-- What a core is doing: idle before a launch; running a program; stopped by a system trap and waiting to enter
supervisor mode (R202); in supervisor mode; exiting (R179); its part done; fenced (R365). -/
inductive CoreMode where
  | idle | program | trapping | supervisor | exiting | exited | fenced
  deriving DecidableEq, Repr

/-- A load error that is pending (R87, R198): the header of the bundle that issued the load, and whether a handler
issued it. -/
structure LoadError where
  pc      : W64
  handler : Bool
  deriving DecidableEq, Repr

/-- One core. -/
structure Core where
  mode      : CoreMode
  prog      : Ctx
  sup       : Ctx
  k         : FMap Mask
  tiles     : FMap Line
  cellEmpty : FMap (BitVec 128)
  arr       : ArrayState
  ports     : FMap Port
  held      : FMap Held
  lent      : List Lent
  nextLent  : Nat
  offers    : List Offer
  progBank  : Option Bank
  sysBank   : Option Bank
  /-- Issues since the handler's entry (R199). -/
  handlerIssues : Nat
  loadErrors : List LoadError
  /-- The error record number of a machine error that is due (R192, R361). -/
  machineErr : Option W64
  /-- A pre-emption request that is due: true for a bundle boundary (R192, R199). -/
  preempt   : Option Bool
  /-- Words of the instruction cache by address (R208). -/
  icache    : FMap W64
  svCmds    : List SvCmd
  /-- The array entries of the program bank that SVLOAD of part 2 has taken since the last system trap (R205): the bank that
  SVLOAD of part 0 makes holds them. -/
  loadedBeats : Option (List Flight)
  /-- SVLOAD of part 0 has replaced the frozen program's control state since the last system trap. -/
  reloaded  : Bool
  svEntry   : W64
  ceRate    : Nat
  /-- The launch that the core runs (R249). -/
  launch    : Option Nat
  /-- The step that the core has claimed and not retired, with whether it was triggered (R176, R178). -/
  claim     : Option (Nat × Bool)
  /-- END was written to CORE_CTL (R360). -/
  ending    : Bool
  deriving DecidableEq, Repr

/-- A context as it stands when a core starts (R209), before arguments and entry: p0 reads 1. -/
def Ctx.start : Ctx :=
  { s := [], empty := 0, p := 1, pc := 0, rep := 0, cur := none, sr := [], sticky := [], oc := [], flight := [],
    racc := [], vars := [], nextId := 0, afterAcq := [], afterRel := [], landed := 0, lately := 0 }

/-- The zero accumulator row. -/
def AccRow.zero : AccRow := ⟨0, 0⟩

/-- A plane of 64 codes 0x7F (R144). -/
def planeStart : BitVec 512 := BitVec.ofNat 512 (0x7F * ((2 ^ 512 - 1) / 255))

/-- Array state at the start of a launch (R144). -/
def ArrayState.start : ArrayState :=
  { bufA := 0, bufB := 0, planeA := planeStart, planeB := planeStart, activeB := false,
    sc := 0x7F7F7F7F7F7F7F7F#64, acc := [], anchor0 := 0, anchor1 := 0 }

/-- An unconfigured port (R100). -/
def Port.start : Port :=
  { conf := false, record := 0, taken := 0, rows := [], queue := [], pushed := 0, early := [] }

/-- A core after reset (identities of supervisor accesses are numbered apart from the program's): idle, and every field as at the start of a launch. CE_RATE resets to 256 (R356). -/
def Core.start : Core :=
  { mode := .idle, prog := Ctx.start, sup := { Ctx.start with nextId := 2 ^ 40 }, k := [], tiles := [], cellEmpty := [], arr := ArrayState.start,
    ports := [], held := [], lent := [], nextLent := 0, offers := [], progBank := none, sysBank := none,
    handlerIssues := 0, loadErrors := [], machineErr := none, preempt := none, icache := [], svCmds := [],
    loadedBeats := none, reloaded := false, svEntry := 0, ceRate := 256, launch := none, claim := none, ending := false }

end Sys2Proof.Machine
end

