-- ==== Sys2Proof/Machine/Inputs.lean ====
section
/-! DEFINITION. What the machine's agents and its outside do next: the moves of the agenda, with what each of them works
on. A move that is an event of the opcode table is consumed by the meaning of that event's row; the others are the
performing of accesses whose moment the memory model leaves open (R268 to R280), the passing of time, and the reads that
the host makes (R353 to R358, R375). -/

namespace Sys2Proof.Machine

/-- A notice record as it is posted (R303): board, RUNSEQ, KEY, the sender's pkgid, LEN, WFMT, ADDRA and the span. -/
structure NoticeRec where
  board  : Nat
  runseq : Nat
  key    : Nat
  sender : Nat
  len    : Nat
  wfmt   : Nat
  addrA  : W64
  spanLo : Nat
  spanHi : Nat
  deriving DecidableEq, Repr

/-- Who issued a request that can park (R328: KIND). -/
inductive ReqKind where
  | copy | skim | sequencer
  /-- An access of another package, as a request of this one's fabric side (R319). -/
  | fabric
  deriving DecidableEq, Repr

/-- A parked request (R328): what it is, its number among the agents of its kind (copy identity, skim job, or run), and
the words of its fault record. -/
structure Request where
  kind   : ReqKind
  ident  : Nat
  reason : BitVec 8
  space  : BitVec 8
  va     : BitVec 48
  write  : Bool
  unit   : BitVec 10
  place  : W64
  deriving DecidableEq, Repr

/-- The rings of records that the device writes and software reads (R328, R359, R362). -/
inductive RingName where
  | translation
  | error
  | queue (q : Nat)
  deriving DecidableEq, Repr

/-- The unit kinds of an error record (R362: UKIND). -/
inductive UnitKind where
  | core | cluster | die | pseudoChannel | paritySet | port | alu | ucie | chunkBuffers | sensor
  deriving DecidableEq, Repr

/-- What the access that met a hardware error was (R87, R336, R361). -/
inductive ErrAccess where
  | none
  | load (core var : Nat)
  /-- A load or an atomic of fixed latency, by the place of its result among those of the core that are to land. -/
  | fixedLoad (core result : Nat)
  | store (core : Nat)
  | copyEngine (copy : Nat)
  | skimEngine (job engine : Nat)
  | sequencer (run index : Nat)
  | array (core : Nat)
  deriving DecidableEq, Repr

/-- What the boot flash and the training give at reset (R366): the component images in order, the straps, and whether
HBM4E training succeeds. -/
structure BootInput where
  images  : List (List Byte)
  bootSrc : Bool
  trained : Bool
  deriving DecidableEq, Repr
/-- A move. -/
inductive Move where
  /-- The input of BUNDLE_ISSUE (R189). -/
  | bundleIssue (core : Nat)
  /-- The input of NULLIFIER_SKIP (R191). -/
  | nullifierSkip (core : Nat)
  /-- The input of RESULT_LANDING (R7). -/
  | resultLanding (core : Nat)
  /-- The input of VARIABLE_RESULT_ARRIVAL (R187). -/
  | variableResultArrival (core var : Nat)
  /-- The input of DEFERRED_LOAD_ERROR_TRAP (R87). -/
  | deferredLoadErrorTrap (core : Nat)
  /-- The input of MACHINE_ERROR_TRAP (R361). -/
  | machineErrorTrap (core : Nat)
  /-- The input of PREEMPTION_STOP (R192). -/
  | preemptionStop (core : Nat)
  /-- The input of PREEMPT_HELD_TIMEOUT (R199). -/
  | preemptHeldTimeout (core : Nat)
  /-- The input of SYSTEM_TRAP_ENTRY (R202). -/
  | systemTrapEntry (core : Nat)
  /-- The input of STEP_DELIVERY (R176). -/
  | stepDelivery (core : Nat)
  /-- The input of COPYNB_STATUS (R166). -/
  | copynbStatus (core var : Nat)
  /-- The input of SUBMIT_STATUS (R180). -/
  | submitStatus (core var : Nat)
  /-- The input of SKIM_STATUS (R181). -/
  | skimStatus (core var : Nat)
  /-- The input of READ_PORT_FILL (R100). -/
  | readPortFill (core port : Nat)
  /-- The input of WRITE_PORT_WRITE (R100). -/
  | writePortWrite (core port : Nat)
  /-- The input of GROUP_LOAD_MEMBER_READ (R283). -/
  | groupLoadMemberRead (core var member : Nat) (cells : BitVec 128)
  /-- The input of GROUP_LOAD_COMPLETE (R97). -/
  | groupLoadComplete (core var : Nat)
  /-- The input of HTAKE_OFFER_ACCEPT (R105). -/
  | htakeOfferAccept (core : Nat)
  /-- The input of HANDLE_RETURN_COMPLETE (R106). -/
  | handleReturnComplete (core region : Nat)
  /-- The input of EXIT_COMPLETE (R179). -/
  | exitComplete (core : Nat)
  /-- The input of COPY_START (R166). -/
  | copyStart (cluster : Nat)
  /-- The input of COPY_COMPLETE (R167). -/
  | copyComplete (copy : Nat)
  /-- The input of SV_COMMAND_COMPLETE (R83). -/
  | svCommandComplete (core command : Nat)
  /-- The input of LAUNCH_BY_DELTA (R243). -/
  | launchByDelta (queue : Nat) (entry : Entry)
  /-- The input of LAUNCH_BY_REFERENCE (R243). -/
  | launchByReference (queue : Nat) (entry : Entry)
  /-- The input of QUEUE_RESET (R243). -/
  | queueReset (queue : Nat) (entry : Entry)
  /-- The input of QUEUE_SET_IN_ORDER (R242). -/
  | queueSetInOrder (queue : Nat) (entry : Entry)
  /-- The input of QUEUE_SET_CONCURRENT (R242). -/
  | queueSetConcurrent (queue : Nat) (entry : Entry)
  /-- The input of QUEUE_DISABLE (R243). -/
  | queueDisable (queue : Nat) (entry : Entry)
  /-- The input of QUEUE_ENABLE (R243). -/
  | queueEnable (queue : Nat) (entry : Entry)
  /-- The input of SUBMISSION_STRAY_WRITE (R244). -/
  | submissionStrayWrite (page : Nat)
  /-- The input of GROUP_LIST_READ (R246). -/
  | groupListRead (launch : Nat)
  /-- The input of LAUNCH_ADMISSION (R249). -/
  | launchAdmission (launch : Nat)
  /-- The input of CLUSTER_JOIN (R249). -/
  | clusterJoin (launch cluster : Nat)
  /-- The input of STEP_SERVICE (R250). -/
  | stepService (core : Nat)
  /-- The input of EARLY_TRIGGER_ADD (R253). -/
  | earlyTriggerAdd (launch : Nat)
  /-- The input of LAUNCH_COMPLETION (R253). -/
  | launchCompletion (launch : Nat)
  /-- The input of PREEMPTION_DEADLINE_EXPIRY (R257). -/
  | preemptionDeadlineExpiry (launch : Nat)
  /-- The input of LAUNCH_PREEMPTED (R258). -/
  | launchPreempted (launch : Nat)
  /-- The input of LAUNCH_RESUME (R260). -/
  | launchResume (launch : Nat)
  /-- The input of PRIORITY_AGEING (R261). -/
  | priorityAgeing (launch : Nat)
  /-- The input of COUNTER_ADD_WRITE (R357). -/
  | counterAddWrite (counter : Nat) (value : W64)
  /-- The input of COUNTER_SET_WRITE (R357). -/
  | counterSetWrite (counter : Nat) (value : W64)
  /-- The input of EVT_IRQ_WRITE (R358). -/
  | evtIrqWrite (index : Nat) (high : Bool) (value : W64)
  /-- The input of STORYBOARD_LOAD (R294). -/
  | storyboardLoad (queue : Nat) (entry : Entry)
  /-- The input of STORYBOARD_RUN (R295). -/
  | storyboardRun (queue : Nat) (entry : Entry)
  /-- The input of RUN_ARMING (R295). -/
  | runArming (run : Nat)
  /-- The input of ENTRY_FIRE (R296). -/
  | entryFire (run index : Nat)
  /-- The input of NOTICE_RECEIVE (R304). -/
  | noticeReceive (port : Nat) (record : NoticeRec)
  /-- The input of NOTICE_REPOST (R304). -/
  | noticeRepost (run index : Nat)
  /-- The input of PULL_NOTICE_MATCH (R305). -/
  | pullNoticeMatch (run index : Nat)
  /-- The input of ROOM_ACQUIRE (R306). -/
  | roomAcquire (run index : Nat)
  /-- The input of PULL_DATA_ARRIVAL (R305). -/
  | pullDataArrival (run index : Nat) (data again : List Byte)
  /-- The input of NOTICE_COMPLETE (R303). -/
  | noticeComplete (run index : Nat)
  /-- The input of ENTRY_COMPLETE (R297). -/
  | entryComplete (run index : Nat)
  /-- The input of FLIT_RECEIVE (R315). -/
  | flitReceive (port : Nat) (flit : List Byte)
  /-- The input of TRANSLATION_FAULT_PARK (R328). -/
  | translationFaultPark (request : Request)
  /-- The input of XL_ROOT_WRITE (R323). -/
  | xlRootWrite (value : W64)
  /-- The input of XL_INVAL_WRITE (R327). -/
  | xlInvalWrite (value : W64)
  /-- The input of XL_INVAL_COMPLETE (R327). -/
  | xlInvalComplete
  /-- The input of XL_RESOLVE_RESUME (R329). -/
  | xlResolveResume (parkid : BitVec 16)
  /-- The input of XL_RESOLVE_ABORT (R329). -/
  | xlResolveAbort (parkid : BitVec 16)
  /-- The input of RING_TAIL_WRITE (R356). -/
  | ringTailWrite (ring : RingName) (value : W64)
  /-- The input of RING_CONFIG_WRITE (R356). -/
  | ringConfigWrite (ring : RingName) (size : Bool) (value : W64)
  /-- The input of DM_CONFIG_WRITE (R332). -/
  | dmConfigWrite (value : W64)
  /-- The input of HW_ERROR_EVENT (R363), with the other line of the stripe that does not read correctly either, when an
  uncorrectable error meets one (R337): data line 0 to 14, or 15 for the parity. -/
  | hwErrorEvent (cls : Nat) (kind : UnitKind) (unit addr : Nat) (access : ErrAccess) (other : Option Nat)
  /-- The input of MAKE_GOOD_REBUILD (R341): the line of the stripe whose uncorrectable error stops the reconstruction, if
  one does: data line 0 to 14, or 15 for the parity. -/
  | makeGoodRebuild (set : Nat) (bad : Option Nat)
  /-- The input of HBM_RETRAIN (R338). -/
  | hbmRetrain (channel : Nat) (good : Bool)
  /-- The input of SELF_REFRESH_ENTRY (R338). -/
  | selfRefreshEntry (channel : Nat)
  /-- The input of SKIM_ENGINE_START (R347). -/
  | skimEngineStart (engine : Nat)
  /-- The input of SKIM_BLOCK_QUANTISE (R350). -/
  | skimBlockQuantise (job block : Nat)
  /-- The input of SKIM_RECORD_COMPLETE (R352). -/
  | skimRecordComplete (job : Nat)
  /-- The input of HOST_DEVMEM_ACCESS (R354). -/
  | hostDevmemAccess (offset count : Nat) (data : Option (List Byte))
  /-- The input of CORE_CTL_FENCE (R360). -/
  | coreCtlFence (core : Nat)
  /-- The input of CORE_CTL_END (R360). -/
  | coreCtlEnd (core : Nat)
  /-- The input of CORE_CTL_STOP (R360). -/
  | coreCtlStop (core : Nat)
  /-- The input of FABRIC_PKGID_WRITE (R15). -/
  | fabricPkgidWrite (value : W64)
  /-- The input of FABRIC_DIMS_WRITE (R356). -/
  | fabricDimsWrite (value : W64)
  /-- The input of SEC_POLICY_WRITE (R371). -/
  | secPolicyWrite (value : W64)
  /-- The input of REGISTER_WRITE (R354, R356): the offset and the bytes of the access. -/
  | registerWrite (offset count : Nat) (value : W64)
  /-- The input of MBOX_ATTEST (R370). -/
  | mboxAttest
  /-- The input of MBOX_IMAGE_CHUNK (R369). -/
  | mboxImageChunk
  /-- The input of MBOX_IMAGE_END (R369). -/
  | mboxImageEnd (images : List (List Byte)) (trained : Bool)
  /-- The input of MBOX_IMAGE_RESET (R369). -/
  | mboxImageReset
  /-- The input of MBOX_UNKNOWN_COMMAND (R369). -/
  | mboxUnknownCommand
  /-- The input of RESET_RELEASE (R366). -/
  | resetRelease (boot : BootInput)
  /-- The input of SENSOR_ALARM (R372). -/
  | sensorAlarm (sensors : BitVec 4)
  /-- The input of POWER_MANAGER_TICK (R373). -/
  | powerManagerTick (power : Nat)
  /-- The input of THERMAL_TRIP (R374). -/
  | thermalTrip (temp : Nat)
  /-- The input of THERMAL_STEP_TICK (R374). -/
  | thermalStepTick (temp : Nat)
  /-- The input of I3C_TELEMETRY_READ (R375): the address that the transfer names. -/
  | i3cTelemetryRead (address : BitVec 7)
  /-- The input of I3C_CAP_WRITE (R375). -/
  | i3cCapWrite (address : BitVec 7) (value : Nat)
  /-- The input of I3C_STATUS_READ (R375). -/
  | i3cStatusRead (address : BitVec 7)
  /-- The input of I3C_FENCE_MAP_READ (R375). -/
  | i3cFenceMapRead (address : BitVec 7)
  /-- The input of I3C_UNKNOWN_COMMAND (R375). -/
  | i3cUnknownCommand (address : BitVec 7) (command : Nat)
  /-- The input of POWER_CYCLE (R372). -/
  | powerCycle
  /-- The input of PORT_RETRAINING_COMPLETE (R315). -/
  | portRetrainingComplete (port : Nat) (good : Bool)
  /-- The input of ENTDAA (R375). -/
  | entdaa (address : BitVec 7)
  /-- The entry of a SUBMIT of a core reaches its queue (R180, R244). -/
  | submitReach (core var : Nat)
  /-- One cell of an access that a core has outstanding performs (R269, R272). -/
  | accessPerform (core access cell : Nat)
  /-- The generator of a read port reads cells of a line of its walk ahead of the line that it takes next (R102). -/
  | readPortAhead (core port line : Nat) (cells : BitVec 128)
  /-- A started copy performs the read, or the write, of one of its elements (R320). -/
  | copyElementRead (copy element : Nat)
  | copyElementWrite (copy element : Nat)
  /-- What a copy with a remote source reads at the other package (R317, R319). -/
  | copyRemoteRead (copy element data : Nat)
  /-- The other package answers an element of a copy with a remote side: its write has performed, or its access failed
  (R319, R321). -/
  | copyRemoteAnswer (copy element : Nat) (good : Bool)
  /-- A copy of a launch that was aborted is itself aborted (R256). -/
  | copyAbandon (copy : Nat)
  /-- A non-temporal write performs (R280). -/
  | ntPerform (index : Nat)
  /-- Time passes, in nanoseconds (R6, R356: PKG_TIME). -/
  | elapse (ns : Nat)
  /-- A read of so many bytes of the registers window (R354). -/
  | registerRead (offset count : Nat)
  | counterRead (counter : Nat)
  /-- Another package answers a posted notice: its table was full (R304), or the entry that matched it has another LEN
  (R305). -/
  | noticeRefused (run index : Nat)
  | noticeLength (run index : Nat)
  /-- Another package answers that the read of a pull's or a reduce-into's source failed (R329). -/
  | pullFailed (run index : Nat)
  /-- Another package reads or writes an address of this one over the fabric (R316 to R319). -/
  | fabricRead (peer : Nat) (space : BitVec 8) (addr count : Nat)
  | fabricWrite (peer : Nat) (space : BitVec 8) (addr : Nat) (data : List Byte)
  /-- A packet of another package arrives at a port on its way to a third (R316): channel, source, destination, bytes. -/
  | transit (port : Nat) (channel : BitVec 2) (src dst : Nat) (data : List Byte)
  /-- The other end of a port has taken every flit before a sequence number, or asks for a replay from it (R315). -/
  | flitAck (port sequence : Nat)
  | flitReplay (port sequence : Nat)
  /-- A Deferrable Memory Write of the host outside the submission window (R353). -/
  | strayDmw
  /-- The temperature sensors are read, in units of 0.125 °C (R356: TELEMETRY). -/
  | sensorTemps (temps : List Nat)
  deriving DecidableEq, Repr

end Sys2Proof.Machine
end

