-- ==== Sys2Proof/Machine/PackageState.lean ====
section
/-! DEFINITION. What the package holds beside its cores (chapters 14, 16, 18, 19 and 20): plain data. Each structure is
one agent's part. A sparse field reads as its default where it lists nothing. -/

namespace Sys2Proof.Machine

/-- What a packet of the fabric says (R303 to R305, R312, R316 to R319). -/
inductive FabricMsg where
  /-- A notice record (R303). -/
  | notice (r : NoticeRec)
  /-- A notice record that found its table full (R304), or that met an entry of another length (R305). -/
  | noticeRefused (r : NoticeRec)
  | noticeLength (r : NoticeRec)
  /-- A pull's read request: address, bytes, and whether it is the checking read (R305, R312). -/
  | pull (addr : W64) (bytes : Nat) (again : Bool)
  /-- A read, or a write, of a copy with a remote side (R317, R319). -/
  | remoteRead (addr bytes : Nat)
  | remoteWrite (addr : Nat) (data : List Byte)
  /-- The answer to a read (R316); whether a write has performed; a read or a write that failed (R321, R326). -/
  | data (bytes : List Byte)
  | written
  | failed
  /-- What a packet of two other packages says, which passes through this one. -/
  | passing (bytes : List Byte)
  deriving DecidableEq, Repr

/-- A packet on the fabric (R316): virtual channel, source, destination, what it says. -/
structure Packet where
  channel : Nat
  src     : Nat
  dst     : Nat
  body    : FabricMsg
  deriving DecidableEq, Repr

/-- What the package sends to the outside: the model's record of outputs. -/
inductive Msg where
  /-- An MSI-X message (R358). -/
  | msix (vector : Nat)
  /-- A packet sent, or sent again, at a port under a sequence number (R315, R316). -/
  | packet (port sequence : Nat) (p : Packet)
  /-- A retried or retransmitted flit sequence is asked for (R315). -/
  | replay (port : Nat)
  /-- The answer to a host read of the registers window or of a counter. -/
  | register (value : W64)
  /-- The answer to a host read of device memory (R354). -/
  | deviceData (data : List Byte)
  /-- A poisoned completion (R354). -/
  | poisoned
  /-- Unsupported Request (R353, R354). -/
  | unsupported
  /-- Memory Request Retry Status of a Deferrable Memory Write, or its success (R244). -/
  | retry
  | success
  /-- I3C replies (R375): the telemetry block as power, highest temperature, the sensors' temperatures, clock step and head
  of the error log; SEC_STATUS and BOOT_STATUS; FENCE_MAP as its fields; a NACK; an in-band interrupt. -/
  | telemetry (power temp : Nat) (sensors : List Nat) (step head : Nat)
  | status (sec boot : Nat)
  | fenceMap (cores : BitVec 1024) (clusters : BitVec 64) (sets : BitVec 32) (ports : BitVec 6) (alus : BitVec 9)
  | nack
  | inBand
  deriving DecidableEq, Repr

/-- A ring of 32-byte records (R356), with the records that wait for room in the translation ring (R328) and the count of
records dropped (R359). -/
structure Ring where
  base    : W64
  n       : Nat
  head    : Nat
  tail    : Nat
  lost    : Nat
  waiting : List (BitVec 256)
  deriving DecidableEq, Repr

/-- Where a copy stands (R166, R321): in the engine's queue; started; parked under an identity with the reason, the
address and the direction of the failure; over, with every element done or the copy failed, and its completion still to
come. -/
inductive CopyPhase where
  | queued | started
  | parked (parkid : BitVec 16) (reason : Nat) (space : BitVec 8) (va : Nat) (write : Bool)
  deriving DecidableEq, Repr

/-- A copy accepted (R166, R278, R317 to R321): its core and mode; its record; its place; the accesses of its core that
its reads and its writes follow; the earlier copies that its writes wait for; whether it has failed; PROGRESS; elements
read and not yet written; elements at or above PROGRESS that are written; the time by which a planned copy completes
(R322). -/
structure Copy where
  id         : Nat
  core       : Nat
  sup        : Bool
  record     : BitVec 512
  phase      : CopyPhase
  readWaits  : List Nat
  writeWaits : List Nat
  earlier    : List Nat
  failed     : Bool
  progress   : Nat
  data       : FMap Nat
  done       : List Nat
  due        : Option Nat
  /-- Its core's launch has been aborted (R256): its completion no longer touches the core. -/
  orphan     : Bool
  /-- Elements whose write is sent to another package, which has not answered it (R319). -/
  sent       : List Nat
  /-- A long replay has served it: the planned bound no longer applies (R322, R336). -/
  lifted     : Bool
  deriving DecidableEq, Repr

/-- A non-temporal write accepted and not performed (R280). -/
structure NtWrite where
  copy  : Nat
  core  : Nat
  key   : Nat
  bytes : Nat
  data  : Nat
  deriving DecidableEq, Repr

/-- An installed group (R175, R245, R286): its 160-byte entry, the launch that installed it, the arrival counts by core,
the degraded counter, the members that have left (R179), and those that stand, after a resumption, for a core that was
fenced (R97, R260). -/
structure Group where
  entry    : BitVec 1280
  launch   : Nat
  arrivals : FMap W32
  degraded : Nat
  left     : List Nat
  absent   : List Nat
  deriving DecidableEq, Repr

/-- A collective queue's entry that is not over: a load held under R294, or a run, by number of acceptance. -/
inductive CollItem where
  | load (id board : Nat) (image : List (BitVec 256)) (members : List (Nat × Nat))
  | run (id : Nat)
  deriving DecidableEq, Repr

/-- A queue (R241, R356): the kept slate, the mode, whether it is disabled, the launches or the storyboard entries not yet
over in order, QUEUE_SAVEBASE, its fault ring, QFQ_STRAY. -/
structure Queue where
  kept       : BitVec 2048
  concurrent : Bool
  disabled   : Bool
  launches   : List Nat
  items      : List CollItem
  saveBase   : W64
  ring       : Ring
  stray      : Nat
  deriving DecidableEq, Repr

/-- A walker (R250, R258): its cluster, whether a cluster owns it, and its range. -/
structure Walker where
  cluster : Nat
  owned   : Bool
  next    : Nat
  stop    : Nat
  deriving DecidableEq, Repr

/-- Where a launch stands (R248, R249, R257, R258). -/
inductive LaunchPhase where
  | queued | running
  /-- Pre-emption under way; true once the cores have bundle-boundary requests. -/
  | stopping (bundle : Bool)
  /-- Pre-empted and saved. -/
  | preempted
  deriving DecidableEq, Repr

/-- A position of a pre-empted launch (R258, R259): whether its part was over, by a fence or otherwise, and whether part 0
alone was saved. With it, the STEP that was outstanding (R177). -/
structure SavedPos where
  pos    : Nat
  ended  : Bool
  fenced : Bool
  clean  : Bool
  steps : List Var
  deriving DecidableEq, Repr

/-- A launch from its acceptance to its end (R239 to R261): the slate as admitted; launchid; the copy of the group list
(R246); the participating clusters in partition order, and those held, ascending; the walkers; the restart set with the
triggered marks; the numbers of triggered and retired indices; whether the early add was made; the cores started and
those of them whose part is over; the time since which it is ready; the admission's number; the time of the pre-emption
deadline; of a pre-empted launch, the address of the save area, the clusters that it held, and the positions saved. -/
structure Launch where
  id        : Nat
  queue     : Nat
  slate     : BitVec 2048
  launchid  : W64
  phase     : LaunchPhase
  groups    : Option (List (BitVec 1280))
  clusters  : List Nat
  held      : List Nat
  walkers   : List Walker
  restart   : List (Nat × Bool)
  triggered : Nat
  retired   : Nat
  early     : Bool
  started   : List Nat
  finished  : List Nat
  since     : Option Nat
  admitted  : Nat
  deadline  : Option Nat
  savedAt   : Nat
  savedHeld : List Nat
  saved     : List SavedPos
  deriving DecidableEq, Repr

/-- The scheduler (R241, R256, R261, R356). -/
structure Sched where
  queues     : FMap Queue
  launches   : FMap Launch
  nextLaunch : Nat
  admissions : Nat
  /-- The queue last served at each priority (R261). -/
  served     : FMap Nat
  /-- The launch that reserves a cluster (R261). -/
  reserved   : FMap Nat
  deadline   : Nat
  subwinStray : Nat
  /-- ARGS of the launches that fault records report, by the record's SEQ (R239, R359). -/
  faultArgs  : FMap W64
  deriving DecidableEq, Repr

/-- A board (R293 to R295, R304): its entries, its member table as pkgid and node, RUNSEQ, the collective queue that owns
it, whether a load of it has taken effect, and the records that its runs have consumed, as RUNSEQ, sender and KEY. -/
structure Board where
  loaded  : Bool
  entries : List (BitVec 256)
  members : List (Nat × Nat)
  runseq  : Nat
  owner   : Option Nat
  consumed : List (Nat × Nat × Nat)
  deriving DecidableEq, Repr

/-- Where a storyboard entry of an armed run stands (R296, R303 to R306): armed; due, its counter having met the
threshold (R296); a notice posted and not yet read, with the times its record was refused; refused and to be posted again
after a backoff; fired and waiting for a record; waiting for room, with the record that it has matched; its read issued,
with whether it is checked and whether the check is being repeated (R312); its data here and its own translation parked;
a notice whose source did not translate, a local copy or a delivery, parked; delivered to the skim engines; its transfer
made, its completion to come; over; abandoned. -/
inductive EntryPhase where
  | armed
  | due
  | posted (refusals : Nat)
  | backoff (refusals until_ : Nat)
  | matching
  | waiting (r : Option NoticeRec)
  | reading (r : NoticeRec) (checked again : Bool)
  | landing (r : NoticeRec) (checked again : Bool) (data second : List Byte) (parkid : BitVec 16)
  | parked (parkid : BitVec 16)
  | delivering (job : Nat)
  | moved
  | completed
  | abandoned
  deriving DecidableEq, Repr

/-- An entry of a run: its fields after substitution (R299), its phase, the order in which it fired (R306). -/
structure EntryState where
  entry : BitVec 256
  phase : EntryPhase
  fired : Nat
  deriving DecidableEq, Repr

/-- Where a run stands (R295, R313): accepted; its base table's read parked; armed; failed with a class and an entry
while the transfers under way finish; over, kept while a notice of it is posted. -/
inductive RunPhase where
  | waiting | armingParked (parkid : BitVec 16) | armed
  | failed (cls entry : Nat)
  | completed
  deriving DecidableEq, Repr

/-- A run of a board (R295 to R297, R304, R313): its RUNSEQ is 0 until it begins to arm. -/
structure Run where
  id       : Nat
  board    : Nat
  queue    : Nat
  base     : W64
  seq      : Nat
  phase    : RunPhase
  entries  : List EntryState
  deriving DecidableEq, Repr

/-- A record of a notice table (R304). -/
structure Notice where
  r   : NoticeRec
  dup : Bool
  deriving DecidableEq, Repr

/-- The leaves that a chunk-buffer region holds (R305 to R311): offset and length in bytes, span. -/
structure Region where
  off : Nat
  len : Nat
  lo  : Nat
  hi  : Nat
  deriving DecidableEq, Repr

/-- A Baru Link port (R315): the attempts of the flit under way, the sequence number expected, whether it is down for
retraining, CPORT_LONGREPLAY; the sequence number that is sent next, the replay buffer, and the packets that wait for room
in it. -/
structure Link where
  attempts : Nat
  expected : Nat
  down     : Bool
  replays  : Nat
  next     : Nat
  buffer   : List (Nat × Packet)
  waiting  : List Packet
  deriving DecidableEq, Repr

/-- An access of another package that waits for its translation here (R319, R326): who made it, where, how many bytes,
and the bytes that it writes. -/
structure FabricReq where
  peer  : Nat
  space : Nat
  addr  : Nat
  count : Nat
  data  : Option (List Byte)
  deriving DecidableEq, Repr

/-- The collective sequencer and the fabric (R293 to R316, R356). -/
structure Coll where
  boards   : FMap Board
  runs     : FMap Run
  nextRun  : Nat
  fireSeq  : Nat
  tables   : FMap (List Notice)
  refused  : FMap Nat
  regions  : List Region
  reduces  : Nat
  checkK   : Nat
  checkEn  : Bool
  dims     : BitVec 12
  pkgid    : BitVec 12
  status   : FMap W64
  links    : FMap Link
  /-- Accesses of other packages that are parked, by number, and the next number. -/
  fabric   : FMap FabricReq
  nextFabric : Nat
  deriving DecidableEq, Repr

/-- A translation held in a TLB (R325): the virtual and the physical 64 KiB page, base and size of the leaf's page, R and
W, and the number of invalidations written before it was read. -/
structure TlbEntry where
  vpage : Nat
  ppage : Nat
  base  : Nat
  size  : Nat
  r     : Bool
  w     : Bool
  epoch : Nat
  deriving DecidableEq, Repr

/-- A pointer held in a walk cache (R325): the level of the entry, the number of its range of virtual addresses at that
level, the table that it points to, and the number of invalidations written before it, or one that led to it, was read. -/
structure WalkEntry where
  level : Nat
  index : Nat
  table : Nat
  epoch : Nat
  deriving DecidableEq, Repr

/-- An invalidation written and not complete (R327): the range, the counter, if one is added to, the epoch it ends. -/
structure Inval where
  all   : Bool
  base  : Nat
  size  : Nat
  ctr   : Option Nat
  epoch : Nat
  deriving DecidableEq, Repr

/-- Translation (R323 to R329, R356); `away` names the parked requests that stand in a saved context and keep their
identity (R330). -/
structure Xlat where
  root   : W64
  tlb    : List TlbEntry
  walks  : List WalkEntry
  epoch  : Nat
  invals : List Inval
  parked : FMap Request
  away   : List Nat
  ring   : Ring
  deriving DecidableEq, Repr

/-- The mode of a parity set (R341). -/
inductive SetMode where
  | healthy | makeGood | unprotected | fenced
  deriving DecidableEq, Repr

/-- A parity set (R339 to R343): its mode, the retired position, MGPTR, SHARE, and the stripes at or above MGPTR that a
write has rebuilt. -/
structure ParitySet where
  mode    : SetMode
  retired : Nat
  mgptr   : Nat
  share   : Nat
  rebuilt : List Nat
  deriving DecidableEq, Repr

/-- Device memory (R332 to R344, R356). -/
structure DevMem where
  pgran       : Nat
  locked      : Bool
  latewr      : Nat
  ready       : Bool
  idle        : Nat
  sets        : FMap ParitySet
  /-- The sets of which every unprotected frame is lost, and those of which every frame is (R339, R343). -/
  unprotLost  : BitVec 32
  lostSets    : BitVec 32
  lostFrames  : List Nat
  /-- Pseudo-channels in self-refresh, and the time of the last request of each (R338). -/
  selfRefresh : List Nat
  lastUse     : FMap Nat
  deriving DecidableEq, Repr

/-- What an engine has done with a job (R347, R348): its elements updated, or its part skipped; stopped at an element
whose translation is parked, with what it has read of its guard and its loss-scale reciprocal; stopped there without an
identity, at the limit of R329. -/
inductive EngineState where
  | updated | skipped
  | parked (element : Nat) (guarded : Option Nat) (parkid : BitVec 16)
  | held (element : Nat) (guarded : Option Nat)
  deriving DecidableEq, Repr

/-- A record or a delivered range in the skim dispatcher's order (R181, R347, R351): the record; the range's run, entry
index, first element, number of elements and chunk-buffer offset; the accesses that its SKIM's release waits for, with
their core; what each engine has done; the blocks quantised, and those whose translation is parked, with its identity; the engines that own its
master values, by 64 KiB page. -/
structure SkimJob where
  id      : Nat
  record  : BitVec 1024
  range   : Option (Nat × Nat × Nat × Nat × Nat)
  waits   : List Nat
  core    : Nat
  engines : FMap EngineState
  blocks  : List Nat
  stuck   : FMap (BitVec 16)
  owners  : FMap Nat
  deriving DecidableEq, Repr

/-- The skim dispatcher and its engines (R347, R348, R356). -/
structure Skim where
  jobs  : List SkimJob
  next  : Nat
  skips : FMap Nat
  flags : FMap Nat
  deriving DecidableEq, Repr

/-- The error log and containment (R362 to R365): its ring; ERR_CLASSCFG; start and count of each source and class; the
actions taken on each unit's ladder; the next SEQ; the rows spared; fenced clusters, ports and ALUs. -/
structure Errors where
  ring     : Ring
  classcfg : FMap W64
  counts   : FMap (Nat × Nat)
  ladder   : FMap Nat
  seq      : Nat
  spares   : FMap Nat
  clusters : BitVec 64
  ports    : BitVec 6
  alus     : BitVec 9
  /-- Dies whose UCIe link cannot be repaired. -/
  dies     : BitVec 4
  deriving DecidableEq, Repr

/-- Where boot stands (R366). -/
inductive BootPhase where
  | running
  /-- Step 2 with BOOTSRC 1: an image is awaited through BOOT_MBOX. -/
  | awaiting
  | ready
  | recovery
  deriving DecidableEq, Repr

/-- Boot, security and the mailbox (R366 to R372). -/
structure Security where
  phase    : BootPhase
  status   : BitVec 8
  bootSrc  : Bool
  meas     : FMap (BitVec 512)
  svns     : FMap W32
  verified : Bool
  policy   : W64
  fired    : BitVec 4
  level    : Nat
  devwin   : W64
  cmd      : Nat
  /-- The command that runs (R369). -/
  running  : Nat
  done     : Bool
  result   : Nat
  lastCmd  : Nat
  len      : Nat
  data     : FMap Byte
  image    : List Byte
  erased   : Bool
  halted   : Bool
  deriving DecidableEq, Repr

/-- Power, clock and the sideband (R373 to R375). -/
structure Power where
  cap       : Nat
  sideCap   : Nat
  step      : Nat
  power     : Nat
  temp      : Nat
  telemetry : FMap Nat
  lowTicks  : Nat
  hot       : Bool
  address   : Option (BitVec 7)
  deriving DecidableEq, Repr

/-- An empty ring: its size resets to 4 (R356). -/
def Ring.start : Ring := { base := 0, n := 4, head := 0, tail := 0, lost := 0, waiting := [] }

/-- A queue after reset (R241). It is disabled until boot is over (R366). -/
def Queue.start : Queue :=
  { kept := 0, concurrent := false, disabled := true, launches := [], items := [], saveBase := 0, ring := Ring.start,
    stray := 0 }

/-- A board that was never loaded. -/
def Board.start : Board := { loaded := false, entries := [], members := [], runseq := 0, owner := none, consumed := [] }

/-- A port that is up. -/
def Link.start : Link :=
  { attempts := 0, expected := 0, down := false, replays := 0, next := 0, buffer := [], waiting := [] }

/-- A healthy parity set: SHARE resets to 4 (R341). -/
def ParitySet.start : ParitySet := { mode := .healthy, retired := 0, mgptr := 0, share := 4, rebuilt := [] }

/-- The scheduler after reset. -/
def Sched.start : Sched :=
  { queues := [], launches := [], nextLaunch := 0, admissions := 0, served := [], reserved := [], deadline := 1000,
    subwinStray := 0, faultArgs := [] }

/-- The sequencer after reset. -/
def Coll.start : Coll :=
  { boards := [], runs := [], nextRun := 0, fireSeq := 0, tables := [], refused := [], regions := [], reduces := 0,
    checkK := 8, checkEn := true, dims := 0, pkgid := 0, status := [], links := [], fabric := [], nextFabric := 0 }

/-- Translation after reset. -/
def Xlat.start : Xlat :=
  { root := 0, tlb := [], walks := [], epoch := 0, invals := [], parked := [], away := [], ring := Ring.start }

/-- Device memory after reset. -/
def DevMem.start : DevMem :=
  { pgran := 0, locked := false, latewr := 0, ready := false, idle := 100000, sets := [], unprotLost := 0, lostSets := 0,
    lostFrames := [], selfRefresh := [], lastUse := [] }

/-- The skim engines after reset. -/
def Skim.start : Skim := { jobs := [], next := 0, skips := [], flags := [] }

/-- The error log after reset. -/
def Errors.start : Errors :=
  { ring := Ring.start, classcfg := [], counts := [], ladder := [], seq := 0, spares := [], clusters := 0, ports := 0,
    alus := 0, dies := 0 }

/-- SEC_POLICY's fused default: erase for tamper, halt for the others (R371). -/
def fusedPolicy : W64 := 0b10111010

/-- The boot and security controller after reset. -/
def Security.start : Security :=
  { phase := .running, status := 0, bootSrc := false, meas := [], svns := [], verified := false, policy := fusedPolicy,
    fired := 0, level := 0, devwin := 0, cmd := 0, running := 0, done := true, result := 0, lastCmd := 0, len := 0, data := [],
    image := [], erased := false, halted := false }

/-- The power manager after reset. -/
def Power.start : Power :=
  { cap := 2400, sideCap := 2400, step := 0, power := 0, temp := 0, telemetry := [], lowTicks := 0, hot := false,
    address := none }

end Sys2Proof.Machine
end

