-- ==== Sys2Proof/Machine/State.lean ====
section
/-! DEFINITION. The state of the machine, which is one package (R14): plain data. What a core holds is in
Machine/CoreState.lean, what the other agents hold in Machine/PackageState.lean. -/

namespace Sys2Proof.Machine

/-- Why the machine stops with a fault. -/
inductive Fault where
  /-- No meaning raises it: the spec gives every step an effect, a trap of the core, a failed request or a discarded
  write. It is kept so that the type has a name for an address that does not exist. Safe. -/
  | noSuchAddress
  deriving DecidableEq, Repr

/-- Why the machine refuses to go on. -/
inductive Refusal where
  /-- Raised by an arm of `exec` that has no meaning yet; the row's mnemonic. Safe. -/
  | notModelled (mnemonic : String)
  deriving DecidableEq, Repr

/-- The state of the package. -/
structure State where
  /-- Every byte of scratchpads, chunk buffers and device memory (R16, R266), keyed as Machine/Ops.lean says. -/
  mem      : List Host.Cell
  cores    : FMap Core
  /-- Event counters (R314). -/
  counters : FMap W64
  /-- EVT_IRQ entries (R358). -/
  irqs     : FMap (BitVec 128)
  /-- The MSI-X table and the pending-bit array by 8-byte offset (R355). -/
  msix     : FMap W64
  /-- Copies accepted and not complete, in the order of acceptance (R166). -/
  copies   : List Copy
  nextCopy : Nat
  nt       : List NtWrite
  /-- Installed groups by number (R245). -/
  groups   : FMap Group
  sched    : Sched
  coll     : Coll
  xl       : Xlat
  dm       : DevMem
  skim     : Skim
  err      : Errors
  sec      : Security
  pow      : Power
  /-- PKG_TIME (R356). -/
  time     : Nat
  /-- The model's own: outputs sent, moves still to come, the core that issues when none is, free values drawn. -/
  out      : List Msg
  agenda   : List Move
  turn     : Nat
  free     : Nat
  deriving DecidableEq, Repr

/-- The package right after reset is released, before boot has run (R356, R366). -/
def State.reset : State :=
  { mem := [], cores := [], counters := [], irqs := [], msix := [], copies := [], nextCopy := 0, nt := [], groups := [],
    sched := Sched.start, coll := Coll.start, xl := Xlat.start, dm := DevMem.start, skim := Skim.start,
    err := Errors.start, sec := Security.start, pow := Power.start, time := 0, out := [], agenda := [], turn := 0,
    free := 0 }

end Sys2Proof.Machine
end

