-- ==== Sys2Proof/Machine/Ops.lean ====
section
/-! DEFINITION. The named operations over the state: sparse arrays, memory, one core and its contexts, special registers,
the capture of results in flight, taking a trap and returning from one (chapters 03 and 10). -/

namespace Sys2Proof

/-! ## Sparse arrays -/

/-- The value at a key, or the default. -/
def FMap.look {α : Type} (d : α) : FMap α → Nat → α
  | [], _ => d
  | (a, v) :: m, k => if a = k then v else if k < a then d else FMap.look d m k

/-- The value at a key, if it is listed. -/
def FMap.find {α : Type} : FMap α → Nat → Option α
  | [], _ => none
  | (a, v) :: m, k => if a = k then some v else if k < a then none else FMap.find m k

/-- Write a key, keeping keys rising. -/
def FMap.put {α : Type} : FMap α → Nat → α → FMap α
  | [], k, v => [(k, v)]
  | (a, w) :: m, k, v => if k < a then (k, v) :: (a, w) :: m else if a = k then (k, v) :: m else (a, w) :: FMap.put m k v

/-- Take a key out. -/
def FMap.drop {α : Type} : FMap α → Nat → FMap α
  | [], _ => []
  | (a, w) :: m, k => if a = k then m else if k < a then (a, w) :: m else (a, w) :: FMap.drop m k

end Sys2Proof

namespace Sys2Proof.Machine

open Sys2Proof.Num

/-! ## Memory (R4, R16, R266)

One list holds every byte of on-package storage and of device memory, each under one key: device memory under its
physical address, the unit scratchpad of core n from 2^40 + n 2^21, the cluster scratchpad of cluster c from
2^41 + c 2^24, the die scratchpad of die d from 2^42 + d 2^27, the chunk buffers from 2^43. An unlisted byte reads 0. -/

/-- What a byte that nothing has written reads as: on-chip SRAM zero after boot (R366); device memory the model's
choice. -/
def unlisted : Byte := 0

/-- One byte of memory. -/
def memByte : List Host.Cell → Nat → Byte
  | [], _ => unlisted
  | (a, v) :: m, k => if a = k then v else if k < a then unlisted else memByte m k

/-- Write one byte; the byte that an unlisted address reads as is not listed. -/
def memSet : List Host.Cell → Nat → Byte → List Host.Cell
  | [], k, v => if v = unlisted then [] else [(k, v)]
  | (a, w) :: m, k, v =>
    if k < a then (if v = unlisted then (a, w) :: m else (k, v) :: (a, w) :: m)
    else if a = k then (if v = unlisted then m else (k, v) :: m)
    else (a, w) :: memSet m k v

/-- The canonical form: keys rising strictly, no byte listed that reads as unlisted. -/
def memWf : List Host.Cell → Bool
  | [] => true
  | [(_, v)] => v != unlisted
  | (a, v) :: (b, w) :: m => v != unlisted && a < b && memWf ((b, w) :: m)

/-- The bytes listed from key `k` for `n`, as a little-endian number (R4). -/
def memRead (m : List Host.Cell) (k n : Nat) : Nat :=
  m.foldl (fun acc c => if k ≤ c.1 ∧ c.1 < k + n then acc + c.2.toNat <<< (8 * (c.1 - k)) else acc) 0

/-- Write the low `n` bytes of a number, little-endian, where the byte enables are set. -/
def memWrite (m : List Host.Cell) (k : Nat) : Nat → Nat → Nat → List Host.Cell
  | 0, _, _ => m
  | n + 1, v, en =>
    memWrite (if en % 2 = 1 then memSet m k (BitVec.ofNat 8 v) else m) (k + 1) n (v / 256) (en / 2)

/-- Every byte enable. -/
def allBytes (n : Nat) : Nat := 2 ^ n - 1

def unitKey (core : Nat) : Nat := 2 ^ 40 + core * 2 ^ 21
def clusterKey (cluster : Nat) : Nat := 2 ^ 41 + cluster * 2 ^ 24
def dieKey (die : Nat) : Nat := 2 ^ 42 + die * 2 ^ 27
def chunkKey : Nat := 2 ^ 43

/-- The size of the unit scratchpad (R16). -/
def unitSize : Nat := 2 ^ 21

/-- Read `n` bytes of the machine's memory. -/
def State.read (s : State) (k n : Nat) : Nat := memRead s.mem k n

/-- Write `n` bytes of the machine's memory. -/
def State.write (s : State) (k n v : Nat) : State := { s with mem := memWrite s.mem k n v (allBytes n) }

/-- Write under byte enables. -/
def State.writeEn (s : State) (k n v en : Nat) : State := { s with mem := memWrite s.mem k n v en }

/-! ## Cores (R14) -/

def coreCount : Nat := 1024
/-- The cluster of a core. -/
def clusterOf (core : Nat) : Nat := core / 16
/-- The die of a core. -/
def dieOf (core : Nat) : Nat := core / 256

/-- A core; one that the state does not list is as after reset. -/
def State.core (s : State) (n : Nat) : Core := s.cores.look Core.start n

/-- Replace a core. -/
def State.setCore (s : State) (n : Nat) (c : Core) : State := { s with cores := s.cores.put n c }

/-- Change a core. -/
def State.modCore (s : State) (n : Nat) (f : Core → Core) : State := s.setCore n (f (s.core n))

/-- Whether a core executes in supervisor mode. -/
def Core.inSup (c : Core) : Bool := c.mode == .supervisor

/-- The context that the core executes in (R200). -/
def Core.ctx (c : Core) : Ctx := if c.inSup then c.sup else c.prog

/-- Replace the context that the core executes in. -/
def Core.setCtx (c : Core) (x : Ctx) : Core := if c.inSup then { c with sup := x } else { c with prog := x }

/-- The executing context of core `n`. -/
def State.ctx (s : State) (n : Nat) : Ctx := (s.core n).ctx

/-- Change the executing context of core `n`. -/
def State.modCtx (s : State) (n : Nat) (f : Ctx → Ctx) : State := s.modCore n (fun c => c.setCtx (f c.ctx))

/-! ## Scalar registers and predicates (R56, R188, R209) -/

/-- A scalar register; s0 reads zero. -/
def Ctx.sreg (x : Ctx) (r : Nat) : W64 := if r = 0 then 0 else x.s.look 0 r

/-- Write a scalar register; s0 discards. The full/empty bit is not touched: a variable-latency result that is still
outstanding keeps the register empty (R187). -/
def Ctx.setSreg (x : Ctx) (r : Nat) (v : W64) : Ctx := if r = 0 then x else { x with s := x.s.put r v }

/-- Mark a scalar register full. -/
def Ctx.setFull (x : Ctx) (r : Nat) : Ctx := { x with empty := x.empty &&& ~~~(BitVec.ofNat 64 (2 ^ r)) }

/-- Whether a scalar register is empty; s0 never is. -/
def Ctx.isEmpty (x : Ctx) (r : Nat) : Bool := r != 0 && x.empty.getLsbD r

/-- Mark a scalar register empty. -/
def Ctx.setEmpty (x : Ctx) (r : Nat) : Ctx :=
  if r = 0 then x else { x with empty := x.empty ||| BitVec.ofNat 64 (2 ^ r) }

/-- A predicate; p0 reads 1. -/
def Ctx.pred (x : Ctx) (i : Nat) : Bool := i == 0 || x.p.getLsbD i

/-- Write a predicate; p0 discards. -/
def Ctx.setPred (x : Ctx) (i : Nat) (v : Bool) : Ctx :=
  if i = 0 then x
  else
    let m := BitVec.ofNat 16 (2 ^ i)
    { x with p := if v then x.p ||| m else x.p &&& ~~~m }

/-! ## Special registers (R72, R74) -/

namespace SR
def lc (l : Nat) : Nat := 0x08 + l
def ls (l : Nat) : Nat := 0x10 + l
def le (l : Nat) : Nat := 0x18 + l
def ldepth : Nat := 0x1E
def tagmap : Nat := 0x20
def tagerr : Nat := 0x21
def fpflags : Nat := 0x28
def fpenable : Nat := 0x29
def fpctl : Nat := 0x2A
def accflags : Nat := 0x2B
def trapcause : Nat := 0x30
def trappc : Nat := 0x31
def trapinfo : Nat := 0x32
def ptvec : Nat := 0x33
def stipseed : Nat := 0x38
def stipstream : Nat := 0x39
def cycles : Nat := 0x3C
def issues : Nat := 0x3D
def launchid : Nat := 0x40
def stepidx : Nat := 0x41
def handles : Nat := 0x42
end SR

/-- A special register of a context, identity registers and handles apart. -/
def Ctx.spec (x : Ctx) (n : Nat) : W64 := x.sr.look 0 n

/-- Put a special register as it is, without the masks of a write. -/
def Ctx.putSpec (x : Ctx) (n : Nat) (v : W64) : Ctx := { x with sr := x.sr.put n v }

/-- What a register keeps of a value written to it: reserved bits are dropped, and a write of 110 or 111 to fpctl stores
000 (R71, R74). -/
def specMask (n : Nat) (v : W64) : W64 :=
  if n = SR.fpflags ∨ n = SR.fpenable then v &&& 0x3F
  else if n = SR.fpctl then (if 6 ≤ v.toNat % 8 then 0 else v &&& 7)
  else if n = SR.accflags then v &&& 0xF
  else if n = SR.stipstream then v &&& 0xFFFFF
  else if n = SR.ldepth then v &&& 7
  else if n = SR.trapcause then v &&& 0x3FFFFF
  else v

/-- Write a special register (R71). -/
def Ctx.setSpec (x : Ctx) (n : Nat) (v : W64) : Ctx := x.putSpec n (specMask n v)

/-- The registers whose Access is R (R72). -/
def specReadOnly (n : Nat) : Bool :=
  n ≤ 3 || n == SR.tagmap || n == SR.tagerr || n == SR.trapcause || n == SR.trapinfo || n == SR.cycles ||
  n == SR.issues || 0x40 ≤ n

/-- OR flags into fpflags. -/
def Ctx.orFlags (x : Ctx) (f : Nat) : Ctx :=
  if f = 0 then x else x.putSpec SR.fpflags (x.spec SR.fpflags ||| BitVec.ofNat 64 f)

/-- OR flags into accflags. -/
def Ctx.orAcc (x : Ctx) (f : Nat) : Ctx :=
  if f = 0 then x else x.putSpec SR.accflags (x.spec SR.accflags ||| BitVec.ofNat 64 f)

/-- Count one cycle, in program mode (R207). -/
def Core.countCycle (c : Core) : Core :=
  if c.inSup then c else { c with prog := c.prog.putSpec SR.cycles (c.prog.spec SR.cycles + 1) }

/-- Count one issue, in program mode (R207), and since a handler's entry (R199). -/
def Core.countIssue (c : Core) : Core :=
  if c.inSup then c
  else { c with prog := c.prog.putSpec SR.issues (c.prog.spec SR.issues + 1),
                handlerIssues := if c.progBank.isSome then c.handlerIssues + 1 else c.handlerIssues }

/-! ## Traps (R80, R192, R194 to R202) -/

/-- A trap: its class, number, whether it is a system trap, and trapinfo. -/
structure Trap where
  cls  : Nat
  num  : Nat
  sys  : Bool
  info : W64
  deriving DecidableEq, Repr

/-- trapcause of a trap whose bundle resumes at repetition `rep` (R74). -/
def Trap.cause (t : Trap) (rep : Nat) : W64 :=
  BitVec.ofNat 64 (rep % 64 * 2 ^ 16 + t.sys.toNat * 2 ^ 15 + t.cls % 128 * 2 ^ 8 + t.num % 256)

/-- The address-space fault (R85, R192). -/
def addrFault (num : Nat) (info : W64) : Trap := ⟨17, num, true, info⟩
/-- The privilege trap (R192). -/
def privFault (num : Nat) : Trap := ⟨18, num, true, 0⟩
/-- LOVF (R74, R192). -/
def lovf (num : Nat) : Trap := ⟨1, num, false, 0⟩
/-- The illegal-bundle trap (R48, R192). -/
def illegalTrap (e : Illegal) : Trap := ⟨16, 0, true, e.info⟩

/-- Write trapcause, trappc and trapinfo into a context. -/
def Ctx.noteTrap (x : Ctx) (t : Trap) (pc : W64) (rep : Nat) : Ctx :=
  ((x.putSpec SR.trapcause (t.cause rep)).putSpec SR.trappc pc).putSpec SR.trapinfo t.info

/-- The phase of a beat within its issue: zeroing, contribution, writes (R160). -/
def beatPhase (w : W64) : Nat :=
  match w.toNat >>> 57 with
  | 6 | 7 | 8 => 0
  | 4 | 5 => 1
  | _ => 2

/-- The order of a result within its issue: slot (R186); a beat of the M slot by the phase of R160, in which a re-injected
beat follows the others of its phase alone (R205). -/
def Flight.rank (f : Flight) : Nat :=
  match f.eff with
  | .beat b => f.slot * 8 + beatPhase b.word * 2 + f.late.toNat
  | _ => f.slot * 8 + 7

/-- A re-injected or held result other than a beat: it lands after all that land at its issue (R195). -/
def Flight.trails (f : Flight) : Bool :=
  match f.eff with
  | .beat _ => false
  | _ => f.late

/-- Insert a result by rank, after those of equal rank. -/
def insertRank (f : Flight) : List Flight → List Flight
  | [] => [f]
  | g :: gs => if f.rank < g.rank then f :: g :: gs else g :: insertRank f gs

/-- The results of one issue in landing order: by rank, those of equal rank as they stand; the trailing ones at the end
(R186, R195). -/
def landingOrder (fs : List Flight) : List Flight :=
  (fs.filter (fun f => !f.trails)).foldl (fun l f => insertRank f l) [] ++ fs.filter (·.trails)

/-- The bank that the results in flight and the sticky words make (R194, R197): results of one issue stand in the order
in which they would have landed. -/
def Ctx.bank (x : Ctx) : Bank := ⟨landingOrder x.flight, x.sticky⟩

/-- Enter the program handler (R197): freeze the program bank, note the trap, clear the sticky words, go to ptvec. -/
def Core.enterHandler (c : Core) (t : Trap) (pc : W64) (rep : Nat) : Core :=
  let x := c.prog.noteTrap t pc rep
  { c with progBank := some c.prog.bank, handlerIssues := 0,
           prog := { x with sticky := [], flight := [], pc := c.prog.spec SR.ptvec, rep := 0, cur := none } }

/-- Stop for a system trap (R200, R202): freeze the system bank and the program's place, note the trap in the
supervisor's copies, and wait to enter supervisor mode. -/
def Core.stopForSystem (c : Core) (t : Trap) (pc : W64) (rep : Nat) : Core :=
  { c with mode := .trapping, sysBank := some c.prog.bank, loadedBeats := none, reloaded := false,
           prog := { c.prog with flight := [], pc := pc, rep := rep, cur := none },
           sup := c.sup.noteTrap t pc rep }

/-- The double trap that a further trap of a handler raises (R192, R198). -/
def Trap.doubled (t : Trap) (rep : Nat) : Trap := ⟨21, 0, true, t.cause rep &&& 0xFFFF⟩

/-- Taking a trap in program mode: the one operation behind every trap. `pc` and `rep` are trappc and RESREP. -/
def Core.takeTrap (c : Core) (t : Trap) (pc : W64) (rep : Nat) : Core :=
  if c.progBank.isSome then c.stopForSystem (t.doubled rep) pc rep
  else if t.sys then c.stopForSystem t pc rep
  else c.enterHandler t pc rep

/-- The entries of a bank put back into flight, after every other landing of their issues (R195). -/
def Bank.reinject (b : Bank) : List Flight := b.entries.map (fun f => { f with late := true })

/-- What a handler has left outstanding is, once it has returned, as what was issued before any later trap (R187, R198). -/
def Core.forgetHandler (c : Core) : Core :=
  { c with lent := c.lent.map (fun r => { r with handler := false }),
           loadErrors := c.loadErrors.map (fun e => { e with handler := false }),
           prog := { c.prog with racc := c.prog.racc.map (fun r => { r with handler := false }),
                                 vars := c.prog.vars.map (fun v => { v with handler := false }) } }

/-- Return from the program handler (R81, R197). -/
def Core.leaveHandler (c : Core) (b : Bank) : Core :=
  let c := c.forgetHandler
  let x := c.prog
  { c with progBank := none,
           prog := { x with sticky := b.stickies, flight := x.flight ++ b.reinject, pc := x.spec SR.trappc,
                            rep := (fld 6 (x.spec SR.trapcause) 16).toNat, cur := none } }

/-- Return from supervisor mode (R81): the frozen program resumes at the supervisor's trappc and RESREP, or at the place
that SVLOAD of part 0 has loaded. -/
def Core.leaveSupervisor (c : Core) : Core :=
  let x := c.prog
  let fl := match c.sysBank with
    | some b => b.reinject
    | none => []
  { c with mode := .program, sysBank := none, loadedBeats := none,
           prog := { x with flight := x.flight ++ fl, cur := none,
                            pc := if c.reloaded then x.pc else c.sup.spec SR.trappc,
                            rep := if c.reloaded then x.rep else (fld 6 (c.sup.spec SR.trapcause) 16).toNat } }

end Sys2Proof.Machine
end

