-- ==== Sys2Proof/Machine/Operands.lean ====
section
/-! DEFINITION. Operands: elements and lines of the matrix register file (R10, R29 to R31), lane masks (R108), stream
ports (R99 to R102), what a slot reads and writes, and whether it is empty (R187, R188). -/

namespace Sys2Proof.Machine

open Sys2Proof.Num

/-! ## Elements (R10) -/

/-- The `n` lowest fields of `w` bits of a number, lowest first. -/
def splitBits (w : Nat) : Nat → Nat → List Nat
  | 0, _ => []
  | n + 1, x => x % 2 ^ w :: splitBits w n (x >>> w)

/-- The number whose fields of `w` bits are a list, lowest first. -/
def joinBits (w : Nat) : List Nat → Nat
  | [] => 0
  | x :: xs => x + joinBits w xs <<< w

/-- The elements of a line of a type of width `w` (R10, R108). -/
def lineElems (w : Nat) (l : Line) : List Nat := splitBits w (4096 / w) l.toNat

/-- The line with given elements. -/
def lineOf (w : Nat) (xs : List Nat) : Line := BitVec.ofNat 4096 (joinBits w xs)

/-- One element of a line. -/
def lineElem (w : Nat) (l : Line) (j : Nat) : Nat := l.toNat >>> (w * j) % 2 ^ w

/-- Enables of `w` bits an element from a list of activities. -/
def enableOf (w : Nat) (act : List Bool) : Line :=
  lineOf w (act.map (fun b => if b then 2 ^ w - 1 else 0))

/-- Every bit of a line. -/
def fullLine : Line := BitVec.allOnes 4096

/-! ## Tile lines (R10, R29, R31) -/

/-- Tile of a specifier. -/
def specTileNo (s : BitVec 13) : Nat := s.toNat >>> 7 % 8

/-- Row and column of lane `i` of a line; `ad` names the anti-diagonal. -/
def laneCell (s : BitVec 13) (ad : Bool) (i : Nat) : Nat × Nat :=
  let d := specIndex s
  match specKind s with
  | 0 => (d, i)
  | 1 => (i, d)
  | _ => if ad then (i, (d + 128 - i) % 128) else (i, (i + d) % 128)

/-- The key of a row of a tile. -/
def rowKey (tile row : Nat) : Nat := tile * 128 + row

/-- One cell of a tile. -/
def cellOf (t : FMap Line) (tile : Nat) (rc : Nat × Nat) : Nat :=
  (t.look 0 (rowKey tile rc.1)).toNat >>> (32 * rc.2) % 2 ^ 32

/-- The lanes in order. -/
def lanes : List Nat := List.range 128

/-- Read a tile line. -/
def tileLine (t : FMap Line) (s : BitVec 13) (ad : Bool) : Line :=
  if specKind s = 0 then t.look 0 (rowKey (specTileNo s) (specIndex s))
  else lineOf 32 (lanes.map (fun i => cellOf t (specTileNo s) (laneCell s ad i)))

/-- Write bits of a row. -/
def putRow (t : FMap Line) (k : Nat) (en data : Line) : FMap Line :=
  if en = 0 then t else t.put k ((t.look 0 k &&& ~~~en) ||| (data &&& en))

/-- Write the enabled bits of a tile line. -/
def putTileLine (t : FMap Line) (s : BitVec 13) (ad : Bool) (en data : Line) : FMap Line :=
  if specKind s = 0 then putRow t (rowKey (specTileNo s) (specIndex s)) en data
  else
    lanes.foldl (fun t i =>
      let rc := laneCell s ad i
      let sh := 32 * rc.2
      putRow t (rowKey (specTileNo s) rc.1) (BitVec.ofNat 4096 (lineElem 32 en i <<< sh))
        (BitVec.ofNat 4096 (lineElem 32 data i <<< sh))) t

/-- The empty bits of the lanes of a tile line. -/
def lineEmpties (e : FMap (BitVec 128)) (s : BitVec 13) (ad : Bool) : List Bool :=
  lanes.map (fun i =>
    let rc := laneCell s ad i
    (e.look 0 (rowKey (specTileNo s) rc.1)).getLsbD rc.2)

/-- Whether any cell of a tile line is empty (R188). -/
def lineIsEmpty (e : FMap (BitVec 128)) (s : BitVec 13) (ad : Bool) : Bool :=
  if e.isEmpty then false else (lineEmpties e s ad).any id

/-- Mark lanes of a tile line empty or full. -/
def markLanes (e : FMap (BitVec 128)) (s : BitVec 13) (ad : Bool) (ls : List Nat) (empty : Bool) :
    FMap (BitVec 128) :=
  ls.foldl (fun e i =>
    let rc := laneCell s ad i
    let k := rowKey (specTileNo s) rc.1
    let m := BitVec.ofNat 128 (2 ^ rc.2)
    let v := e.look 0 k
    let v' := if empty then v ||| m else v &&& ~~~m
    if v' = 0 then e.drop k else e.put k v') e

/-- The specifier's lines: itself and the `n - 1` after it (R126, R137). -/
def specLines (s : BitVec 13) (n : Nat) : List (BitVec 13) := (List.range n).map (specAdvance s)

/-! ## Lane masks (R108) -/

/-- A lane mask; k0 reads all ones. -/
def Core.mask (c : Core) (k : Nat) : Mask := if k = 0 then BitVec.allOnes 512 else c.k.look 0 k

/-- Write enabled bits of a lane mask; k0 discards. -/
def Core.setMask (c : Core) (k : Nat) (v en : Mask) : Core :=
  if k = 0 then c else { c with k := c.k.put k ((c.k.look 0 k &&& ~~~en) ||| (v &&& en)) }

/-- MaskBit for elements of width `w`: the bit of the byte that holds the element's lowest bit. -/
def maskBits (m : Mask) (w : Nat) : List Bool := (List.range (4096 / w)).map (fun j => m.getLsbD (j * w / 8))

/-! ## Stream ports (R99 to R102) -/

/-- Port numbers: 0 to 7 read ports, 8 to 11 write ports. -/
def Core.port (c : Core) (p : Nat) : Port := c.ports.look Port.start p

/-- A dword of a record of `n` bits, by byte offset. -/
def recDword {n : Nat} (r : BitVec n) (off : Nat) : W64 := BitVec.ofNat 64 (r.toNat >>> (8 * off))

/-- A field of `n` bits of a record, by byte offset and bit. -/
def recField {m : Nat} (r : BitVec m) (off lo n : Nat) : Nat := r.toNat >>> (8 * off + lo) % 2 ^ n

/-- COUNT of a level of a port record. -/
def portCount (r : BitVec 512) (l : Nat) : Nat := recField r (8 + 4 * l) 0 32

/-- STRIDE of a level. -/
def portStride (r : BitVec 512) (l : Nat) : Int := signExt (recField r (24 + 4 * l) 0 32) 32

/-- The lines of a walk. -/
def portTotal (r : BitVec 512) : Nat := portCount r 0 * portCount r 1 * portCount r 2 * portCount r 3

/-- Whether a record selects the indexed mode. -/
def portIndexed (r : BitVec 512) : Bool := recField r 40 0 2 == 1

/-- The address of line `n` of a walk, level 0 fastest (R99). -/
def portAddr (r : BitVec 512) (n : Nat) : Int :=
  let c0 := portCount r 0; let c1 := portCount r 1; let c2 := portCount r 2
  (recField r 0 0 64 : Int) + (n % c0 : Nat) * portStride r 0 + (n / c0 % c1 : Nat) * portStride r 1 +
    (n / (c0 * c1) % c2 : Nat) * portStride r 2 + (n / (c0 * c1 * c2) : Nat) * portStride r 3

/-- A line address of the unit scratchpad: 64-byte aligned, its 512 bytes inside (R100). -/
def unitLineOk (a : Int) : Bool := 0 ≤ a && a % 64 == 0 && a + 512 ≤ unitSize

/-- Whether a port's walk yields no further line. -/
def Port.exhausted (p : Port) : Bool := p.rows.isEmpty && p.taken ≥ portTotal p.record

/-- Whether bytes of the unit scratchpad lie in a region that is lent (R104). -/
def Core.isLent (c : Core) (off n : Nat) : Bool :=
  c.lent.any (fun r => off < r.base + 4096 * r.size && r.base < off + n)

/-- The address of the line that a read port's generator takes next: a row of the index line at hand, or the next line of
the walk. -/
def Port.nextAddr (p : Port) : Int :=
  match p.rows with
  | off :: _ => (recField p.record 48 0 64 : Int) + off
  | [] => portAddr p.record p.taken

/-- NUM of the fault of a line at an address: 7 when it may not stand there, 4 when it is lent (R85, R100). For the row of an
indexed walk R101 names the fault and no NUM: that it is 7, as of any other line of a walk, is DESIGN CHOICE (log 53). -/
def Core.lineFault (c : Core) (a : Int) : Option Nat :=
  if !unitLineOk a then some 7 else if c.isLent a.toNat 512 then some 4 else none

/-- The fault at which a read port's generator stops, if it stops (R100, R101). -/
def Core.portStop (c : Core) (p : Port) : Option Nat :=
  if p.exhausted then none else c.lineFault p.nextAddr

/-- Pop `n` lines. -/
def Port.pop (p : Port) (n : Nat) : Port := { p with queue := p.queue.drop n }

/-- Replace a port. -/
def Core.setPort (c : Core) (p : Nat) (q : Port) : Core := { c with ports := c.ports.put p q }

/-! ## What a slot reads (R29, R30, R189) -/

/-- A source of an operation, in the order of its fields in the word: a scalar register, or a line of `n` lines of a
type width, which pops a port unless `keep`. -/
inductive SrcRef where
  | reg (r : Nat) (fe : Bool)
  | line (spec : BitVec 13) (n w : Nat) (ad keep : Bool)
  deriving DecidableEq, Repr

/-- A destination that is tested at issue (R187): a scalar register, consecutive lines, a predicate that a group load may
still write. -/
inductive DstRef where
  | reg (r : Nat)
  | line (spec : BitVec 13) (n : Nat) (ad : Bool)
  | pred (p : Nat)
  deriving DecidableEq, Repr

/-- The scalar source of a field. -/
def srcRef (s : Src) : SrcRef := .reg s.r.toNat s.fe

/-- A line source of one line. -/
def lineRef (s : BitVec 13) (w : Nat) : SrcRef := .line s 1 w false false

/-- The read port that a source specifier names. -/
def specPort (s : BitVec 13) : Option Nat :=
  if !specTile s && specLow s ≤ 7 then some (specLow s) else none

/-- The scalar register that a broadcast specifier names. -/
def specBroadcast (s : BitVec 13) : Option Nat :=
  if !specTile s && 0x40 ≤ specLow s && specLow s ≤ 0x7F then some (specLow s - 0x40) else none

/-- The write port that a destination specifier names (8 to 11). -/
def specWrite (s : BitVec 13) : Option Nat :=
  if !specTile s && specLow s ≤ 3 then some (8 + specLow s) else none

/-- The port that a source reads. -/
def SrcRef.readPort : SrcRef → Option Nat
  | .reg .. => none
  | .line s _ _ _ _ => specPort s

/-- The ports that a list of sources pops, in order. -/
def popsOf (l : List SrcRef) : List Nat :=
  l.filterMap (fun r => match r with
    | .reg .. => none
    | .line s _ _ _ keep => if keep then none else specPort s)

/-- What an operation does with buffer handles: it lends a region (base, size in 4 KiB units, peer), takes an offer into a
slot, or gives a slot back. -/
inductive HandleUse where
  | give (base size peer : Nat)
  | take (slot : Nat)
  | back (slot : Nat)
  deriving DecidableEq, Repr

/-- What an operation knows at its issue: the core, the slot, the word as executed, the state as it stood before the
bundle and after the landings of its issue (R12), the header's address, the ports popped and pushed by lower slots. -/
structure Env where
  core   : Nat
  slot   : Nat
  word   : W64
  s      : State
  pc     : W64
  popped : List Nat
  pushed : List Nat
  /-- What the lower slots of the bundle do with buffer handles (R104 to R106). -/
  lower  : List HandleUse := []

/-- The core as read. -/
def Env.c (v : Env) : Core := v.s.core v.core
/-- The context as read. -/
def Env.x (v : Env) : Ctx := v.s.ctx v.core
/-- A scalar register as read. -/
def Env.reg (v : Env) (r : BitVec 6) : W64 := v.x.sreg r.toNat
/-- A scalar source as read. -/
def Env.src (v : Env) (s : Src) : W64 := v.reg s.r

/-- The whole register in every group of `w` bits (R30). -/
def broadcast (w : Nat) (x : W64) : Line := lineOf w (List.replicate (4096 / w) (x.toNat % 2 ^ w))

/-- A source line as read; `nth` counts the pops of the same port by this operation's earlier sources. -/
def Env.line (v : Env) (s : BitVec 13) (w nth : Nat) : Line :=
  if specTile s then tileLine v.c.tiles s false
  else match specPort s, specBroadcast s with
    | some p, _ => (v.c.port p).queue.getD ((v.popped.filter (· == p)).length + nth) 0
    | none, some r => broadcast w (v.x.sreg r)
    | none, none => 0

/-- The second source line of a word: the port's next line when both sources name one port (R102). -/
def Env.line2 (v : Env) (s1 s2 : BitVec 13) (w : Nat) : Line :=
  v.line s2 w (if specPort s1 = specPort s2 then 1 else 0)

/-- Whether a source is empty (R188), the ports popped so far given. -/
def srcEmpty (c : Core) (popped : List Nat) (r : SrcRef) : Bool :=
  match r with
  | .reg n _ => c.ctx.isEmpty n
  | .line s n _ ad _ =>
    if specTile s then (specLines s n).any (fun l => lineIsEmpty c.cellEmpty l ad)
    else match specPort s, specBroadcast s with
      | some p, _ =>
        let q := c.port p
        q.conf && q.queue.length ≤ (popped.filter (· == p)).length && !q.exhausted &&
          (c.portStop q).isNone
      | none, some b => c.ctx.isEmpty b
      | none, none => false

/-- FE of a source. -/
def SrcRef.fe : SrcRef → Bool
  | .reg _ fe => fe
  | .line s _ _ _ _ => specFe s

/-- RKIND and REG of the full/empty trap (R190). -/
def SrcRef.info : SrcRef → Nat
  | .reg r _ => r
  | .line s _ _ _ _ =>
    match specPort s, specBroadcast s with
    | some p, _ => 2 * 2 ^ 16 + p
    | none, some r => 3 * 2 ^ 16 + r
    | none, none => 1 * 2 ^ 16 + s.toNat % 4096

/-- The first empty source of one FE value, with its position. -/
def firstEmpty (c : Core) (fe : Bool) : List Nat → Nat → List SrcRef → Option (Nat × SrcRef)
  | _, _, [] => none
  | popped, i, r :: rs =>
    if srcEmpty c popped r && r.fe == fe then some (i, r)
    else firstEmpty c fe (popped ++ popsOf [r]) (i + 1) rs

/-- The fault of a pop, if it faults (R100, R102): unconfigured or exhausted 0x06, a line that may not
stand where the walk places it 0x07. -/
def popFault (c : Core) : List Nat → List SrcRef → Option Trap
  | _, [] => none
  | popped, r :: rs =>
    match r.readPort with
    | none => popFault c popped rs
    | some p =>
      let q := c.port p
      if q.conf && (popped.filter (· == p)).length < q.queue.length then popFault c (popped ++ popsOf [r]) rs
      else some (addrFault (if q.conf then (c.portStop q).getD 6 else 6) (BitVec.ofNat 64 p))

/-- The fault of a push to write port `p` (8 to 11), the pushes of lower slots given (R100, R102). -/
def pushFault (c : Core) (pushed : List Nat) (p : Nat) : Option Trap :=
  let q := c.port p
  let n := q.pushed + (pushed.filter (· == p)).length
  if !q.conf || portTotal q.record ≤ n then some (addrFault 6 (BitVec.ofNat 64 p))
  else (c.lineFault (portAddr q.record n)).map (fun k => addrFault k (BitVec.ofNat 64 p))

/-- The lines that a write port awaits of memory: of loads, and of group loads. -/
def Core.linesAwaited (c : Core) (p : Nat) : Nat :=
  (c.prog.racc.filter (fun r => match r.dst with
    | .line spec _ _ _ _ _ => specWrite spec == some p
    | _ => false)).length +
  (c.prog.vars.filter (fun v => match v.kind with
    | .gload _ _ _ _ (some spec) _ _ _ _ _ _ => specWrite spec == some p
    | _ => false)).length

/-- Whether a write port's queue has no room for one more push: eight lines stand in it, or are awaited of memory or
pushed by lower slots. A push of fixed latency that has not landed stands in no queue, or a stall for it, in which no issue
counts (R7), would not end: it waits for its room at its landing (`Core.landFull`). -/
def pushFull (c : Core) (pushed : List Nat) (p : Nat) : Bool :=
  8 ≤ (c.port p).queue.length + c.linesAwaited p + (pushed.filter (· == p)).length

/-! ## Results -/

/-- A fixed-latency result of `l` issues: it lands `l - 1` issues after the next one. -/
def flightOf (e : Eff) (l slot flags : Nat) (site : Option W64 := none) : Flight := ⟨e, l - 1, slot, false, flags, site⟩

/-- Schedule a result of core `n` (R7). -/
def State.land (s : State) (n : Nat) (f : Flight) : State :=
  s.modCtx n (fun x => { x with flight := x.flight ++ [f] })

/-- Land a value in a scalar register. -/
def Env.landReg (v : Env) (s : State) (r : BitVec 6) (d : W64) (l flags : Nat) (site : Option W64 := none) : State :=
  s.land v.core (flightOf (.sreg r.toNat d) l v.slot flags site)

/-- Land a predicate. -/
def Env.landPred (v : Env) (s : State) (p : BitVec 4) (d : Bool) (l flags : Nat) : State :=
  s.land v.core (flightOf (.pred p.toNat d) l v.slot flags)

/-- Land a line result: tile lines under bit enables; a whole line pushed to a write port, zero where not enabled; or
nothing but flags into the discard (R30, R109). That XAMAX and XSCALE, which write part of a line, push a line that is zero
beside their results is DESIGN CHOICE (log 56): R138 and R139 speak of a line that keeps its other elements. -/
def Env.landLines (v : Env) (s : State) (spec : BitVec 13) (en : Line) (data : List Line) (l flags : Nat)
    (site : Option W64 := none) : State :=
  if specTile spec then s.land v.core (flightOf (.lines spec en data) l v.slot flags site)
  else match specWrite spec with
    | some p =>
      (s.land v.core (flightOf (.push (p - 8) (data.headD 0 &&& en)) l v.slot flags site)).modCore v.core (fun c =>
        c.setPort p { c.port p with pushed := (c.port p).pushed + 1 })
    | none => s.land v.core (flightOf .void l v.slot flags site)

end Sys2Proof.Machine
end

