-- ==== Sys2Proof/Config.lean ====
section
/-! DEFINITION. What an implementation fixes and the free values: constants without a body, of which nothing can be
proved. Each is named in a row of notes/assumptions. -/

namespace Sys2Proof.Config

/-- The launchid that the scheduler assigns at its n-th free value (R249, R72: no value is stated). -/
opaque launchId : Nat → W64

/-- A candidate for the identity of a parked request (R328: no numbering is stated). -/
opaque parkId : Nat → BitVec 16

/-- Which of several translations or instruction words that may stand in a cache is used (R325, R327, R49, R208). -/
opaque staleChoice : Nat → Nat

/-- A dword read from the device memory of another package (R319: that memory is outside the model). -/
opaque remoteData : Nat → W64

/-- A byte read where the spec states no value. -/
opaque freeByte : Nat → Byte

/-- The 32 bytes of randomness that a signature draws (R370: FIPS 204 lets them be any). -/
opaque signingNoise : Nat → BitVec 256

/-- The fused key slots: SHAKE256 digests of the accepted public keys (R367). -/
opaque fusedKey : Nat → BitVec 512

/-- Whether a fused key slot is revoked (R367). -/
opaque keyRevoked : Nat → Bool

/-- The fused minimum security version number (R367). -/
opaque minSvn : Nat

/-- The fused device serial (R370). -/
opaque serial : List Byte

/-- The fused unique seed of 32 bytes (R368). -/
opaque identitySeed : BitVec 256

/-- The static I3C address taken from straps (R375). -/
opaque strapAddress : BitVec 7

/-- Spare rows left of a unit that a row-spare action uses up (R364: no number is stated). -/
opaque spareRows : Nat → Nat

/-- Whether a Baru Link flit's CRC-32 holds after Reed-Solomon correction (R315: neither polynomial is stated). -/
opaque flitGood : List Byte → Bool

/-- The 12-bit sequence number that a flit's header carries (R315: its place in bytes 0 to 7 is not stated). -/
opaque flitSequence : List Byte → Nat

/-- What the header's channel and type and the payload of a flit that is taken at a port bring (R315: neither the places in
the header nor the layout of a payload is stated). -/
opaque flitBrings : Nat → List Byte → Option Machine.Move

end Sys2Proof.Config
end

