-- ==== Sys2Proof/Machine/Translate.lean ====
section
/-! DEFINITION. The translation of device addresses (R323 to R327, R332, R333, R344). -/

namespace Sys2Proof.Machine

/-! ## Physical device memory (R332, R333) -/

/-- Granules of the unprotected region. -/
def unprotectedGranules (pgran : Nat) : Nat := 384 - 16 * pgran / 15

/-- The first physical address out of range (R332). -/
def State.deviceEnd (s : State) : Nat := 2 ^ 30 * (s.dm.pgran + unprotectedGranules s.dm.pgran)

/-- The parity set of a physical address (R333). -/
def State.setOf (s : State) (pa : Nat) : Nat :=
  let a := if pa < 2 ^ 30 * s.dm.pgran then pa else pa - 2 ^ 30 * s.dm.pgran
  let f := a / 65536
  (f % 32) ^^^ (f / 32 % 32) ^^^ (f / 1024 % 32)

/-- The set-local line of a physical address (R333). -/
def State.setLine (s : State) (pa : Nat) : Nat :=
  let a := if pa < 2 ^ 30 * s.dm.pgran then pa else pa - 2 ^ 30 * s.dm.pgran
  1024 * (a / 65536 / 32) + a / 64 % 1024

/-- A parity set. -/
def State.pset (s : State) (i : Nat) : ParitySet := s.dm.sets.look ParitySet.start i

/-- The position in its set of the line of a physical address (R334). -/
def State.positionOf (s : State) (pa : Nat) : Nat :=
  let m := s.setLine pa
  if pa < 2 ^ 30 * s.dm.pgran then
    let j := m % 15
    let p := m / 15 % 16
    let q := if p ≤ j then j + 1 else j
    let t := s.pset (s.setOf pa)
    if t.mode != .healthy && q == t.retired then p else q
  else m % 16

/-- The location in its pseudo-channel of the line of a physical address (R332, R334). -/
def State.locationOf (s : State) (pa : Nat) : Nat :=
  let m := s.setLine pa
  if pa < 2 ^ 30 * s.dm.pgran then m / 15 else 32768 * (16 * s.dm.pgran / 15) + m / 16

/-- The pseudo-channel of a physical address, counted over the package (R331). -/
def State.channelOf (s : State) (pa : Nat) : Nat := 16 * s.setOf pa + s.positionOf pa

/-- Whether a stripe of a set in make-good counts as rebuilt (R340). -/
def ParitySet.isRebuilt (t : ParitySet) (sigma : Nat) : Bool :=
  sigma < t.mgptr || sigma % 16 == t.retired || t.rebuilt.contains sigma

/-- The data line of a stripe that stood at the retired position, when that was not the parity (R334, R340). -/
def ParitySet.lostLine (t : ParitySet) (sigma : Nat) : Option Nat :=
  let p := sigma % 16
  if t.retired = p then none else some (if p < t.retired then t.retired - 1 else t.retired)

/-- What a request does to a line: a read, a write of a part of it, or of the whole. -/
inductive LineUse where
  | read | part | whole
  deriving DecidableEq, Repr

/-- The working pseudo-channels of a set. -/
def State.setChannels (s : State) (i : Nat) : List Nat :=
  ((List.range 16).filter (fun q => (s.pset i).mode == .healthy || q != (s.pset i).retired)).map (fun q => 16 * i + q)

/-- The pseudo-channels that a request for a line reaches: the line's own, that of the parity when the line is written
(R335), and those of its stripe when it is reconstructed during make-good (R340). -/
def State.lineChannels (s : State) (u : LineUse) (pa : Nat) : List Nat :=
  let i := s.setOf pa
  let t := s.pset i
  let sigma := s.setLine pa / 15
  let parity := if u = .read then [] else [16 * i + sigma % 16]
  s.channelOf pa ::
    (if 2 ^ 30 * s.dm.pgran ≤ pa then []
     else match t.mode with
      | .healthy => parity
      | .makeGood =>
        if t.isRebuilt sigma then []
        else if t.lostLine sigma = some (s.setLine pa % 15) then (if u = .whole then [] else s.setChannels i)
        else parity
      | _ => [])

/-- A request to a pseudo-channel takes it out of self-refresh and restarts its idle timer (R338). -/
def State.wake (s : State) (ch : Nat) : State :=
  { s with dm := { s.dm with selfRefresh := s.dm.selfRefresh.filter (· != ch), lastUse := s.dm.lastUse.put ch s.time } }

/-- A request for a line wakes the pseudo-channels that it reaches. -/
def State.wakeLine (u : LineUse) (s : State) (pa : Nat) : State := (s.lineChannels u pa).foldl State.wake s

/-- The physical addresses at which the lines of a range begin, the first at the range's own start. -/
def lineStarts (pa n : Nat) : List Nat :=
  if n = 0 then [] else pa :: (List.range ((pa + n - 1) / 64 - pa / 64)).map (fun i => 64 * (pa / 64 + i + 1))

/-- A read of a range of device memory wakes what each of its lines reaches. -/
def State.wakeRead (s : State) (pa n : Nat) : State := (lineStarts pa n).foldl (State.wakeLine .read) s

/-- A write of a range of device memory wakes what each of its lines reaches. -/
def State.wakeWritten (s : State) (pa n : Nat) : State :=
  (lineStarts pa n).foldl (fun s a => s.wakeLine (if a % 64 = 0 ∧ a + 64 ≤ pa + n then .whole else .part) a) s

/-- Whether a 64 KiB physical frame is lost (R344). -/
def State.frameLost (s : State) (frame : Nat) : Bool :=
  s.dm.lostSets.getLsbD (s.setOf (frame * 65536)) || s.dm.lostFrames.contains frame ||
  (s.dm.unprotLost.getLsbD (s.setOf (frame * 65536)) && 2 ^ 30 * s.dm.pgran ≤ frame * 65536)

/-- Whether a page of `size` bytes at `pa` holds a lost frame (R344): a larger page holds frames of every set. -/
def State.pageLost (s : State) (pa size : Nat) : Bool :=
  if size ≤ 65536 then s.frameLost (pa / 65536)
  else
    s.dm.lostSets != 0 || s.dm.lostFrames.any (fun f => pa / 65536 ≤ f && f < (pa + size) / 65536) ||
    (s.dm.unprotLost != 0 && 2 ^ 30 * s.dm.pgran < pa + size)

/-! ## Table walks (R323, R324, R326) -/

/-- The lowest virtual bit of an index of a level: 39, 30, 21, 16. -/
def levelShift (l : Nat) : Nat := if l = 0 then 16 else 12 + 9 * l

/-- The entries of a table of a level. -/
def levelEntries (l : Nat) : Nat := if l = 0 then 32 else 512

/-- The size of a table of a level in bytes. -/
def tableSize (l : Nat) : Nat := 8 * levelEntries l

/-- Whether an entry is malformed at its level (R324). -/
def entryMalformed (l : Nat) (e : W64) : Bool :=
  let leaf := bit e 1
  let pa := (fld 40 e 8).toNat * 256
  fld 4 e 48 != 0 || fld 4 e 4 != 0 ||
  (l == 3 && leaf) || (l == 0 && !leaf) ||
  (!leaf && (bit e 2 || bit e 3)) ||
  pa % (if leaf then 2 ^ levelShift l else tableSize (l - 1)) != 0

/-- Walk the tables from a level, by levels left; the leaf's page base, page size, R and W, or the reason of R326. -/
def walkFrom (s : State) (va : Nat) : Nat → Nat → Except Nat (Nat × Nat × Bool × Bool)
  | l, table =>
    let at_ := table + 8 * (va / 2 ^ levelShift l % levelEntries l)
    if s.deviceEnd ≤ at_ then .error 5
    else if s.frameLost (at_ / 65536) then .error 6
    else
      let e := BitVec.ofNat 64 (s.read at_ 8)
      let pa := (fld 40 e 8).toNat * 256
      if !bit e 0 then .error 1
      else if entryMalformed l e then .error 3
      else if bit e 1 then .ok (pa, 2 ^ levelShift l, bit e 2, bit e 3)
      else match l with
        | 0 => .error 3
        | l + 1 => walkFrom s va l pa

/-- The pointers that a walk follows from a level and a table on, each with the given epoch. -/
def pathFrom (s : State) (va epoch : Nat) : Nat → Nat → List WalkEntry
  | 0, _ => []
  | l + 1, table =>
    let at_ := table + 8 * (va / 2 ^ levelShift (l + 1) % levelEntries (l + 1))
    let e := BitVec.ofNat 64 (s.read at_ 8)
    let pa := (fld 40 e 8).toNat * 256
    if s.deviceEnd ≤ at_ || s.frameLost (at_ / 65536) || !bit e 0 || entryMalformed (l + 1) e || bit e 1 then []
    else ⟨l + 1, va / 2 ^ levelShift (l + 1), pa, epoch⟩ :: pathFrom s va epoch l pa

/-- The addresses of the entries that a walk reads from a level and a table on. -/
def walkReads (s : State) (va : Nat) : Nat → Nat → List Nat
  | l, table =>
    let at_ := table + 8 * (va / 2 ^ levelShift l % levelEntries l)
    let e := BitVec.ofNat 64 (s.read at_ 8)
    if s.deviceEnd ≤ at_ || s.frameLost (at_ / 65536) then []
    else at_ :: (match l with
      | 0 => []
      | l + 1 => if !bit e 0 || entryMalformed (l + 1) e || bit e 1 then [] else walkReads s va l ((fld 40 e 8).toNat * 256))

/-- Where a walk may begin: at the root, or below a pointer that a walk cache holds; the level, the table and the epoch of
what it reads (R325, R327). -/
def State.walkStarts (s : State) (va : Nat) : List (Nat × Nat × Nat) :=
  (3, s.xl.root.toNat / 4096 % 2 ^ 36 * 4096, s.xl.epoch) ::
  (s.xl.walks.filter (fun w => w.index == va / 2 ^ levelShift w.level)).map (fun w => (w.level - 1, w.table, w.epoch))

/-- The translation of a virtual 64 KiB page that a walk from a start gives: physical page, the size of its leaf's page
and that page's base, R and W, and the number of invalidations written when it was read (R325, R327). -/
def State.walkAt (s : State) (va : Nat) (start : Nat × Nat × Nat) : Except Nat TlbEntry :=
  match walkFrom s va start.1 start.2.1 with
  | .error r => .error r
  | .ok (pa, size, r, w) =>
    .ok { vpage := va / 65536, ppage := (pa + va % size) / 65536, base := pa, size := size, r := r, w := w,
          epoch := start.2.2 }

/-- The translation that the tables give now. -/
def State.walk (s : State) (va : Nat) : Except Nat TlbEntry :=
  s.walkAt va (3, s.xl.root.toNat / 4096 % 2 ^ 36 * 4096, s.xl.epoch)

/-- What an entry of a TLB says of an address of its leaf's page, if it is one (R325: a large leaf is one translation). -/
def TlbEntry.serve (e : TlbEntry) (va : Nat) : Option TlbEntry :=
  if e.vpage * 65536 / e.size = va / e.size then
    some { e with vpage := va / 65536, ppage := (e.base + va % e.size) / 65536 }
  else none

/-- The failure of an access through a translation, if it fails (R326). -/
def State.checkEntry (s : State) (e : TlbEntry) (write : Bool) : Option Nat :=
  if (write && !e.w) || (!write && !e.r) then some 2
  else if s.pageLost e.base e.size then some 4
  else if s.deviceEnd ≤ e.ppage * 65536 then some 5
  else none

/-- The translations that may serve a page: what the tables say now, and what a TLB or a walk cache may still hold from
earlier (R325). Which cache holds an entry changes nothing, so that one list stands for all of one kind. -/
def State.candidates (s : State) (va : Nat) : List (Except Nat TlbEntry) :=
  (s.walkStarts va).map (s.walkAt va) ++ (s.xl.tlb.filterMap (fun e => e.serve va)).map .ok

/-- A walk's reads are requests to the pseudo-channels of what they read (R338). It is made when no TLB holds the page, and
begins below the lowest pointer that a walk cache holds: DESIGN CHOICE (log 10), the spec does not say when a cache lets go
of what it may hold. -/
def State.wakeWalk (s : State) (va : Nat) : State :=
  if s.xl.tlb.any (fun e => (e.serve va).isSome) then s
  else
    let start := (s.walkStarts va).foldl (fun a b => if b.1 < a.1 then b else a) (3, s.xl.root.toNat / 4096 % 2 ^ 36 * 4096, 0)
    (walkReads s va start.1 start.2.1).foldl (State.wakeLine .read) s

/-- Walk caches take up the pointers that walks of an address follow. -/
def State.noteWalks (s : State) (va : Nat) : State :=
  let ws := (s.walkStarts va).flatMap (fun (l, table, epoch) => pathFrom s va epoch l table)
  { s with xl := { s.xl with walks := s.xl.walks ++ (ws.filter (fun w => !s.xl.walks.contains w)).dedup } }

/-- Whether two translations give the same access. -/
def sameEntry (a b : Except Nat TlbEntry) : Bool :=
  match a, b with
  | .error x, .error y => x == y
  | .ok x, .ok y => x.ppage == y.ppage && x.r == y.r && x.w == y.w && x.base == y.base && x.size == y.size
  | _, _ => false

/-- Translate a virtual address for a read or a write: the physical address or the reason of the failure. The first
translation locks DM_CONFIG (R332). Where a TLB may hold something else than the tables, a free value says which serves
(R325, R327). -/
def State.translate (s : State) (va : Nat) (write : Bool) : State × Except Nat Nat :=
  let s := { s with dm := { s.dm with locked := true } }
  if 2 ^ 48 ≤ va then (s, .error 1)
  else
    let fresh := s.walk va
    let others := (s.candidates va).filter (fun c => !sameEntry fresh c)
    let (s, used) :=
      if others.isEmpty then (s, fresh)
      else ({ s with free := s.free + 1 }, (fresh :: others).getD (Config.staleChoice s.free % (others.length + 1)) fresh)
    let s := (s.wakeWalk va).noteWalks va
    match used with
    | .error r => (s, .error r)
    | .ok e =>
      let s := if s.xl.tlb.contains e then s else { s with xl := { s.xl with tlb := e :: s.xl.tlb } }
      match s.checkEntry e write with
      | some r => (s, .error r)
      | none => (s.wakeLine .read (e.ppage * 65536 + va % 65536), .ok (e.ppage * 65536 + va % 65536))

end Sys2Proof.Machine
end

