-- ==== Sys2Proof/Machine/Package.lean ====
section
/-! DEFINITION. The operations that the agents of the package share: messages, rings of records, event counters and the
interrupt entries that watch them, error records and their classification (R314, R356 to R364). -/

namespace Sys2Proof.Machine

/-- Send a message to the outside. -/
def State.send (s : State) (m : Msg) : State := { s with out := s.out ++ [m] }

/-- A count that saturates at 0xFFFF_FFFF. -/
def saturate32 (n : Nat) : Nat := if n < 2 ^ 32 then n else 2 ^ 32 - 1

/-! ## Device memory by physical address -/

/-- Whether a range of device memory touches a lost frame (R344). -/
def State.rangeLost (s : State) (pa n : Nat) : Bool :=
  (List.range ((pa + n - 1) / 65536 + 1 - pa / 65536)).any (fun i => s.frameLost (pa / 65536 + i))

/-- Whether `n` bytes at a physical address exist and are not lost (R332, R344). -/
def State.deviceOk (s : State) (pa n : Nat) : Bool := pa + n ≤ s.deviceEnd && !s.rangeLost pa n

/-- A write of a line rebuilds its stripe when it is the lost line of one not yet rebuilt (R340). -/
def State.noteRebuilt (s : State) (pa : Nat) : State :=
  if 2 ^ 30 * s.dm.pgran ≤ pa then s
  else
    let i := s.setOf pa
    let t := s.pset i
    let m := s.setLine pa
    let sigma := m / 15
    if t.mode = .makeGood ∧ !t.isRebuilt sigma ∧ t.lostLine sigma = some (m % 15) then
      { s with dm := { s.dm with sets := s.dm.sets.put i { t with rebuilt := t.rebuilt ++ [sigma] } } }
    else s

/-- A write of a range wakes the pseudo-channels that it reaches (R335, R338), and rebuilds the stripes of which it writes
the lost line (R340). -/
def State.noteWritten (s : State) (pa n : Nat) : State := (lineStarts pa n).foldl State.noteRebuilt (s.wakeWritten pa n)

/-- Write `n` bytes of device memory; a write outside it, or to a lost frame, is discarded. -/
def State.deviceWrite (s : State) (pa n v : Nat) : State :=
  if s.deviceOk pa n then (s.write pa n v).noteWritten pa n else s

/-! ## Rings (R328, R356, R359) -/

/-- Records written and not consumed. -/
def Ring.used (r : Ring) : Nat := (r.head + 2 ^ 17 - r.tail) % 2 ^ 17

/-- Whether a ring is full. -/
def Ring.full (r : Ring) : Bool := 2 ^ r.n ≤ r.used

/-- The first vector of each ring (R358). -/
def ringVector : RingName → Nat
  | .translation => 2040
  | .queue _ => 2041
  | .error => 2042

/-- A queue. -/
def State.queue (s : State) (q : Nat) : Queue := s.sched.queues.look Queue.start q

/-- Replace a queue. -/
def State.setQueue (s : State) (q : Nat) (v : Queue) : State :=
  { s with sched := { s.sched with queues := s.sched.queues.put q v } }

/-- A ring by name. -/
def State.ring (s : State) : RingName → Ring
  | .translation => s.xl.ring
  | .error => s.err.ring
  | .queue q => (s.queue q).ring

/-- Replace a ring. -/
def State.setRing (s : State) (r : RingName) (v : Ring) : State :=
  match r with
  | .translation => { s with xl := { s.xl with ring := v } }
  | .error => { s with err := { s.err with ring := v } }
  | .queue q => s.setQueue q { s.queue q with ring := v }

/-- Write a record at HEAD and advance it; the ring's vector is sent when it was empty (R358). -/
def State.ringWrite (s : State) (name : RingName) (rec : BitVec 256) : State :=
  let r := s.ring name
  let s := s.deviceWrite (r.base.toNat + 32 * (r.head % 2 ^ r.n)) 32 rec.toNat
  let s := s.setRing name { r with head := (r.head + 1) % 2 ^ 17 }
  if r.used = 0 then s.send (.msix (ringVector name)) else s

/-- A record for a ring: a full translation ring holds it back (R328), a full ring of the others drops it (R359). -/
def State.ringPost (s : State) (name : RingName) (rec : BitVec 256) : State :=
  let r := s.ring name
  if r.full then
    s.setRing name (if name = .translation then { r with waiting := r.waiting ++ [rec] }
      else { r with lost := saturate32 (r.lost + 1) })
  else s.ringWrite name rec

/-- The records that wait for room are written, by fuel. -/
def State.ringRefill (s : State) (name : RingName) : Nat → State
  | 0 => s
  | k + 1 =>
    let r := s.ring name
    match r.waiting with
    | [] => s
    | w :: ws =>
      if r.full then s
      else ((s.setRing name { r with waiting := ws }).ringWrite name w).ringRefill name k

/-- A write to TAIL (R356, R358): discarded when it would leave more than the ring holds; a ring left non-empty sends its
vector once more; records that waited are written. -/
def State.ringTail (s : State) (name : RingName) (v : W64) : State :=
  let r := s.ring name
  let t := v.toNat % 2 ^ 17
  let s := if (r.head + 2 ^ 17 - t) % 2 ^ 17 ≤ 2 ^ r.n then s.setRing name { r with tail := t } else s
  let r := s.ring name
  let s := if r.used = 0 then s else s.send (.msix (ringVector name))
  s.ringRefill name r.waiting.length

/-- A write to BASE or SIZE (R356): the ring is emptied; SIZE stores the nearer limit. -/
def State.ringConfig (s : State) (name : RingName) (size : Bool) (v : W64) : State :=
  let r := s.ring name
  let hi := match name with
    | .queue _ => 12
    | _ => 16
  let r := if size then
      let n := match name with
        | .queue _ => v.toNat % 16
        | _ => v.toNat % 32
      { r with n := max 4 (min hi n) }
    else { r with base := v &&& 0xFFFFFFFFFFE0 }
  let s := s.setRing name { r with head := 0, tail := 0 }
  s.ringRefill name r.waiting.length

/-- Four dwords as a 32-byte record, the first at the lowest address. -/
def record32 (a b c d : W64) : BitVec 256 := d ++ c ++ b ++ a

/-! ## Event counters (R182, R296, R314, R357, R358) -/

/-- An event counter. -/
def State.counter (s : State) (n : Nat) : W64 := s.counters.look 0 n

/-- The entries of the interrupt block that watch a counter and are met: each sends its message and disarms. -/
def State.testIrqs (s : State) (ctr : Nat) : State :=
  s.irqs.foldl (fun s (e, v) =>
    let w := v.toNat
    if w >>> 63 % 2 = 1 ∧ w % 2 ^ 12 = ctr ∧ w >>> 64 ≤ (s.counter ctr).toNat then
      ({ s with irqs := s.irqs.put e (v &&& ~~~(BitVec.ofNat 128 (2 ^ 63))) }).send (.msix (w >>> 16 % 2 ^ 11))
    else s) s

/-- A field of a storyboard entry: dword, lowest bit, width (R298). -/
def eField (e : BitVec 256) (dw lo n : Nat) : Nat := e.toNat >>> (64 * dw + lo) % 2 ^ n

/-- WCTR and WTHR of an entry. -/
def eWctr (e : BitVec 256) : Nat := eField e 0 41 12
def eWthr (e : BitVec 256) : Nat := eField e 1 32 32

/-- Whether an armed entry's counter has met its threshold (R296). -/
def State.entryMet (s : State) (e : EntryState) : Bool :=
  decide (e.phase = .armed) && eWthr e.entry ≤ (s.counter (eWctr e.entry)).toNat

/-- Armed entries whose counter has met the threshold are due to fire (R296). Those of one instant fired in ascending
board and entry number (R306). -/
def State.dueEntries (s : State) : State :=
  if s.coll.runs.any (fun (_, r) => r.phase = .armed && r.entries.any s.entryMet) then
    { s with coll := { s.coll with
      fireSeq := s.coll.fireSeq + 1,
      runs := s.coll.runs.map (fun (i, r) =>
        (i, if r.phase = .armed then
          { r with entries := r.entries.zipIdx.map (fun (e, x) =>
              if s.entryMet e then
                { e with phase := .due, fired := (s.coll.fireSeq * 64 + r.board) * 4096 + x }
              else e) }
        else r)) } }
  else s

/-- Put a counter's value, with the interrupt and storyboard entries that watch it. -/
def State.putCounter (s : State) (n : Nat) (v : W64) : State :=
  (({ s with counters := s.counters.put n v }).testIrqs n).dueEntries

/-! ## Error records (R361 to R364) -/

/-- UKIND (R362). -/
def UnitKind.code : UnitKind → Nat
  | .core => 0 | .cluster => 1 | .die => 2 | .pseudoChannel => 3 | .paritySet => 4 | .port => 5 | .alu => 6 | .ucie => 7
  | .chunkBuffers => 8 | .sensor => 9

/-- The key of a unit. -/
def unitNo (k : UnitKind) (u : Nat) : Nat := k.code * 2 ^ 20 + u % 2 ^ 20

/-- WINDOW and THRESH of a class as they reset (R363). -/
def classReset (c : Nat) : W64 :=
  BitVec.ofNat 64 (1000 * 2 ^ 16 + if [0x10, 0x18, 0x19, 0x1B, 0x20, 0x22, 0x24].contains c then 16 else 2)

/-- ERR_CLASSCFG of a class. -/
def State.classcfg (s : State) (c : Nat) : W64 := s.err.classcfg.look (classReset c) c

/-- Count an event of a class at a unit (R363): the count, and whether the fault is now lasting. -/
def State.classify (s : State) (cls : Nat) (k : UnitKind) (u : Nat) : State × Nat × Bool :=
  let key := cls * 2 ^ 24 + unitNo k u
  let now := s.time
  let (start, cnt) := s.err.counts.look (0, 0) key
  let cfg := (s.classcfg cls).toNat
  let (start, cnt) := if cfg >>> 16 % 2 ^ 32 * 1000000 < now - start then (now, 0) else (start, cnt)
  let cnt := cnt + 1
  let thresh := cfg % 256
  let lasting := [0x23, 0x25, 0x26, 0x27].contains cls || (thresh != 0 && thresh ≤ cnt)
  let p := if lasting then (now, 0) else (start, cnt)
  ({ s with err := { s.err with counts := s.err.counts.put key p } }, cnt, lasting)

/-- Write an error record (R362); its SEQ is the next of the package. -/
def State.errorRecord (s : State) (cls : Nat) (k : UnitKind) (u addr count action : Nat) (lasting : Bool) : State :=
  let d0 := count % 2 ^ 16 * 2 ^ 48 + action % 256 * 2 ^ 40 + k.code * 2 ^ 36 + u % 2 ^ 20 * 2 ^ 16 + cls % 256 * 2 ^ 8 +
    lasting.toNat
  let seq := s.err.seq
  let s := { s with err := { s.err with seq := seq + 1 } }
  s.ringPost .error (record32 (BitVec.ofNat 64 d0) (BitVec.ofNat 64 seq) (BitVec.ofNat 64 s.time) (BitVec.ofNat 64 addr))

/-- An error event that takes no action of the ladder: counted and recorded. -/
def State.noteError (s : State) (cls : Nat) (k : UnitKind) (u addr action : Nat) : State :=
  let (s, cnt, lasting) := s.classify cls k u
  s.errorRecord cls k u addr cnt action lasting

/-- A record in a queue's fault ring (R359). -/
def State.queueRecord (s : State) (q kind cls : Nat) (core : Bool) (detail : W64) : State :=
  let d0 := cls % 256 * 2 ^ 16 + kind * 2 ^ 8 + core.toNat * 2 ^ 7 + q % 128
  let seq := s.err.seq
  let s := { s with err := { s.err with seq := seq + 1 } }
  s.ringPost (.queue q) (record32 (BitVec.ofNat 64 d0) (BitVec.ofNat 64 seq) (BitVec.ofNat 64 s.time) detail)

end Sys2Proof.Machine
end

