-- ==== Sys2Proof/Machine/Scheduler.lean ====
section
/-! DEFINITION. Launches, walkers and the scheduler (R239 to R262): the slate, readiness, the order of choice, hand-out
and cuts, retirement, failure and abort. The events that use them are in Machine/Launch.lean. -/

namespace Sys2Proof.Machine

open Sys2Proof.Num

/-! ## The slate (R239, R240) -/

/-- A field of a slate: byte offset, lowest bit, width. -/
def sl (slate : BitVec 2048) (off lo n : Nat) : Nat := recField slate off lo n

def slDims (x : BitVec 2048) : Nat := sl x 48 0 3
def slOrder (x : BitVec 2048) : Nat := sl x 48 8 2
def slGrain (x : BitVec 2048) : Nat := sl x 48 16 32
def slSplit (x : BitVec 2048) : Nat := sl x 48 48 2
def slExtent (x : BitVec 2048) (j : Nat) : Nat := sl x (24 + 4 * j) 0 32
def slCmask (x : BitVec 2048) : Nat := sl x 56 0 64
def slMincl (x : BitVec 2048) : Nat := sl x 64 0 7
def slPrio (x : BitVec 2048) : Nat := sl x 64 8 3
def slPclass (x : BitVec 2048) : Nat := sl x 64 12 2
def slDeadline (x : BitVec 2048) : Nat := sl x 64 32 16
def slGang (x : BitVec 2048) : Bool := sl x 64 48 1 == 1
def slRestartable (x : BitVec 2048) : Bool := sl x 64 49 1 == 1
def slOrdered (x : BitVec 2048) : Bool := sl x 64 50 1 == 1
def slStepclean (x : BitVec 2048) : Bool := sl x 64 51 1 == 1
def slGcount (x : BitVec 2048) : Nat := sl x 16 48 8
def slGlist (x : BitVec 2048) : Nat := sl x 16 0 48
def slAction (x : BitVec 2048) : Nat := sl x 104 0 2
def slArgs (x : BitVec 2048) : W64 := BitVec.ofNat 64 (sl x 8 0 64)

/-- N, the number of steps. -/
def slSteps (x : BitVec 2048) : Nat := ((List.range (slDims x)).map (slExtent x)).foldl (· * ·) 1

/-- The bits set of a number of `n` bits, ascending. -/
def bitsOf (n x : Nat) : List Nat := (List.range n).filter (fun i => x.testBit i)

/-- The clusters of CMASK. -/
def slClusters (x : BitVec 2048) : List Nat := bitsOf 64 (slCmask x)

/-- Whether a number is a power of two. -/
def isPow2 (n : Nat) : Bool := n != 0 && n &&& (n - 1) == 0

/-- Whether a slate is malformed (R240). -/
def slateMalformed (x : BitVec 2048) : Bool :=
  let d := slDims x
  let reserved := sl x 104 21 43 != 0 || sl x 104 2 6 != 0 || sl x 88 13 3 != 0 || sl x 80 13 3 != 0 ||
    sl x 72 13 3 != 0 || sl x 64 52 12 != 0 || sl x 64 14 18 != 0 || sl x 64 11 1 != 0 || sl x 64 7 1 != 0 ||
    sl x 48 50 14 != 0 || sl x 48 10 6 != 0 || sl x 48 3 5 != 0 || sl x 16 56 8 != 0 || sl x 0 48 16 != 0 ||
    sl x 112 0 128 != 0
  reserved || slAction x == 3 || slPclass x == 3 || 2 ≤ slSplit x || d == 0 || d == 7 ||
  (List.range 6).any (fun j => if j < d then slExtent x j == 0 else slExtent x j != 0) ||
  2 ^ 48 < slSteps x || slGrain x == 0 || (2 ≤ slOrder x && d == 1) ||
  (slOrder x == 3 && !(isPow2 (slExtent x 0) && isPow2 (slExtent x 1))) ||
  slCmask x == 0 || slMincl x == 0 || (slClusters x).length < slMincl x || 16 < slGcount x ||
  (slGcount x != 0 && slGlist x % 32 != 0) || (slAction x == 2 && !slRestartable x) ||
  (slOrdered x && slSplit x == 0)

/-! ## Coordinates (R247) -/

/-- Mixed-radix digits of an index, the first extent fastest. -/
def digits : List Nat → Nat → List Nat
  | [], _ => []
  | d :: ds, i => i % d :: digits ds (i / d)

/-- The Morton interleave: bit `k` of `low` goes to d0 or d1, by fuel. -/
def morton (a b low : Nat) : Nat → Nat → Nat → Nat → Nat × Nat → Nat × Nat
  | 0, _, _, _, c => c
  | n + 1, bx, byy, k, (c0, c1) =>
    if bx < a ∨ byy < b then
      let bitv := low >>> k % 2
      if bx < a ∧ (b ≤ byy ∨ bx ≤ byy) then morton a b low n (bx + 1) byy (k + 1) (c0 + bitv <<< bx, c1)
      else morton a b low n bx (byy + 1) (k + 1) (c0, c1 + bitv <<< byy)
    else (c0, c1)

/-- The coordinates c[0] to c[5] of an index. -/
def coords (x : BitVec 2048) (i : Nat) : List Nat :=
  let ds := (List.range (slDims x)).map (slExtent x)
  let pad (l : List Nat) := (l ++ List.replicate 6 0).take 6
  match slOrder x with
  | 0 => pad (digits ds i)
  | 1 => pad (digits ds.reverse i).reverse
  | 2 =>
    match digits ds i with
    | c0 :: c1 :: r => pad ((if c1 % 2 = 1 then slExtent x 0 - 1 - c0 else c0) :: c1 :: r)
    | l => pad l
  | _ =>
    let d0 := slExtent x 0
    let d1 := slExtent x 1
    let (c0, c1) := morton d0.log2 d1.log2 (i % (d0 * d1)) 64 0 0 0 (0, 0)
    pad (c0 :: c1 :: digits (ds.drop 2) (i / (d0 * d1)))

/-! ## Launches -/

/-- A launch. -/
def State.launch (s : State) (l : Nat) : Option Launch := s.sched.launches.find l

/-- Replace a launch. -/
def State.setLaunch (s : State) (v : Launch) : State :=
  { s with sched := { s.sched with launches := s.sched.launches.put v.id v } }

/-- Change a launch. -/
def State.modLaunch (s : State) (l : Nat) (f : Launch → Launch) : State :=
  match s.launch l with
  | some v => s.setLaunch (f v)
  | none => s

/-- Whether a core is fenced. -/
def State.coreFenced (s : State) (n : Nat) : Bool := (s.core n).mode == .fenced

/-- The cores of a cluster. -/
def coresOf (cluster : Nat) : List Nat := (List.range 16).map (fun j => 16 * cluster + j)

/-- Whether a cluster is fenced: as a unit, or because every core of it is (R255, R365). -/
def State.clusterFenced (s : State) (c : Nat) : Bool :=
  s.err.clusters.getLsbD c || (coresOf c).all s.coreFenced

/-- Whether a launch holds clusters now. -/
def Launch.active (l : Launch) : Bool :=
  match l.phase with
  | .running | .stopping _ => true
  | _ => false

/-- Whether no launch holds a cluster. -/
def State.clusterFree (s : State) (c : Nat) : Bool :=
  s.sched.launches.all (fun (_, l) => !(l.active && l.held.contains c))

/-- A group number of an entry. -/
def groupNumber (e : BitVec 1280) : Nat := recField e 128 0 8

/-- The members of an entry, ascending. -/
def groupMembers (e : BitVec 1280) : List Nat := bitsOf 1024 (recField e 0 0 1024)

/-- Whether a launch's wait condition holds (R248). -/
def State.waitMet (s : State) (x : BitVec 2048) : Bool :=
  sl x 72 12 1 == 0 || sl x 72 16 48 ≤ (s.counter (sl x 72 0 12)).toNat

/-- The launches of a queue that stand before one. -/
def State.earlier (s : State) (l : Launch) : List Launch :=
  ((s.queue l.queue).launches.takeWhile (· != l.id)).filterMap s.launch

/-- Readiness but for the groups (R246, R248). -/
def State.readyButGroups (s : State) (l : Launch) : Bool :=
  !l.active && s.waitMet l.slate &&
  (if (s.queue l.queue).concurrent then (s.earlier l).all (fun e => e.phase != .queued)
   else (s.earlier l).isEmpty)

/-- Readiness (R248). -/
def State.ready (s : State) (l : Launch) : Bool :=
  s.readyButGroups l &&
  (slGcount l.slate == 0 ||
    match l.groups with
    | some gs => gs.all (fun e => (s.groups.find (groupNumber e)).isNone)
    | none => false)

/-- Effective priority (R261). -/
def State.effective (s : State) (l : Launch) : Nat :=
  min 7 (slPrio l.slate + (s.time - l.since.getD s.time) / 10000000)

/-- The clusters that a launch may use: unfenced clusters of CMASK. -/
def State.usable (s : State) (l : Launch) : List Nat := (slClusters l.slate).filter (fun c => !s.clusterFenced c)

/-- Whether a launch goes before another in the order of choice (R261). The round-robin of a priority at which no queue has
been served starts at queue 0: DESIGN CHOICE (log 39), since R261 starts it after the queue last served. -/
def State.before (s : State) (a b : Launch) : Bool :=
  let pa := s.effective a
  let pb := s.effective b
  if pa != pb then pb < pa
  else if a.queue != b.queue then
    let start := (s.sched.served.find pa).elim 0 (· + 1)
    (a.queue + 64 - start % 64) % 64 < (b.queue + 64 - start % 64) % 64
  else a.id < b.id

/-- The clusters that a launch may take now: usable, free, and reserved by no launch that goes before it: a lower launch, which
takes no reserved cluster (R261), is one that comes later in the order of choice. DEDUCED (log 39). -/
def State.takable (s : State) (l : Launch) : List Nat :=
  (s.usable l).filter (fun c => s.clusterFree c &&
    match (s.sched.reserved.find c).bind s.launch with
    | some r => r.id == l.id || s.before l r
    | none => true)

/-- The number of clusters that a launch's admission or resumption needs (R248, R260). -/
def State.needs (s : State) (l : Launch) : Nat :=
  if l.phase = .preempted then l.savedHeld.length
  else if slGang l.slate || slGcount l.slate != 0 then max 1 (s.usable l).length
  else slMincl l.slate

/-- Whether enough clusters can be taken. -/
def State.enough (s : State) (l : Launch) : Bool := s.needs l ≤ (s.takable l).length

/-- Insert a launch into the order of choice. -/
def State.insertLaunch (s : State) (a : Launch) : List Launch → List Launch
  | [] => [a]
  | b :: bs => if s.before a b then a :: b :: bs else b :: s.insertLaunch a bs

/-- The ready launches in the order of choice. -/
def State.readyOrder (s : State) : List Launch :=
  ((s.sched.launches.map (·.2)).filter s.ready).foldl (fun acc l => s.insertLaunch l acc) []

/-- The launch that the scheduler admits or resumes next: the first ready one that can be (R261). -/
def State.chosen (s : State) : Option Launch := s.readyOrder.find? s.enough

/-! ## Pre-emption requests (R257) -/

/-- The cores of a launch that are still running its program. -/
def Launch.live (l : Launch) : List Nat := l.started.filter (fun n => !l.finished.contains n)

/-- Whether a core has been stopped by a pre-emption request, taken at once or after it was held (R192, R199). -/
def Core.stoppedByRequest (c : Core) : Bool :=
  (c.mode == .trapping || c.mode == .supervisor) && c.preempt.isNone &&
  ((c.sup.spec SR.trapcause).toNat / 256 % 128 == 19 || (c.sup.spec SR.trapinfo).toNat == 0x9300)

/-- Raise a pre-emption request at cores that no request has stopped. -/
def State.requestStop (s : State) (cores : List Nat) (bundle : Bool) : State :=
  cores.foldl (fun s n => s.modCore n (fun c =>
    if c.mode = .idle ∨ c.mode = .exited ∨ c.mode = .fenced ∨ c.stoppedByRequest then c
    else { c with preempt := some bundle })) s

/-- Pre-empt a running launch in its class (R257). -/
def State.startPreemption (s : State) (l : Launch) : State :=
  let bundle := slPclass l.slate == 1
  let d := if slDeadline l.slate = 0 then s.sched.deadline else slDeadline l.slate
  (s.setLaunch { l with phase := .stopping bundle, deadline := some (s.time + 1000 * d) }).requestStop l.live bundle

/-- The launches that may be pre-empted for one of effective priority `p`: lowest PRIO first, then the most recently
admitted. -/
def State.victims (s : State) (p : Nat) : List Launch :=
  let vs := (s.sched.launches.map (·.2)).filter (fun v =>
    v.phase == .running && slPclass v.slate != 2 && slPrio v.slate < p)
  let before (a b : Launch) : Bool :=
    slPrio a.slate < slPrio b.slate || (slPrio a.slate == slPrio b.slate && b.admitted < a.admitted)
  vs.foldl (fun acc a => acc.takeWhile (fun b => !before a b) ++ a :: acc.dropWhile (fun b => !before a b)) []

/-- Pre-empt as many of the launches as give `need` more clusters of a list. -/
def State.preemptFor (s : State) (cand : List Nat) : List Launch → Nat → State
  | [], _ => s
  | v :: vs, need =>
    if need = 0 then s
    else
      let k := (v.held.filter cand.contains).length
      if k = 0 then s.preemptFor cand vs need else (s.startPreemption v).preemptFor cand vs (need - k)

/-- What the scheduler does for a ready launch that cannot be admitted: it reserves free clusters, and pre-empts (R261). -/
def State.reserveFor (s : State) (l : Launch) : State :=
  let mine := (s.takable l).filter (fun c => s.sched.reserved.find c == some l.id)
  let more := ((s.takable l).filter (fun c => !mine.contains c)).take (s.needs l - mine.length)
  let s := { s with sched := { s.sched with reserved := more.foldl (fun r c => r.put c l.id) s.sched.reserved } }
  let coming := (s.usable l).filter (fun c =>
    s.sched.launches.any (fun (_, v) => (match v.phase with | .stopping _ => true | _ => false) && v.held.contains c))
  let have_ := (s.takable l).length + coming.length
  s.preemptFor (s.usable l) (s.victims (s.effective l)) (s.needs l - have_)

/-- The time since which each launch is ready. -/
def State.refreshReady (s : State) : State :=
  { s with sched := { s.sched with launches := s.sched.launches.map (fun (i, l) =>
      (i, { l with since := if s.ready l then some (l.since.getD s.time) else none })) } }

/-- Consider launches in order, up to the first that can be admitted: its admission comes before the rest (R261). -/
def State.considerAll : List Launch → State → State
  | [], s => s
  | l :: r, s => if s.enough l then s else State.considerAll r (s.reserveFor l)

/-- The scheduler considers the ready launches in order: those that cannot be admitted reserve clusters and pre-empt
(R261). Reservations of clusters that have been taken, and those of launches that are gone or no longer ready, lapse. -/
def State.consider (s : State) : State :=
  if s.sched.launches.isEmpty then s
  else
    let s := s.refreshReady
    let s := { s with sched := { s.sched with
      reserved := s.sched.reserved.filter (fun (c, l) => s.clusterFree c && (s.launch l).any s.ready) } }
    State.considerAll s.readyOrder s

/-! ## Counters -/

/-- Put a counter's value, with everything that watches it: interrupt entries, storyboard entries, slates. -/
def State.setCounter (s : State) (n : Nat) (v : W64) : State := (s.putCounter n v).consider

/-- An add to an event counter, whole and modulo 2^64 (R182). -/
def State.addCounter (s : State) (n : Nat) (v : W64) : State := s.setCounter n (s.counter n + v)

/-- The add of a slate's counter field group at a byte offset: increment, enable and counter (R239). -/
def State.slateAdd (s : State) (x : BitVec 2048) (off : Nat) : State :=
  if sl x off 12 1 = 1 then s.addCounter (sl x off 0 12) (BitVec.ofNat 64 (sl x off 16 48)) else s

/-! ## Indices (R252) -/

/-- Retire an index: it bears the triggered mark from then on. -/
def Launch.retire (l : Launch) (triggered : Bool) : Launch :=
  { l with retired := l.retired + 1, triggered := l.triggered + if triggered then 0 else 1 }

/-- Retire the step of a core, if it has one (R176, R179). -/
def State.retireStep (s : State) (n : Nat) : State :=
  match (s.core n).launch, (s.core n).claim with
  | some l, some (_, t) =>
    (s.modLaunch l (·.retire t)).modCore n (fun c => { c with claim := none })
  | _, _ => s

/-- Insert an index into a restart set, ascending. -/
def insertIndex (i : Nat) (t : Bool) : List (Nat × Bool) → List (Nat × Bool)
  | [] => [(i, t)]
  | (j, u) :: r => if i < j then (i, t) :: (j, u) :: r else (j, u) :: insertIndex i t r

/-- A core's part in its launch is over (R253). -/
def State.markOver (s : State) (n : Nat) : State :=
  match (s.core n).launch with
  | some l => s.modLaunch l (fun v => if v.finished.contains n then v else { v with finished := v.finished ++ [n] })
  | none => s

/-! ## The end of a launch (R253, R256) -/

/-- What remains outstanding of an access whose core has been stopped: its effect on memory, with no result. -/
def Racc.stopped (r : Racc) : Option Racc :=
  if r.kind = .load ∨ r.cells.all (·.done) then none else some { r with dst := .none, handle := none }

/-- Stop the cores of a launch that are not fenced: they are idle. Stores that have issued still perform. -/
def State.releaseCores (s : State) (l : Launch) : State :=
  l.started.foldl (fun s n => s.modCore n (fun c =>
    if c.mode = .fenced ∨ c.launch ≠ some l.id then c
    else { c with mode := .idle, launch := none, claim := none, preempt := none, progBank := none, sysBank := none,
                  held := [], lent := [], offers := [], ending := false, loadErrors := [], machineErr := none,
                  prog := { c.prog with vars := [], cur := none, racc := c.prog.racc.filterMap Racc.stopped } })) s

/-- A launch is gone: its groups are removed, its clusters are free, its cores are idle. -/
def State.dropLaunch (s : State) (l : Launch) : State :=
  let s := s.releaseCores l
  let q := s.queue l.queue
  let s := s.setQueue l.queue { q with launches := q.launches.filter (· != l.id) }
  { s with groups := s.groups.filter (fun (_, g) => g.launch != l.id),
           copies := s.copies.map (fun c => if l.started.contains c.core && !c.sup then { c with orphan := true } else c),
           sched := { s.sched with launches := s.sched.launches.drop l.id } }

/-- Abort a launch (R256). Its fault record reports ARGS (R239), for which the record of R359 has no place: the model keeps
it beside the record, by SEQ. DESIGN CHOICE (log 55). -/
def State.abortLaunch (s : State) (l : Launch) : State :=
  let s := s.dropLaunch l
  let s := { s with sched := { s.sched with faultArgs := s.sched.faultArgs.put s.err.seq (slArgs l.slate) } }
  let s := s.queueRecord l.queue 4 0 false l.launchid
  let s := s.setQueue l.queue { s.queue l.queue with disabled := true }
  s.consider

/-- A step failure of core `n` (R254): ECTR, then ACTION on the index that fails, if there is one. -/
def State.stepFailure (s : State) (n : Nat) : State :=
  match (s.core n).launch with
  | none => s
  | some i =>
    match s.launch i with
    | none => s
    | some l =>
      let s := if sl l.slate 104 20 1 = 1 then s.addCounter (sl l.slate 104 8 12) 1 else s
      let claim := (s.core n).claim
      let s := s.modCore n (fun c => { c with claim := none })
      match slAction l.slate, claim with
      | 0, _ => (match s.launch i with
          | some l => s.abortLaunch l
          | none => s)
      | 1, some (_, t) => s.modLaunch i (·.retire t)
      | 2, some (j, t) => s.modLaunch i (fun l => { l with restart := insertIndex j t l.restart })
      | _, _ => s

/-! ## Hand-out and cutting (R250, R251) -/

/-- What remains of a walker. -/
def Walker.rest (w : Walker) : Nat := w.stop - w.next

/-- A launch's walkers with their numbers in partition order. -/
def Launch.numbered (l : Launch) : List (Walker × Nat) := l.walkers.zipIdx

/-- The walker of a cluster among a launch's walkers, with its number; with ORDERED the one shared walker. -/
def Launch.walker (l : Launch) (k : Nat) : Option (Walker × Nat) :=
  if slOrdered l.slate then l.numbered.head? else l.numbered.find? (fun w => w.1.cluster == k)

/-- Replace the walker of a number. -/
def Launch.setWalker (l : Launch) (i : Nat) (w : Walker) : Launch := { l with walkers := l.walkers.set i w }

/-- Whether a walker can be cut or taken. -/
def Walker.candidate (w : Walker) (halving : Bool) (g : Nat) : Bool :=
  if w.owned then halving && 2 * g ≤ w.rest else 1 ≤ w.rest

/-- The cut of a candidate: what the victim keeps, and the range that the thief receives. -/
def Walker.cut (w : Walker) (g : Nat) : Walker × Nat × Nat :=
  if 2 * g ≤ w.rest then
    let half := g * (w.rest / 2 / g)
    ({ w with stop := w.stop - half }, w.stop - half, w.stop)
  else ({ w with next := w.stop }, w.next, w.stop)

/-- Steal (R251): the launch with cluster `k`'s walker refilled, if some walker is a candidate. -/
def Launch.steal (l : Launch) (k : Nat) : Option Launch :=
  let others := (List.range 64).flatMap (fun c => l.numbered.filter (fun w => w.1.cluster == c && c != k))
  let order := others.filter (fun w => k < w.1.cluster) ++ others.filter (fun w => w.1.cluster < k)
  match order.find? (fun w => w.1.candidate (slSplit l.slate == 0) (slGrain l.slate)), l.walker k with
  | some (v, i), some (w, j) =>
    let (v', lo, hi) := v.cut (slGrain l.slate)
    some ((l.setWalker i v').setWalker j { w with next := lo, stop := hi })
  | _, _ => none

/-- Take the next index of cluster `k`'s walker. -/
def Launch.take (l : Launch) (k : Nat) : Option (Launch × Nat) :=
  match l.walker k with
  | some (w, i) => if w.next < w.stop then some (l.setWalker i { w with next := w.next + 1 }, w.next) else none
  | none => none

/-- The service of a STEP of a core of cluster `k` (R250): an index with its triggered mark, or none. -/
def Launch.serve (l : Launch) (k : Nat) : Launch × Option (Nat × Bool) :=
  match l.restart with
  | (i, t) :: r => ({ l with restart := r }, some (i, t))
  | [] =>
    match l.take k with
    | some (l, i) => (l, some (i, false))
    | none =>
      if (slOrdered l.slate || slSplit l.slate == 1) && !l.walkers.any (fun w => !w.owned && 1 ≤ w.rest) then (l, none)
      else match l.steal k with
        | none => (l, none)
        | some l =>
          match l.take k with
          | some (l, i) => (l, some (i, false))
          | none => (l, none)

end Sys2Proof.Machine
end

