-- ==== Sys2Proof/Machine/Containment.lean ====
section
/-! DEFINITION. Buffer handles as they are settled (R104 to R106, R179, R288), and the fencing of units (R175, R255, R343,
R361 to R365). -/

namespace Sys2Proof.Machine

/-! ## Handles (R104 to R106, R288) -/

/-- The core at a position of core `n`'s cluster. -/
def peerOf (n position : Nat) : Nat := 16 * clusterOf n + position % 16

/-- A region is on its way back to its owner: HGIVE's destination will receive `v`. -/
def Core.returnRegion (c : Core) (base : Nat) (v : Nat) : Core :=
  { c with lent := c.lent.map (fun r => if r.base = base ∧ r.status = none then { r with status := some v } else r) }

/-- Whether an access of a holder through a slot is outstanding. -/
def Core.handleBusy (c : Core) (h : Nat) : Bool := c.prog.racc.any (fun r => r.handle == some h)

/-- The holder gives back the region of a slot: its owner will receive `v` (R106, R179, R288). -/
def State.giveBack (s : State) (n h v : Nat) : State :=
  match (s.core n).held.find h with
  | some d =>
    if d.reserved then s.modCore n (fun c => { c with held := c.held.drop h })
    else
      (s.modCore n (fun c => { c with held := c.held.drop h })).modCore (peerOf n d.owner) (fun c => c.returnRegion d.base v)
  | none => s

/-- The handle slots. -/
def handleSlots : List Nat := List.range 16

/-- Offers to core `n` are withdrawn: each giver receives 3 (R105). -/
def State.withdrawTo (s : State) (n : Nat) : State :=
  let s := (s.core n).offers.foldl (fun s o => s.modCore (peerOf n o.giver) (fun c => c.returnRegion o.base 3)) s
  s.modCore n (fun c => { c with offers := [] })

/-- Offers that core `n` made and no one has taken are withdrawn (R105). -/
def State.withdrawFrom (s : State) (n : Nat) : State :=
  let s := (s.core n).lent.foldl (fun s r =>
    if r.taken then s
    else s.modCore (peerOf n r.peer) (fun c => { c with offers := c.offers.filter (fun o =>
      !(o.giver == n % 16 && o.base == r.base)) })) s
  s.modCore n (fun c => { c with lent := c.lent.map (fun r =>
    if r.taken ∨ r.status ≠ none then r else { r with status := some 3 }) })

/-- The handle state of a core is settled as by EXIT, or by a fence: handles held go back with `v`, offers are withdrawn,
reservations are cancelled. -/
def State.settleHandles (s : State) (n v : Nat) : State :=
  let s := handleSlots.foldl (fun s h => s.giveBack n h v) s
  (s.withdrawTo n).withdrawFrom n

/-! ## Groups -/

/-- A core leaves the barriers of its groups (R175, R179). -/
def State.leaveGroups (s : State) (n : Nat) : State :=
  { s with groups := s.groups.map (fun (i, g) =>
      (i, if (recField g.entry 0 n 1 == 1) && !g.left.contains n then { g with left := g.left ++ [n] } else g)) }

/-! ## Fencing (R255, R288, R365) -/

/-- Fence a core (R255, R288, R365): its handles are settled; what it had not performed through a handle is discarded; its
claim joins the restart set of a RESTARTABLE launch, and is otherwise a step failure; a cluster with no working core left
leaves its walker unowned. A fence of a core that claims nothing is no step failure. -/
def State.fenceCore (s : State) (n : Nat) : State :=
  if s.coreFenced n then s
  else
    let s := s.modCore n (fun c =>
      { c with prog := { c.prog with racc := c.prog.racc.filter (fun r => r.handle == none) } })
    let s := s.settleHandles n 1
    let s := s.modCore n (fun c => { c with mode := .fenced })
    let s := s.markOver n
    let s := match (s.core n).launch.bind s.launch, (s.core n).claim with
      | some l, some (i, t) =>
        if slRestartable l.slate then
          (s.setLaunch { l with restart := insertIndex i t l.restart }).modCore n (fun c => { c with claim := none })
        else s.stepFailure n
      | _, _ => s
    let s := if (coresOf (clusterOf n)).all s.coreFenced then
        { s with sched := { s.sched with launches := s.sched.launches.map (fun (i, l) =>
            (i, { l with walkers := l.walkers.map (fun w =>
              if w.cluster = clusterOf n ∧ !slOrdered l.slate then { w with owned := false } else w) })) } }
      else s
    s.consider

/-- Fence a cluster (R365). -/
def State.fenceCluster (s : State) (k : Nat) : State :=
  let s := { s with err := { s.err with clusters := s.err.clusters ||| BitVec.ofNat 64 (2 ^ k) } }
  (coresOf k).foldl State.fenceCore s

/-- Whether a table of a level, as it stands, leads to a page that holds a lost frame. -/
def tableMeetsLost (s : State) : Nat → Nat → Bool
  | l, table => (List.range (levelEntries l)).any (fun k =>
    let at_ := table + 8 * k
    let e := BitVec.ofNat 64 (s.read at_ 8)
    let pa := (fld 40 e 8).toNat * 256
    !(s.deviceEnd ≤ at_ || s.frameLost (at_ / 65536) || !bit e 0 || entryMalformed l e) &&
    (if bit e 1 then s.pageLost pa (2 ^ levelShift l)
     else match l with
      | 0 => false
      | l + 1 => tableMeetsLost s l pa))

/-- Whether a pointer of a walk cache is on the way to a page that holds a lost frame: as the tables stand, or as a TLB
holds that page, or because its own table is lost. -/
def State.walkLost (s : State) (w : WalkEntry) : Bool :=
  s.frameLost (w.table / 65536) ||
  s.xl.tlb.any (fun e => s.pageLost e.base e.size && e.vpage * 65536 / 2 ^ levelShift w.level == w.index) ||
  tableMeetsLost s (w.level - 1) w.table

/-- A lost frame or set leaves behind no translation of a page that contains it, and no pointer on the way to one (R344). -/
def State.dropLostPages (s : State) : State :=
  { s with xl := { s.xl with tlb := s.xl.tlb.filter (fun e => !s.pageLost e.base e.size),
                             walks := s.xl.walks.filter (fun w => !s.walkLost w) } }

/-- Fence a parity set (R343): its engine is fenced with it, and every frame of it is lost. A record that the engine was
to work on fails when the engine would take it (R352). -/
def State.fenceSet (s : State) (i : Nat) : State :=
  let t := s.pset i
  let s := { s with dm := { s.dm with sets := s.dm.sets.put i { t with mode := .fenced },
                                      lostSets := s.dm.lostSets ||| BitVec.ofNat 32 (2 ^ i) } }
  s.dropLostPages

/-- Fence a parity set that is not fenced, as an action of its own with its record (R336, R343, R364). -/
def State.fenceSetNoted (s : State) (i : Nat) : State :=
  if (s.pset i).mode = .fenced then s else (s.fenceSet i).noteError 0x1E .paritySet i 0 3

/-- Fence a die's 16 clusters and 8 parity sets (R364). -/
def State.fenceDie (s : State) (d : Nat) : State :=
  let s := { s with err := { s.err with dies := s.err.dies ||| BitVec.ofNat 4 (2 ^ d) } }
  let s := (List.range 16).foldl (fun s k => s.fenceCluster (16 * d + k)) s
  (List.range 8).foldl (fun s k => s.fenceSetNoted (8 * d + k)) s

/-- A trap in supervisor mode (R200): an SVFAULT event, lasting at once, whose action is the fence of the core. -/
def State.supervisorFault (s : State) (n : Nat) : State :=
  let (s, cnt, lasting) := s.classify 0x27 .core n
  (s.errorRecord 0x27 .core n 0 cnt 3 lasting).fenceCore n

/-- Retire a pseudo-channel at a position of a healthy set (R339). -/
def State.retireChannel (s : State) (i r : Nat) : State :=
  let t := s.pset i
  let s := { s with dm := { s.dm with
    sets := s.dm.sets.put i { t with mode := .makeGood, retired := r, mgptr := 0, rebuilt := [] },
    unprotLost := s.dm.unprotLost ||| BitVec.ofNat 32 (2 ^ i) } }
  s.dropLostPages

/-- A pseudo-channel has failed lastingly: retirement in a healthy set, else the fence of the set (R339, R343). -/
def State.channelFailed (s : State) (ch : Nat) : State :=
  match (s.pset (ch / 16)).mode with
  | .healthy => s.retireChannel (ch / 16) (ch % 16)
  | .fenced => s
  | _ => s.fenceSet (ch / 16)

/-- A frame becomes lost (R344). -/
def State.loseFrame (s : State) (frame : Nat) : State :=
  if s.dm.lostFrames.contains frame then s
  else ({ s with dm := { s.dm with lostFrames := s.dm.lostFrames ++ [frame] } }).dropLostPages

end Sys2Proof.Machine
end

