-- ==== Sys2Proof/Machine/Flags.lean ====
section
/-! DEFINITION. Rounding modes and the stipple key of an operation (R67, R116, R132, R223 to R225), and the combination
of the flags of a line's elements (R111). -/

namespace Sys2Proof.Machine

open Sys2Proof.Num

/-- The mode that a mode field selects: 111 takes RMODE of fpctl (R223). -/
def Ctx.mode (x : Ctx) (rm : Nat) : Nat := if rm = 7 then (x.spec SR.fpctl).toNat % 8 else rm

/-- The generator's word for a row and a column under the context's key (R224). -/
def Ctx.stip (x : Ctx) (row col : Nat) : W64 :=
  stipple (x.spec SR.stipseed) (x.spec SR.stepidx) row col (x.spec SR.stipstream).toNat

/-- How an element rounds: rnd16 is drawn only in SR. -/
def Ctx.rnd (x : Ctx) (rm row col : Nat) (sat : Bool) : Rnd :=
  let m := x.mode rm
  ⟨m, if m = 5 then rnd16 (x.stip row col) else 0, sat⟩

/-- Whether a STEP of the context is outstanding (R225). -/
def Ctx.stepOutstanding (x : Ctx) : Bool :=
  x.vars.any (fun v => match v.kind with
    | .step _ _ => true
    | _ => false)

/-- An operation that rounds in SR stalls while a STEP is outstanding (R225). In supervisor mode a STEP that the stopped
program has left outstanding does not count, since the stall is on the STEPs of the context that issues: DESIGN CHOICE (log
4), the spec does not say. -/
def Ctx.srStall (x : Ctx) (rm : Nat) : Bool := x.mode rm == 5 && x.stepOutstanding

/-- The row part of the key of a destination specifier (R116). -/
def specRow (s : BitVec 13) : Nat := s.toNat % 4096

/-- OR of flag sets. -/
def orAll (l : List Nat) : Nat := l.foldl (· ||| ·) 0

/-- The results of the elements of a line: values, and the flags of the active ones joined. -/
def gather (act : List Bool) (rs : List (Nat × Nat)) : List Nat × Nat :=
  (rs.map (·.1), orAll ((act.zip rs).map (fun (a, r) => if a then r.2 else 0)))

end Sys2Proof.Machine
end

