-- ==== Sys2Proof/Machine/Landing.lean ====
section
/-! DEFINITION. The landing of fixed-latency results (R7, R160, R186, R195): in slot order, re-injected and held results
last, flags after the writes of their issue; and the beats, which compute at their landing (R148 to R157). -/

namespace Sys2Proof.Machine

open Sys2Proof.Num

/-! ## Array state (R144) -/

/-- The active buffer and its plane. -/
def ArrayState.active (a : ArrayState) : BitVec 65536 × BitVec 512 :=
  if a.activeB then (a.bufB, a.planeB) else (a.bufA, a.planeA)

/-- The shadow buffer. -/
def ArrayState.shadow (a : ArrayState) : BitVec 65536 := if a.activeB then a.bufA else a.bufB

/-- Replace the shadow buffer. -/
def ArrayState.setShadow (a : ArrayState) (b : BitVec 65536) : ArrayState :=
  if a.activeB then { a with bufA := b } else { a with bufB := b }

/-- Replace the shadow buffer's plane. -/
def ArrayState.setShadowPlane (a : ArrayState) (p : BitVec 512) : ArrayState :=
  if a.activeB then { a with planeA := p } else { a with planeB := p }

/-- The anchor of a bank. -/
def ArrayState.anchor (a : ArrayState) (bank1 : Bool) : Int := if bank1 then a.anchor1 else a.anchor0

/-- The key of an accumulator row. -/
def accKey (bank1 : Bool) (row : Nat) : Nat := bank1.toNat * 64 + row % 64

/-- The value of a cell, in units of 2^(anchor - 64). -/
def AccRow.value (r : AccRow) (c : Nat) : Int := signExt (r.val.toNat >>> (96 * c) % 2 ^ 96) 96

/-- The tag of a cell. -/
def AccRow.tag (r : AccRow) (c : Nat) : Tag := Tag.ofCode (r.tags.toNat >>> (2 * c) % 4)

/-- Replace consecutive cells from column `c` by fields given as lists of values and tags. -/
def AccRow.setCells (r : AccRow) (c : Nat) (vs : List Int) (ts : List Tag) : AccRow :=
  let n := vs.length
  let vm := ((2 ^ (96 * n) - 1) <<< (96 * c)) % 2 ^ 12288
  let tm := ((2 ^ (2 * n) - 1) <<< (2 * c)) % 2 ^ 256
  let vv := joinBits 96 (vs.map (fun v => lowBits v 96)) <<< (96 * c)
  let tt := joinBits 2 (ts.map Tag.code) <<< (2 * c)
  ⟨(r.val &&& ~~~(BitVec.ofNat 12288 vm)) ||| BitVec.ofNat 12288 vv,
   (r.tags &&& ~~~(BitVec.ofNat 256 tm)) ||| BitVec.ofNat 256 tt⟩

/-- A row of an array state. -/
def ArrayState.row (a : ArrayState) (bank1 : Bool) (row : Nat) : AccRow := a.acc.look AccRow.zero (accKey bank1 row)

/-- Replace a row. -/
def ArrayState.setRow (a : ArrayState) (bank1 : Bool) (row : Nat) (r : AccRow) : ArrayState :=
  { a with acc := a.acc.put (accKey bank1 row) r }

/-- Zero whole rows, from `row` on, modulo 64 (R156). -/
def ArrayState.zeroRows (a : ArrayState) (bank1 : Bool) (row : Nat) : Nat → ArrayState
  | 0 => a
  | n + 1 => ArrayState.zeroRows { a with acc := a.acc.drop (accKey bank1 row) } bank1 (row + 1) n

/-! ## The contribution of a beat (R151, R154) -/

/-- The width class's N of a MACC word: 32, 64 or 128 (R145). -/
def macN (o : MF) : Nat := (macClass o.wty o.sty).getD 64

/-- The elements of the tile of the active buffer: row k as a list of N elements (R145). -/
def tileRows (w n : Nat) (buf : BitVec 65536) : List (List Nat) :=
  (splitBits 512 n buf.toNat).map (fun r => splitBits w n r)

/-- Whether a type takes block scales (R145). -/
def mxType (ty : BitVec 4) : Bool := 11 ≤ ty.toNat && ty.toNat ≤ 13

/-- The value of an element with its scale code, when its type takes one. -/
def operandVal (ty : BitVec 4) (x code : Nat) : FVal := if mxType ty then scaled (anyVal ty x) code else anyVal ty x

/-- The transpose of a square list of rows. -/
def transpose (rows : List (List Nat)) (n : Nat) : List (List Nat) :=
  (List.range n).map (fun i => rows.map (fun r => r.getD i 0))

/-- The contribution of one output: the streamed operands against the stationary ones, in order. -/
def beatOutput (a : Int) (xs ws : List FVal) : Contrib :=
  (xs.zip ws).foldl (fun c p => c.add a (product p.1 p.2)) Contrib.none

/-- The contributions of a beat's N outputs at the anchor's A (R151). -/
def beatOutputs (o : MF) (b : Beat) (a : Int) : List Contrib :=
  let n := macN o
  let w := 512 / n
  let xs := (splitBits w n b.src.toNat).zipIdx.map (fun (x, i) =>
    operandVal o.sty x (b.sc.toNat >>> (8 * (i / 16)) % 256))
  let rows := tileRows w n b.buf
  let cols := if o.trans then rows else transpose rows n
  cols.zipIdx.map (fun (ws, out) =>
    beatOutput a xs (ws.zipIdx.map (fun (x, i) =>
      let k := if o.trans then out else i
      let m := if o.trans then i else out
      operandVal o.wty x (b.plane.toNat >>> (8 * (8 * (k / 16) + m / 16)) % 256))))

/-- One accumulator cell after a contribution: value, tag, AX and AO, NV (R151, R154). -/
def accumulate (zero : Bool) (v : Int) (t : Tag) (c : Contrib) : Int × Tag × Bool × Bool × Bool :=
  let (tag, both) := if zero then (c.tag, false) else t.join c.tag
  if tag = .finite then
    let (x, clamped) := clamp96 (if zero then c.sum else v + c.sum)
    (x, tag, c.ax, clamped, c.nv)
  else (v, tag, false, false, c.nv || both)

/-- The landing of a MACC or MACCZ on array state, with the flags for fpflags and accflags. -/
def landMacc (zero : Bool) (o : MF) (b : Beat) (a : ArrayState) : ArrayState × Nat × Nat :=
  let n := macN o
  let col := o.low.toNat / 2 ^ 17 * n
  let r := a.row o.bank o.row.toNat
  let outs := beatOutputs o b (a.anchor o.bank - 64)
  let res := outs.zipIdx.map (fun (c, i) => accumulate zero (r.value (col + i)) (r.tag (col + i)) c)
  let ax := res.any (fun x => x.2.2.1)
  let ao := res.any (fun x => x.2.2.2.1)
  let nv := res.any (fun x => x.2.2.2.2)
  (a.setRow o.bank o.row.toNat (r.setCells col (res.map (·.1)) (res.map (·.2.1))),
    flagIf nv NV, (flagIf ax 1 ||| flagIf ao 2) * (if o.bank then 4 else 1))

/-- The columns that an MDRN drains: the first, and how many (R157). -/
def drainCols (o : MF) : Nat × Nat :=
  let e := if tyWidth o.wty = 32 then 16 else 32
  (o.seg.toNat * e % 128, e)

/-- The landing of a beat, by its opcode (R148 to R157): array state, flags for fpflags, flags for accflags. -/
def landBeat (b : Beat) (a : ArrayState) : ArrayState × Nat × Nat :=
  let o := MF.dec b.word
  match b.word.toNat >>> 57 with
  | 1 =>
    let g := o.row.toNat % 16
    let m : Nat := (2 ^ 4096 - 1) <<< (4096 * g)
    (a.setShadow ((a.shadow &&& ~~~(BitVec.ofNat 65536 m)) ||| BitVec.ofNat 65536 (b.src.toNat <<< (4096 * g))), 0, 0)
  | 3 => (a.setShadow ((a.shadow <<< 512) ||| BitVec.ofNat 65536 (b.src.toNat % 2 ^ 512)), 0, 0)
  | 4 => landMacc false o b a
  | 5 => landMacc true o b a
  | 6 =>
    let (c, e) := drainCols o
    (a.setRow o.bank o.row.toNat
      ((a.row o.bank o.row.toNat).setCells c (List.replicate e 0) (List.replicate e .finite)), 0, 0)
  | 7 => (a.zeroRows o.bank o.row.toNat (o.low.toNat / 2 ^ 13 + 1), 0, 0)
  | 8 =>
    let v := signExt (o.low.toNat / 2 ^ 9) 10
    let a := a.zeroRows o.bank 0 64
    (if o.bank then { a with anchor1 := v } else { a with anchor0 := v }, 0, 0)
  | 9 => (a.setShadowPlane (BitVec.ofNat 512 b.src.toNat), 0, 0)
  | 10 => ({ a with sc := BitVec.ofNat 64 (b.src.toNat >>> (64 * (o.low.toNat / 2 ^ 16))) }, 0, 0)
  | _ => (a, 0, 0)

/-! ## Landing -/

/-- A TFIND that is awaited keeps the bits of tagmap and tagerr that a command issued after it clears (R168, R169): `before`
bounds the identities of the TFINDs that issued before the command. -/
def Ctx.noteTags (x : Ctx) (before : Nat) (m : W64) : Ctx :=
  { x with vars := x.vars.map (fun v => match v.kind with
      | .tfind d k a b =>
        if v.id < before then
          { v with kind := .tfind d k (a ||| (x.spec SR.tagmap &&& m)) (b ||| (x.spec SR.tagerr &&& m)) }
        else v
      | _ => v) }

/-- TCLR's clear (R169). -/
def Ctx.tagClear (x : Ctx) (m : W64) : Ctx :=
  ((x.noteTags x.nextId m).putSpec SR.tagmap (x.spec SR.tagmap &&& ~~~m)).putSpec SR.tagerr (x.spec SR.tagerr &&& ~~~m)

/-- The writes of one result (R57, R110, R169, R196); the flags it carries come after. -/
def Core.landEff (c : Core) (e : Eff) : Core :=
  match e with
  | .void => c
  | .sreg r v => c.setCtx (c.ctx.setSreg r v)
  | .pred p v => c.setCtx (c.ctx.setPred p v)
  | .mask k v en => c.setMask k v en
  | .lines spec en data =>
    { c with tiles := (data.zipIdx).foldl (fun t (l, i) => putTileLine t (specAdvance spec i) false en l) c.tiles }
  | .antidiag spec en data => { c with tiles := putTileLine c.tiles spec true en data }
  | .special n v => c.setCtx (c.ctx.setSpec n v)
  | .tclr m => c.setCtx (c.ctx.tagClear m)
  | .push p l =>
    let q := c.port (8 + p)
    if q.conf then c.setPort (8 + p) { q with queue := q.queue ++ [l] } else c
  | .beat b => { c with arr := (landBeat b c.arr).1 }

/-- The flags that a result raises when it lands: those it carries, and those of a beat, for fpflags and accflags. -/
def Core.landFlags (c : Core) (f : Flight) : Nat × Nat :=
  match f.eff with
  | .beat b => let (_, fp, acc) := landBeat b c.arr; (f.flags ||| fp, acc)
  | _ => (f.flags, 0)

/-- Land a list of results in order, collecting flags. -/
def Core.landList (c : Core) : List Flight → Nat → Nat → Core × Nat × Nat
  | [], fp, acc => (c, fp, acc)
  | f :: fs, fp, acc =>
    let (a, b) := c.landFlags f
    Core.landList (c.landEff f.eff) fs (fp ||| a) (acc ||| b)

/-- The predicates that results write. -/
def landedPreds (fs : List Flight) : BitVec 16 :=
  fs.foldl (fun m f => match f.eff with
    | .pred p _ => m ||| BitVec.ofNat 16 (2 ^ p)
    | _ => m) 0

/-- The results due at the issue about to be made. -/
def Core.due (c : Core) : List Flight := c.ctx.flight.filter (fun f => f.remain == 0)

/-- Whether a push due at the issue about to be made would find the queue of its write port full (R102: the bundle then
stalls): eight lines are all that a queue holds (R203). -/
def Core.landFull (c : Core) : Bool :=
  [8, 9, 10, 11].any (fun p =>
    let q := c.port p
    let k := (c.due.filter (fun f => match f.eff with
      | .push j _ => 8 + j == p
      | _ => false)).length
    q.conf && k != 0 && 8 < q.queue.length + k)

/-- The clears of TCLR that are due are made (R169), while the bundle at whose issue they land stalls: a copy that completes
during the stall sets its bits after them. -/
def Core.landClears (c : Core) : Core :=
  let isClear (f : Flight) : Bool := f.remain == 0 && (match f.eff with
    | .tclr _ => true
    | _ => false)
  if c.ctx.flight.any isClear then
    (c.setCtx { c.ctx with flight := c.ctx.flight.filter (fun f => !isClear f) }).landList (c.ctx.flight.filter isClear) 0 0
      |>.1
  else c

/-- A due push takes its place in a queue that has room; of its result the flags are left. -/
def Core.landPush (c : Core) (f : Flight) : Core × Flight :=
  match f.eff with
  | .push p l =>
    let q := c.port (8 + p)
    if q.conf && q.queue.length < 8 then
      (c.setPort (8 + p) { q with queue := q.queue ++ [l] }, { f with eff := .void })
    else (c, f)
  | _ => (c, f)

/-- While a bundle stalls because the queues have no room for all the pushes that are due, those for which there is room
take it, in the order of landing; the queue that drains meanwhile then takes the others (R102, R203). -/
def Core.landRoom (c : Core) : Core :=
  let (d, due) := (landingOrder c.due).foldl (fun (a : Core × List Flight) f =>
    ((a.1.landPush f).1, a.2 ++ [(a.1.landPush f).2])) (c, [])
  d.setCtx { d.ctx with flight := c.ctx.flight.filter (fun f => f.remain != 0) ++ due }

/-- Everything that lands at the issue about to be made (R7), flags after writes (R70, R155). -/
def Core.landDue (c : Core) : Core :=
  let due := c.ctx.flight.filter (fun f => f.remain == 0)
  if due.isEmpty then c
  else
    let rest := c.ctx.flight.filter (fun f => f.remain != 0)
    let c := c.setCtx { c.ctx with flight := rest, landed := c.ctx.landed ||| landedPreds due }
    let (c, fp, acc) := c.landList (landingOrder due) 0 0
    c.setCtx ((c.ctx.orFlags fp).orAcc acc)

/-- One issue has passed for the results in flight. -/
def Ctx.countDown (x : Ctx) : Ctx :=
  { x with flight := x.flight.map (fun f => { f with remain := f.remain - 1 }), lately := x.landed, landed := 0 }

end Sys2Proof.Machine
end

