-- ==== Sys2Proof/Machine/Issue.lean ====
section
/-! DEFINITION. Fetching, and what happens at an issue (R20 to R26, R48, R49, R75, R164, R189 to R193): the one operation
behind every slot and branch operation. What an operation does is given to it as a record. -/

namespace Sys2Proof.Machine

open Sys2Proof.Num

/-! ## What an operation does -/

/-- How an operation acts on the flow of the core, beside its effects. -/
inductive Flow where
  | plain
  /-- EXIT (R179). -/
  | exit
  /-- RETI (R81). -/
  | reti
  /-- TRAP (R80). -/
  | trap (num : Nat)
  /-- FENCE of kind instr (R173). -/
  | fenceInstr
  /-- STEP, at which a step-boundary pre-emption stops the core (R177). -/
  | step
  deriving DecidableEq, Repr

/-- A slot operation: what it reads and tests, whether it must wait, the checks it makes, and its effects in the three
phases of R89: loads and everything else, atomics, stores. -/
structure OpSem where
  srcs     : List SrcRef := []
  dsts     : List DstRef := []
  pushes   : List Nat := []
  handles  : Env → List HandleUse := fun _ => []
  delivery : Bool := false
  flow     : Flow := .plain
  wait     : Env → Bool := fun _ => false
  check    : Env → Option Trap := fun _ => none
  act      : Env → State → State := fun _ s => s
  atom     : Env → State → State := fun _ s => s
  store    : Env → State → State := fun _ s => s

/-- A branch operation (R75): the register it reads (R38), its target, the register that receives the link, a push on the
loop stack as count and end address, and the levels it removes. -/
structure BranchSem where
  reg    : Option Nat := none
  target : Env → Nat → Option W64 := fun _ _ => none
  link   : Nat := 0
  push   : Env → Option (W64 × W64) := fun _ => none
  pop    : Nat := 0

/-- An operation about to execute: its slot, its word, what it does. -/
structure Active where
  slot : Fin 9
  word : W64
  sem  : OpSem

/-! ## Fetching (R49, R208) -/

/-- The fault of a fetch. -/
def fetchFault (num : Nat) (a : W64) : Trap := addrFault num a

/-- One word of code for core `n`. -/
def fetchWord (s : State) (n : Nat) (a : W64) : State × Except Trap W64 :=
  match s.translate a.toNat false with
  | (s, .error _) => (s, .error (fetchFault 0x09 a))
  | (s, .ok pa) =>
    let fresh := BitVec.ofNat 64 (s.read pa 8)
    let c := s.core n
    match c.icache.find (a.toNat / 8) with
    | none => (s.setCore n { c with icache := c.icache.put (a.toNat / 8) fresh }, .ok fresh)
    | some old =>
      if old = fresh then (s, .ok fresh)
      else
        let s := { s with free := s.free + 1 }
        if Config.staleChoice (s.free - 1) % 2 = 0 then
          (s.setCore n { c with icache := c.icache.put (a.toNat / 8) fresh }, .ok fresh)
        else (s, .ok old)

/-- The length in words of the bundle at an address, from its header (R75); its free values are apart from those that
fetching draws. The end bundle of a LOOP of count 0 may have a header that is illegal, whose length the spec does not give
(R49, R75): here a header of BFORM 11 counts three branch words and its present slots. DESIGN CHOICE (log 53). -/
def lengthAt (s : State) (n : Nat) (a : W64) : Except Trap Nat :=
  match (fetchWord { s with free := 2 ^ 64 + s.free } n a).2 with
  | .error t => .error t
  | .ok h => .ok (hdrLength h)

/-- Words of code from an address on. -/
def fetchWords (s : State) (n : Nat) (a : W64) : Nat → State × Except Trap (List W64)
  | 0 => (s, .ok [])
  | k + 1 =>
    match fetchWord s n a with
    | (s, .error t) => (s, .error t)
    | (s, .ok w) =>
      match fetchWords s n (a + 8) k with
      | (s, .error t) => (s, .error t)
      | (s, .ok ws) => (s, .ok (w :: ws))

/-- Fetch and decode the bundle at an address (R48, R49): the header first; a header that is illegal alone stops the
fetch; otherwise a fetch fault of any word comes before the illegality of any. An address that is misaligned and whose
translation fails too gives NUM 0x0A, the alignment being looked at first: DESIGN CHOICE (log 44), since R49 and R192 give
no order for a fetch, where R85 takes the lower number of an access. -/
def fetchBundle (s : State) (n : Nat) (a xSticky : W64) : State × Except Trap Bundle :=
  if a.toNat % 8 ≠ 0 then (s, .error (fetchFault 0x0A a))
  else
    match fetchWord s n a with
    | (s, .error t) => (s, .error t)
    | (s, .ok h) =>
      match headerReason h with
      | some r => (s, .error (illegalTrap ⟨0, 0xF, r⟩))
      | none =>
        match fetchWords s n (a + 8) (hdrLength h - 1) with
        | (s, .error t) => (s, .error t)
        | (s, .ok ws) =>
          match decodeBundle (h :: ws) xSticky with
          | .error e => (s, .error (illegalTrap e))
          | .ok b => (s, .ok b)

/-! ## Sticky words and guards (R23, R27) -/

/-- The sticky words of a repetition: a present slot's own word at repetition 0, every other active slot's advanced. -/
def stickyAt (b : Bundle) (rep : Nat) (st : FMap W64) : FMap W64 :=
  allSlots.foldl (fun st i =>
    let pres := b.pres.getLsbD i.val
    let held := b.hold.getLsbD i.val
    if pres && rep == 0 then
      st.put i.val ((b.slots.find? (fun p => p.1 == i)).elim 0 (·.2))
    else if pres || held then st.put i.val (advance i (stepCode b.step i) (st.look 0 i.val))
    else st) st

/-- Whether a slot word's guard is true (R27). -/
def guardTrue (x : Ctx) (w : W64) : Bool := x.pred (fld 4 w 52).toNat != bit w 56

/-- The slots of a bundle that are present or held. -/
def Bundle.activeSlots (b : Bundle) : List (Fin 9) :=
  allSlots.filter (fun i => b.pres.getLsbD i.val || b.hold.getLsbD i.val)

/-! ## The tests before execution (R189, steps 3 to 5) -/

/-- The environments of the active operations: each knows the ports that the lower slots pop and push, and what they do
with buffer handles. -/
def envs (n : Nat) (s : State) (pc : W64) : List Active → List Nat → List Nat → List HandleUse → List (Active × Env)
  | [], _, _, _ => []
  | a :: as, popped, pushed, lower =>
    let v : Env := { core := n, slot := a.slot.val, word := a.word, s := s, pc := pc, popped := popped, pushed := pushed,
                     lower := lower }
    (a, v) :: envs n s pc as (popped ++ popsOf a.sem.srcs) (pushed ++ a.sem.pushes) (lower ++ a.sem.handles v)

/-- The full/empty trap of an empty source (R190). -/
def emptyTrap (slot i : Nat) (r : SrcRef) : Trap :=
  ⟨2, 0, false, BitVec.ofNat 64 (slot * 2 ^ 20 + i * 2 ^ 18 + r.info)⟩

/-- The first full/empty trap among the active operations (R189). -/
def findEmptyTrap : List (Active × Env) → Option Trap
  | [] => none
  | (a, v) :: r =>
    match firstEmpty v.c true v.popped 0 a.sem.srcs with
    | some (i, x) => some (emptyTrap a.slot.val i x)
    | none => findEmptyTrap r

/-- Whether a group load of the context may still write a predicate (R187). -/
def Ctx.predPending (x : Ctx) (p : Nat) : Bool :=
  p != 0 && x.vars.any (fun v => match v.kind with
    | .gload _ _ _ _ _ _ cp _ _ _ _ => cp == p
    | _ => false)

/-- Whether a destination is empty at issue (R187). -/
def dstEmpty (c : Core) (d : DstRef) : Bool :=
  match d with
  | .reg r => c.ctx.isEmpty r
  | .line s n ad => specTile s && (specLines s n).any (fun l => lineIsEmpty c.cellEmpty l ad)
  | .pred p => c.ctx.predPending p

/-- Whether an operation must stall: an empty source, an empty destination, a full port queue, an unmet wait. -/
def opStalls (a : Active) (v : Env) : Bool :=
  (firstEmpty v.c false v.popped 0 a.sem.srcs).isSome || a.sem.dsts.any (dstEmpty v.c) ||
  a.sem.pushes.any (fun p => (pushFault v.c v.pushed p).isNone && pushFull v.c v.pushed p) || a.sem.wait v

/-- The checks of an operation: its ports, then its own (R85, R102, R189). -/
def opCheck (a : Active) (v : Env) : Option Trap :=
  match a.sem.check v with
  | some t => some t
  | none =>
    match popFault v.c v.popped a.sem.srcs with
    | some t => some t
    | none => a.sem.pushes.findSome? (pushFault v.c v.pushed)

/-- The privilege trap of an operation that supervisor mode does not have: V, X and M operations (R192, R200); the
others make this check themselves. -/
def slotPrivilege (c : Core) (slot : Fin 9) (w : W64) : Option Trap :=
  if c.inSup && 4 ≤ slot.val && slot.val ≤ 7 && w.toNat >>> 57 != 0 then some (privFault 4) else none

/-- The first failing check, lowest slot first (R189). -/
def findCheck : List (Active × Env) → Option Trap
  | [] => none
  | (a, v) :: r =>
    match slotPrivilege v.c a.slot a.word with
    | some t => some t
    | none =>
      match opCheck a v with
      | some t => some t
      | none => findCheck r

/-! ## Branches and the loop stack (R75 to R78) -/

/-- The loop-end test, by the levels in use, six at most. -/
def loopEnd (h : W64) : Nat → Ctx → Ctx × Option W64
  | 0, x => (x, none)
  | k + 1, x =>
    let d := (x.spec SR.ldepth).toNat
    if d = 0 ∨ 6 < d then (x, none)
    else if x.spec (SR.le (d - 1)) = h then
      let n := x.spec (SR.lc (d - 1)) - 1
      let x := x.putSpec (SR.lc (d - 1)) n
      if n ≠ 0 then (x, some (x.spec (SR.ls (d - 1))))
      else loopEnd h k (x.putSpec SR.ldepth (BitVec.ofNat 64 (d - 1)))
    else (x, none)

/-- The branch resolution of R75 on a context, given the operands `v` as read at issue and the length in bundle words at
an address. -/
def resolve (b : BranchSem) (v : Env) (h : W64) (len : Nat) (lengthAt : W64 → Except Trap Nat) (x : Ctx) :
    Except Trap (Ctx × W64) :=
  let seq := h + BitVec.ofNat 64 (8 * len)
  let skip : Except Trap (Option W64) :=
    match b.push v with
    | some (cnt, e) =>
      if cnt = 0 then
        (match lengthAt e with
          | .error t => .error t
          | .ok l => .ok (some (e + BitVec.ofNat 64 (8 * l))))
      else .ok none
    | none => .ok (b.target v len)
  match skip with
  | .error t => .error t
  | .ok t =>
    let x := x.setSreg b.link seq
    let (x, t) := match t with
      | some a => (x, some a)
      | none => loopEnd h 7 x
    let d := (x.spec SR.ldepth).toNat
    match b.push v with
    | some (cnt, e) =>
      if cnt = 0 then .ok ({ x with rep := 0 }, t.getD seq)
      else if d ≥ 6 then .error (lovf 0)
      else
        .ok ((((x.putSpec (SR.lc d) cnt).putSpec (SR.ls d) seq).putSpec (SR.le d) e).putSpec SR.ldepth
          (BitVec.ofNat 64 (d + 1)), t.getD seq)
    | none =>
      if b.pop > d then .error (lovf 1)
      else
        .ok (if b.pop = 0 then x else x.putSpec SR.ldepth (BitVec.ofNat 64 (d - b.pop)), t.getD seq)

/-- No branch word. -/
def noBranch : BranchSem := {}

/-! ## Traps taken at an issue -/

/-- Take a trap on core `n`: in supervisor mode it fences the core as a machine error (R200). -/
def State.trap (s : State) (n : Nat) (t : Trap) (pc : W64) (rep : Nat) : State :=
  let c := s.core n
  if c.inSup then s.supervisorFault n else s.setCore n (c.takeTrap t pc rep)

/-- The trap that is due at the boundary before the next issue, in the order of R199: a deferred load error, a machine
error, a pre-emption. A handler holds errors of loads issued before it, and a pre-emption for 65,536 issues. -/
def Core.dueTrap (c : Core) : Option Trap :=
  if c.inSup then none
  else
    let inHandler := c.progBank.isSome
    match c.loadErrors.find? (fun e => !inHandler || e.handler), c.machineErr, c.preempt with
    | some e, _, _ => some ⟨4, 0, false, e.pc⟩
    | none, some seq, _ => some ⟨20, 0, true, seq⟩
    | none, none, some bundle =>
      if inHandler then (if 65536 ≤ c.handlerIssues then some ⟨19, 0, true, 0⟩ else none)
      else if bundle then some ⟨19, 1, true, 0⟩ else none
    | none, none, none => none

/-- Clear what made the due trap due. -/
def Core.clearDue (c : Core) : Core :=
  let inHandler := c.progBank.isSome
  match c.loadErrors.find? (fun e => !inHandler || e.handler), c.machineErr with
  | some e, _ => { c with loadErrors := c.loadErrors.erase e }
  | none, some _ => { c with machineErr := none }
  | none, none => { c with preempt := none }

/-- Take the trap that is due. -/
def State.takeDue (s : State) (n : Nat) (t : Trap) : State :=
  let c := s.core n
  (s.setCore n c.clearDue).trap n t c.prog.pc c.prog.rep

/-! ## Execution -/

/-- Run one phase of the active operations, ascending. -/
def runPhase (f : OpSem → Env → State → State) : List (Active × Env) → State → State
  | [], s => s
  | (a, v) :: r, s => runPhase f r (f a.sem v s)

/-- Remove the lines that the operations popped. -/
def popPorts (n : Nat) (ps : List Nat) (s : State) : State :=
  ps.foldl (fun s p => s.modCore n (fun c => c.setPort p ((c.port p).pop 1))) s

/-- Where a core goes on after a repetition: the next repetition, or the place that the branch resolution gives. -/
def advancePc (b : Bundle) (next : W64) (x : Ctx) : Ctx :=
  if x.rep < b.rep then { x with rep := x.rep + 1 } else { x with pc := next, rep := 0, cur := none }

/-- What the flow operations do at the end of a repetition: RETI after the last one; EXIT and TRAP at each; FENCE instr
too, since no bundle is fetched between the repetitions of its bundle and what is fetched after them (R80, R81, R163, R173,
R179). -/
def finishFlow (n : Nat) (last : Bool) (fl : Flow) (s : State) : State :=
  match fl with
  | .plain | .step => s
  | .fenceInstr => s.modCore n (fun c => { c with icache := [] })
  | .exit => s.modCore n (fun c => { c with mode := .exiting })
  | .reti =>
    if last then
      s.modCore n (fun c =>
        if c.inSup then c.leaveSupervisor
        else match c.progBank with
          | some b => c.leaveHandler b
          | none => c)
    else s
  | .trap num => s.trap n ⟨0, num, 64 ≤ num, 0⟩ (s.ctx n).pc (s.ctx n).rep

/-- The issue of one repetition of a bundle whose operations are given (R189, from step 2 on). `s0` is the state before
anything of this issue; its landings are made here, and an operation whose guard is false then takes no part (R27). A
bundle that stalls leaves the results due at its issue in flight, the clears of TCLR apart (R7, R169); it stalls too while
a push due at its issue finds its port's queue full (R102), and the pushes for which there is room take it meanwhile. A
step-boundary pre-emption stops the core before the issue of the STEP's bundle, at which nothing lands then (R177, R194). -/
def issueOps (n : Nat) (b : Bundle) (ops : List Active) (br : BranchSem) (s0 : State) : State :=
  let x0 := s0.ctx n
  let pc := x0.pc
  let rep := x0.rep
  let s := s0.modCore n Core.landDue
  let c := s.core n
  let act := envs n s pc (ops.filter (fun a => guardTrue c.ctx a.word)) [] [] []
  let bv : Env := { core := n, slot := 9, word := 0, s := s, pc := pc, popped := [], pushed := [] }
  let last := b.rep ≤ rep
  let exits := act.any (fun p => p.1.sem.flow == .exit)
  let branching := last && !exits
  let fpPending := c.ctx.spec SR.fpflags &&& c.ctx.spec SR.fpenable
  if (s0.core n).landFull then s0.modCore n (fun c => c.landRoom.landClears)
  else if fpPending ≠ 0 ∧ act.any (fun p => p.1.sem.delivery) then
    s.trap n ⟨3, 0, false, fpPending⟩ pc rep
  else
    match findEmptyTrap act with
    | some t => s.trap n t pc rep
    | none =>
      if act.any (fun p => opStalls p.1 p.2) || (branching && br.reg.any c.ctx.isEmpty) then
        s0.modCore n Core.landClears
      else
        match findCheck act with
        | some t => s.trap n t pc rep
        | none =>
          if c.preempt = some false ∧ c.progBank = none ∧ !c.inSup ∧ act.any (fun p => p.1.sem.flow == .step) then
            ((s0.retireStep n).modCore n (fun c => { c with preempt := none, claim := none })).trap n ⟨19, 0, true, 0⟩ pc rep
          else
            match (if branching then resolve br bv pc b.len (lengthAt s n) c.ctx
                   else .ok (c.ctx, pc + BitVec.ofNat 64 (8 * b.len))) with
            | .error t => s.trap n t pc rep
            | .ok (xl, next) =>
              let s := s.modCore n (fun c => c.setCtx { c.ctx.countDown with sticky := stickyAt b rep c.ctx.sticky })
              let s := runPhase (·.act) act s
              let s := runPhase (·.atom) act s
              let s := runPhase (·.store) act s
              let s := popPorts n (act.flatMap (fun p => popsOf p.1.sem.srcs)) s
              let s := s.modCtx n (fun x =>
                if branching then
                  { x with s := if br.link = 0 then x.s else x.s.put br.link (xl.sreg br.link),
                           sr := [0, 1, 2, 3, 4, 5].foldl (fun sr l =>
                             ((sr.put (SR.lc l) (xl.spec (SR.lc l))).put (SR.ls l) (xl.spec (SR.ls l))).put (SR.le l)
                               (xl.spec (SR.le l))) (x.sr.put SR.ldepth (xl.spec SR.ldepth)) }
                else x)
              let s := s.modCore n Core.countIssue
              let s := s.modCtx n (fun x => if exits then x else advancePc b next x)
              act.foldl (fun s p => finishFlow n last p.1.sem.flow s) s

/-! ## One operation as a bundle of its own -/

/-- Whether a core issues bundles: it runs a program, or is in supervisor mode. -/
def Core.runs (c : Core) : Bool := c.mode == .program || c.mode == .supervisor

/-- The bundle that holds one instruction alone (R20). -/
def soloBundle (i : Instr) : Bundle :=
  { len := (encode i).length, rep := 0,
    pres := match hdrOfInstr i with
      | some h => BitVec.ofNat 9 (2 ^ h.slot.val)
      | none => 0,
    hold := 0, step := 0,
    branch := if branchForm i = 0 then none else some i,
    slots := match hdrOfInstr i with
      | some h => [(h.slot, encodeWord i)]
      | none => [] }

/-- Issue a repetition of a bundle on core `n`: the bundle is under way from now on. -/
def issueBundle (n : Nat) (b : Bundle) (ops : List Active) (br : BranchSem) (s : State) : State :=
  if (s.core n).runs then issueOps n b ops br (s.modCtx n (fun x => { x with cur := some b })) else s

/-- The meaning of a slot operation: the issue of the bundle that holds it alone, on the core whose turn it is. -/
def issueSlot (h : Hdr) (i : Instr) (sem : OpSem) (s : State) : Host.Outcome State Fault Refusal :=
  .next (issueBundle s.turn (soloBundle i) [⟨h.slot, encodeWord i, sem⟩] noBranch s)

/-- The meaning of a branch operation. -/
def issueBranch (i : Instr) (sem : BranchSem) (s : State) : Host.Outcome State Fault Refusal :=
  .next (issueBundle s.turn (soloBundle i) [] sem s)

end Sys2Proof.Machine
end

