-- ==== Sys2Proof/Machine/Access.lean ====
section
/-! DEFINITION. Accesses of the L slot: addresses and their checks (R84, R85), accesses that are outstanding and what they
wait for (R268 to R272), how a cell performs (R89 to R94), and how a variable-latency result arrives (R186, R187, R202). -/

namespace Sys2Proof.Machine

open Sys2Proof.Num

/-! ## Addresses -/

/-- Where an access goes: the memory key; whether the space is local, so that it performs with its bundle (R270); whether
its result has fixed latency (R86); the handle it uses. -/
structure Target where
  key    : Nat
  bundled : Bool
  fixed  : Bool
  handle : Option Nat

/-- The lowest of the numbers of the checks that fail. -/
def firstFailing (l : List (Bool × Nat)) : Option Nat := (l.find? (·.1)).map (·.2)

/-- An address of `n` bytes with an alignment, for the instructions that reach spaces 0x00 to 0x03 and 0x05: where it
goes, or NUM of R85. `only0` is for the instructions that use space 0x00 alone. -/
def resolveAccess (c : Core) (core : Nat) (only0 : Bool) (a : W64) (n align : Nat) : Except Nat Target :=
  let v := a.toNat
  let space := v >>> 56
  let off := v % 2 ^ 56
  let bad (l : List (Bool × Nat)) (t : Target) : Except Nat Target :=
    match firstFailing (l.take 1 ++ (v % align != 0, 3) :: l.drop 1) with
    | some k => .error k
    | none => .ok t
  if space = 0 then
    bad [(2 ^ 21 < off + n, 2), (c.isLent off n, 4)] ⟨unitKey core + off, true, true, none⟩
  else if only0 then .error 1
  else if space = 1 then bad [(2 ^ 24 < off + n, 2)] ⟨clusterKey (clusterOf core) + off, true, false, none⟩
  else if space = 2 then bad [(2 ^ 27 < off + n, 2)] ⟨dieKey (dieOf core) + off, false, false, none⟩
  else if space = 3 then
    let o := off % 2 ^ 48
    bad [(4 ≤ off >>> 48 || 2 ^ 27 < o + n, 2)] ⟨dieKey (off >>> 48 % 4) + o, false, false, none⟩
  else if space = 5 then
    let h := off >>> 48 % 16
    let o := off % 2 ^ 48
    match (if c.inSup then none else c.held.find h) with
    | some d =>
      bad [(16 ≤ off >>> 48 || (!d.reserved && 4096 * d.size < o + n), 2), (d.reserved, 4)]
        ⟨unitKey (peerOf core d.owner) + d.base + o, false, false, some h⟩
    | none => bad [(16 ≤ off >>> 48, 2), (true, 4)] ⟨0, false, false, none⟩
  else .error 1

/-- The trap of a failed check, trapinfo holding the address. -/
def accessTrap (a : W64) : Except Nat Target → Option Trap
  | .error k => some (addrFault k a)
  | .ok _ => none

/-! ## What an access waits for (R272) -/

/-- Acquire and release of an ORD field. -/
def ordAcq (o : BitVec 2) : Bool := o.toNat % 2 == 1
def ordRel (o : BitVec 2) : Bool := 2 ≤ o.toNat

/-- Whether an access has not performed. -/
def Racc.pending (r : Racc) : Bool := r.cells.any (fun c => !c.done)

/-- The group loads of a context that are outstanding, with their acquire. -/
def Ctx.groupLoads (x : Ctx) : List (Nat × Bool) :=
  x.vars.filterMap (fun v => match v.kind with
    | .gload _ _ _ _ _ _ _ _ _ acq _ => some (v.id, acq)
    | _ => none)

/-- The TFINDs of a context whose value has not arrived: each acquires when it does (R168, R277), so what comes after it
follows it. -/
def Ctx.finds (x : Ctx) : List Nat :=
  x.vars.filterMap (fun v => match v.kind with
    | .tfind _ m _ _ => if m = 0 then none else some v.id
    | _ => none)

/-- The accesses of a context that have not performed, TFIND counted among them. -/
def Ctx.pendingIds (x : Ctx) : List Nat :=
  (x.racc.filter Racc.pending).map (·.id) ++ x.groupLoads.map (·.1) ++ x.finds

/-- The loads and atomics of a context that have not performed. -/
def Ctx.pendingReads (x : Ctx) : List Nat :=
  (x.racc.filter (fun r => r.pending && r.reads)).map (·.id) ++ x.groupLoads.map (·.1)

/-- The accesses of a context that a new one of its core follows: those with acquire, those behind an acquire fence; for a
release, all; for a write or an engine command, those behind a release fence (R172, R272). -/
def Ctx.waitIds (x : Ctx) (rel write : Bool) : List Nat :=
  let acqs := (x.racc.filter (·.acq)).map (·.id) ++ (x.groupLoads.filter (·.2)).map (·.1) ++ x.finds
  x.pendingIds.filter (fun i => rel || acqs.contains i || x.afterAcq.contains i || (write && x.afterRel.contains i))

/-- Whether two cells share a byte. -/
def RCell.overlaps (a b : RCell) : Bool := a.key < b.key + b.bytes && b.key < a.key + a.bytes

/-- The outstanding accesses to the same location. -/
def Ctx.conflictIds (x : Ctx) (cells : List RCell) : List Nat :=
  (x.racc.filter (fun r => r.cells.any (fun c => !c.done && cells.any c.overlaps))).map (·.id)

/-- WOFF and WSIZE of a group's entry (R245). -/
def groupOff (e : BitVec 1280) : Nat := recField e 128 16 21
def groupSize (e : BitVec 1280) : Nat := recField e 136 0 22

/-- The 32-bit cells, or the one place, that a group load reads at each member (R95). -/
def groupCells (line : Option (BitVec 13)) : Nat := if line.isSome then 128 else 1
/-- The bytes of one of them. -/
def groupBytes (ty : BitVec 4) (line : Option (BitVec 13)) : Nat := if line.isNone && ty == 9 then 2 else 4

/-- What a group load reads at a member (R95), from the key of the member's place on. -/
def groupPlace (g : Group) (off m : Nat) : Nat := unitKey m + groupOff g.entry + off

/-- The cells that an awaited group load has still to read. -/
def State.unread (s : State) (v : Var) : List RCell :=
  match v.kind with
  | .gload g _ ty off line _ _ members _ _ _ =>
    (match s.groups.find g with
      | some grp => members.flatMap (fun (m, got) => match got with
          | some got => ((List.range (groupCells line)).filter (fun i => (got.find i).isNone)).map (fun i =>
              { key := groupPlace grp off m + 4 * i, bytes := groupBytes ty line, data := 0, en := 0, exp := 0, got := none,
                done := false })
          | none => [])
      | none => [])
  | _ => []

/-- The group loads of core `n` that have still to read one of the cells (R269, R272). -/
def State.groupConflicts (s : State) (n : Nat) (cells : List RCell) : List Nat :=
  ((s.core n).prog.vars.filter (fun v => (s.unread v).any (fun c => cells.any c.overlaps))).map (·.id)

/-! The order of R272 is that of one core: what its program and its supervisor have issued stand in one bundle order. -/

/-- The accesses of a core that have not performed. -/
def Core.pendingIds (c : Core) : List Nat := c.prog.pendingIds ++ c.sup.pendingIds
/-- Those of them that are loads and atomics. -/
def Core.pendingReads (c : Core) : List Nat := c.prog.pendingReads ++ c.sup.pendingReads
/-- Those of them that a new access follows. -/
def Core.waitIds (c : Core) (rel write : Bool) : List Nat := c.prog.waitIds rel write ++ c.sup.waitIds rel write
/-- Those of them to the same location. -/
def Core.conflictIds (c : Core) (cells : List RCell) : List Nat := c.prog.conflictIds cells ++ c.sup.conflictIds cells
/-- Whether the accesses of a list have performed. -/
def Core.performed (c : Core) (waits : List Nat) : Bool := waits.all (fun i => !c.pendingIds.contains i)

/-- An access becomes outstanding: `k` is the core as it stood at issue. It follows the accesses of earlier bundles that
R272 says, and every access to the same location, one of its own bundle that comes before it in the order of R89 included.
One without cells or destination does nothing. -/
def State.addAccess (s : State) (n : Nat) (k : Core) (kind : RKind) (acq rel write reads : Bool) (cells : List RCell)
    (dst : RDst) (pc : W64) (handle : Option Nat) : State :=
  if cells.isEmpty && dst == .none then s
  else s.modCore n (fun c =>
    let y := c.ctx
    c.setCtx { y with
      nextId := y.nextId + 1,
      racc := y.racc ++ [{ id := y.nextId, waits := (k.waitIds rel write ++ c.conflictIds cells ++ s.groupConflicts n cells).dedup,
                           acq := acq, reads := reads, kind := kind, cells := cells, dst := dst, pc := pc,
                           handler := c.progBank.isSome, handle := handle }] })

/-- A cell of an access. -/
def newCell (key bytes data en exp : Nat) : RCell :=
  { key := key, bytes := bytes, data := data, en := en, exp := exp, got := none, done := false }

/-! ## How a cell performs -/

/-- The result of a scalar atomic (R93). -/
def amoResult (op bits old v : Nat) : Nat :=
  let so := signExt old bits
  let sv := signExt v bits
  match op with
  | 0 => (old + v) % 2 ^ bits
  | 1 => old &&& v
  | 2 => old ||| v
  | 3 => old ^^^ v
  | 4 => v
  | 5 => if so < sv then v else old
  | 6 => if sv < so then v else old
  | 7 => max old v
  | _ => min old v

/-- One element of AMOL or of a group load's node (R94, R96): operation 0 add, 1 max, 2 min, 3 and, 4 or, 5 xor; type 4 s32,
5 z32, 8 f32, 9 bf16. The value and the flags. -/
def combine (op : Nat) (ty : BitVec 4) (a b : Nat) : Nat × Nat :=
  let w := tyWidth ty
  match op with
  | 0 =>
    if ty = 8 then fadd f32 rne 0 (f32.val a) (f32.val b)
    else if ty = 9 then
      let (s, f1) := fadd f32 rne 0 ((fmtOf 9).val a) ((fmtOf 9).val b)
      let (t, f2) := (fmtOf 9).roundVal rne (f32.val s)
      (t, f1 ||| f2)
    else ((a + b) % 2 ^ w, 0)
  | 1 | 2 =>
    let isMax := op == 1
    if tyF ty then fminmax (fmtOf ty) isMax a b
    else
      let (x, y) := (intVal ty a, intVal ty b)
      ((if (x ≤ y) = isMax then b else a), 0)
  | 3 => (a &&& b, 0)
  | 4 => (a ||| b, 0)
  | _ => (a ^^^ b, 0)

/-- One cell of AMOL (R94): each active element of the cell is combined; `en` holds the byte enables. -/
def amolCell (op : Nat) (ty : BitVec 4) (old data en : Nat) : Nat :=
  let w := tyWidth ty
  joinBits w ((List.range (32 / w)).map (fun j =>
    let o := old >>> (w * j) % 2 ^ w
    if en.testBit (w * j / 8) then (combine op ty o (data >>> (w * j) % 2 ^ w)).1 else o))

/-- The effect of a cell on memory (R89 to R94): what it reads and what it writes. -/
def State.performCell (s : State) (kind : RKind) (c : RCell) : State × RCell :=
  let old := s.read c.key c.bytes
  match kind with
  | .load => (s, { c with got := some old, done := true })
  | .store => (s.writeEn c.key c.bytes c.data c.en, { c with done := true })
  | .amo op => (s.write c.key c.bytes (amoResult op (8 * c.bytes) old c.data), { c with got := some old, done := true })
  | .cas =>
    (if old = c.exp then s.write c.key c.bytes c.data else s, { c with got := some old, done := true })
  | .amol op ty => (s.write c.key c.bytes (amolCell op ty old c.data c.en), { c with done := true })
  | .evadd => (s.addCounter c.key (BitVec.ofNat 64 c.data), { c with done := true })

/-! ## Arrival (R86, R186, R187, R202) -/

/-- Where an arriving result stands behind a fixed-latency write to the same place: in flight, in the program bank, in the
system bank, or nowhere. -/
inductive Behind where
  | flight | progBank | sysBank | nothing
  deriving DecidableEq, Repr

/-- Put a late entry after the last entry that satisfies `p` and lands no earlier than any other such, with the same
count. -/
def holdBehind (p : Eff → Bool) (e : Eff) (fs : List Flight) : Option (List Flight) :=
  let m := (fs.filter (fun f => p f.eff)).foldl (fun k f => max k f.remain) 0
  if fs.any (fun f => p f.eff) then
    let last := ((fs.zipIdx).filter (fun (f, _) => p f.eff && f.remain == m)).getLast?
    match last with
    | some (f, i) => some (fs.take (i + 1) ++ ⟨e, m, f.slot, true, 0, none⟩ :: fs.drop (i + 1))
    | none => none
  else none

/-- Hold a result behind a write in flight of context `sup` or in a bank; what remains to be done when there is none. -/
def Core.holdResult (c : Core) (sup handler : Bool) (p : Eff → Bool) (e : Eff) : Option Core :=
  let x := if sup then c.sup else c.prog
  match holdBehind p e x.flight with
  | some fs => some (if sup then { c with sup := { c.sup with flight := fs } }
                     else { c with prog := { c.prog with flight := fs } })
  | none =>
    if sup then none
    else
      let inSys := c.sysBank.bind (fun b => (holdBehind p e b.entries).map (fun es => { b with entries := es }))
      match inSys with
      | some b => some { c with sysBank := some b }
      | none =>
        if handler then none
        else (c.progBank.bind (fun b => (holdBehind p e b.entries).map (fun es => { b with entries := es }))).map
          (fun b => { c with progBank := some b })

/-- Change one of a core's contexts. -/
def Core.modSide (c : Core) (sup : Bool) (f : Ctx → Ctx) : Core :=
  if sup then { c with sup := f c.sup } else { c with prog := f c.prog }

/-- A value arrives in a scalar register, which becomes full (R187). -/
def Core.arriveReg (c : Core) (sup handler : Bool) (r : Nat) (v : W64) : Core :=
  let c := match c.holdResult sup handler (fun e => match e with | .sreg q _ => q == r && r != 0 | _ => false) (.sreg r v) with
    | some c => c
    | none => c.modSide sup (fun x => x.setSreg r v)
  c.modSide sup (fun x => x.setFull r)

/-- A completeness predicate arrives. -/
def Core.arrivePred (c : Core) (sup handler : Bool) (p : Nat) (v : Bool) : Core :=
  match c.holdResult sup handler (fun e => match e with | .pred q _ => q == p && p != 0 | _ => false) (.pred p v) with
  | some c => c
  | none => c.modSide sup (fun x => x.setPred p v)

/-- The lane of a line that a cell of its tile is; the anti-diagonal when `ad`. -/
def lineLane (sp : BitVec 13) (ad : Bool) (row col : Nat) : Option Nat :=
  match specKind sp with
  | 0 => if row == specIndex sp then some col else none
  | 1 => if col == specIndex sp then some row else none
  | _ => if (if ad then (row + col) % 128 == specIndex sp else (row + specIndex sp) % 128 == col) then some row else none

/-- Whether a result in flight writes some bit of a cell. -/
def effTouches (tile row col : Nat) : Eff → Bool
  | .lines spec en data =>
    specTile spec && specTileNo spec == tile &&
      (List.range data.length).any (fun k =>
        (lineLane (specAdvance spec k) false row col).any (fun i => lineElem 32 en i != 0))
  | .antidiag spec en _ =>
    specTileNo spec == tile && (lineLane spec true row col).any (fun i => lineElem 32 en i != 0)
  | _ => false

/-- Whether a result in flight writes some cell of a line. -/
def effMeets (spec : BitVec 13) (ad : Bool) (e : Eff) : Bool :=
  lanes.any (fun i => effTouches (specTileNo spec) (laneCell spec ad i).1 (laneCell spec ad i).2 e)

/-- Whether a line that arrives has room: a write port's full queue makes it wait (R102). -/
def Core.lineRoom (c : Core) (spec : BitVec 13) : Bool :=
  match specWrite spec with
  | some p => (c.port p).queue.length < 8
  | none => true

/-- A line arrives: whole behind a write in flight to one of its cells (R187, R202), or at once; its cells become full. A write
port receives it whole; the discard takes nothing. -/
def Core.arriveLine (c : Core) (handler : Bool) (spec : BitVec 13) (ad : Bool) (vals : List (Nat × Nat)) : Core :=
  if specTile spec then
    let put (sel : Nat → Nat) := lineOf 32 (lanes.map (fun i => (vals.find? (·.1 == i)).elim 0 (fun p => sel p.2)))
    let en := put (fun _ => 2 ^ 32 - 1)
    let c := match c.holdResult false handler (effMeets spec ad)
        (if ad then .antidiag spec en (put id) else .lines spec en [put id]) with
      | some c => c
      | none => { c with tiles := putTileLine c.tiles spec ad en (put id) }
    { c with cellEmpty := markLanes c.cellEmpty spec ad lanes false }
  else match specWrite spec with
    | some p =>
      c.setPort p { c.port p with queue := (c.port p).queue ++ [lineOf 32 (lanes.map (fun i => (vals.find? (·.1 == i)).elim 0 (·.2)))] }
    | none => c

/-- Mark a destination empty at the issue of a variable-latency access. -/
def Core.emptyDst (c : Core) : RDst → Core
  | .none => c
  | .sreg r _ _ => c.setCtx (c.ctx.setEmpty r)
  | .line spec ad _ _ _ _ =>
    if specTile spec then { c with cellEmpty := markLanes c.cellEmpty spec ad lanes true } else c

/-- Sign or zero extension of what an access read. -/
def extend (sx : Bool) (bits v width : Nat) : Nat := if sx then lowBits (signExt v bits) width else v % 2 ^ bits

/-- Whether an identity belongs to the supervisor's context (Core.start). -/
def supId (id : Nat) : Bool := 2 ^ 40 ≤ id

/-- The result of an access that has performed arrives. -/
def Core.arriveAccess (c : Core) (sup : Bool) (r : Racc) : Core :=
  let got := r.cells.map (fun k => k.got.getD 0)
  let c := c.modSide sup (fun x => { x with racc := x.racc.filter (fun q => q.id != r.id) })
  match r.dst with
  | .none => c
  | .sreg d bits sx => c.arriveReg sup r.handler d (BitVec.ofNat 64 (extend sx bits (got.headD 0) 64))
  | .line spec ad picks bits sx zeroed =>
    let vals := picks.map (fun (i, k, o) => (i, extend sx bits (got.getD k 0 >>> (8 * o)) 32))
    let zs := (lanes.filter (fun i => zeroed.getLsbD i)).map (fun i => (i, 0))
    c.arriveLine r.handler spec ad (vals ++ zs)

end Sys2Proof.Machine
end

