-- ==== Sys2Proof/Machine/LoadStore.lean ====
section
/-! DEFINITION. Scalar, line and indexed loads and stores, atomics and group loads (R84 to R98). Each operation's meaning is
the record that the issue of its bundle uses. -/

namespace Sys2Proof.Machine

open Sys2Proof.Num

/-- The latency of scalar and line loads and atomics on space 0x00 (R86). -/
def loadLatency : Nat := 6

/-- LNOP (R89). -/
def semLnop : OpSem := {}
/-- The meaning of LNOP. -/
def execLnop (h : Hdr) (s : State) : Host.Outcome State Fault Refusal := issueSlot h (.lnop h) semLnop s

/-! ## Scalar loads and stores (R90) -/

/-- SignExt of an offset of `n` bits, as an addend. -/
def offset {n : Nat} (o : BitVec n) : W64 := o.signExtend 64

/-- The wait of an access to local memory: it performs with its bundle, so the bundle stalls until what orders it has
performed (R272). -/
def localWait (t : Except Nat Target) (c : Core) (rel write : Bool) : Bool :=
  match t with
  | .ok d => d.bundled && !(c.waitIds rel write).isEmpty
  | .error _ => false

/-- A scalar load from an address. -/
def loadAct (v : Env) (a : W64) (dest : BitVec 6) (size : Nat) (sx : Bool) (ord : BitVec 2) (s : State) : State :=
  match resolveAccess v.c v.core false a (2 ^ size) (2 ^ size) with
  | .error _ => s
  | .ok t =>
    let bits := 8 * 2 ^ size
    if t.fixed then
      v.landReg s dest (BitVec.ofNat 64 (extend sx bits (v.s.read t.key (2 ^ size)) 64)) loadLatency 0 (some v.pc)
    else
      let cell := newCell t.key (2 ^ size) 0 0 0
      let cell := if t.bundled then { cell with got := some (v.s.read t.key (2 ^ size)), done := true } else cell
      let dst := RDst.sreg dest.toNat bits sx
      (s.addAccess v.core v.c .load (ordAcq ord && !t.bundled) false false true [cell] dst v.pc t.handle).modCore v.core
        (·.emptyDst dst)

/-- A scalar store to an address: local memory at the end of the bundle, other memory when it performs. -/
def storeAct (v : Env) (a : W64) (data : W64) (size : Nat) (ord : BitVec 2) (s : State) : State :=
  match resolveAccess v.c v.core false a (2 ^ size) (2 ^ size) with
  | .error _ => s
  | .ok t =>
    let d := data.toNat % 2 ^ (8 * 2 ^ size)
    if t.bundled then s.write t.key (2 ^ size) d
    else s.addAccess v.core v.c .store false (ordRel ord) true false
      [newCell t.key (2 ^ size) d (allBytes (2 ^ size)) 0] .none v.pc t.handle

/-- The target of a scalar access. -/
def Env.scalarTarget (v : Env) (a : W64) (size : Nat) : Except Nat Target :=
  resolveAccess v.c v.core false a (2 ^ size) (2 ^ size)

/-- Post-increment of a base register after 1 issue. -/
def postInc (v : Env) (base : Src) (off : W64) (s : State) : State := v.landReg s base.r (v.src base + off) 1 0

/-- The address of an operand in the offset mode. -/
def memAddr (o : Mem) (v : Env) : W64 := v.src o.base + offset o.off
/-- The address in the indexed mode. -/
def memIdxAddr (o : MemIdx) (v : Env) : W64 := v.src o.base + v.src o.index <<< o.size.toNat

/-- LD in the offset mode. -/
def semLd (o : Mem) : OpSem :=
  { srcs := [srcRef o.base], dsts := [.reg o.reg.toNat],
    wait := fun v => localWait (v.scalarTarget (memAddr o v) o.size.toNat) v.c false false,
    check := fun v => accessTrap (memAddr o v) (v.scalarTarget (memAddr o v) o.size.toNat),
    act := fun v s => loadAct v (memAddr o v) o.reg o.size.toNat o.bit36 o.ord s }
/-- The meaning of LD. -/
def execLd (h : Hdr) (o : Mem) (s : State) : Host.Outcome State Fault Refusal := issueSlot h (.ld h o) (semLd o) s

/-- LD in the indexed mode. -/
def semLdIndexed (o : MemIdx) : OpSem :=
  { srcs := [srcRef o.base, srcRef o.index], dsts := [.reg o.reg.toNat],
    wait := fun v => localWait (v.scalarTarget (memIdxAddr o v) o.size.toNat) v.c false false,
    check := fun v => accessTrap (memIdxAddr o v) (v.scalarTarget (memIdxAddr o v) o.size.toNat),
    act := fun v s => loadAct v (memIdxAddr o v) o.reg o.size.toNat o.bit36 o.ord s }
/-- The meaning of LD_INDEXED. -/
def execLdIndexed (h : Hdr) (o : MemIdx) (s : State) : Host.Outcome State Fault Refusal :=
  issueSlot h (.ldIndexed h o) (semLdIndexed o) s

/-- LD in the post-increment mode. -/
def semLdPostinc (o : Mem) : OpSem :=
  { srcs := [srcRef o.base], dsts := [.reg o.reg.toNat],
    wait := fun v => localWait (v.scalarTarget (v.src o.base) o.size.toNat) v.c false false,
    check := fun v => accessTrap (v.src o.base) (v.scalarTarget (v.src o.base) o.size.toNat),
    act := fun v s => postInc v o.base (offset o.off) (loadAct v (v.src o.base) o.reg o.size.toNat o.bit36 o.ord s) }
/-- The meaning of LD_POSTINC. -/
def execLdPostinc (h : Hdr) (o : Mem) (s : State) : Host.Outcome State Fault Refusal :=
  issueSlot h (.ldPostinc h o) (semLdPostinc o) s

/-- The data source of ST: its FE bit is bit 36. -/
def memData (o : Mem) : Src := ⟨o.reg, o.bit36⟩
/-- As above in the indexed mode. -/
def memIdxData (o : MemIdx) : Src := ⟨o.reg, o.bit36⟩

/-- ST in the offset mode. -/
def semSt (o : Mem) : OpSem :=
  { srcs := [srcRef (memData o), srcRef o.base],
    wait := fun v => localWait (v.scalarTarget (memAddr o v) o.size.toNat) v.c (ordRel o.ord) true,
    check := fun v => accessTrap (memAddr o v) (v.scalarTarget (memAddr o v) o.size.toNat),
    store := fun v s => storeAct v (memAddr o v) (v.src (memData o)) o.size.toNat o.ord s }
/-- The meaning of ST. -/
def execSt (h : Hdr) (o : Mem) (s : State) : Host.Outcome State Fault Refusal := issueSlot h (.st h o) (semSt o) s

/-- ST in the indexed mode. -/
def semStIndexed (o : MemIdx) : OpSem :=
  { srcs := [srcRef (memIdxData o), srcRef o.base, srcRef o.index],
    wait := fun v => localWait (v.scalarTarget (memIdxAddr o v) o.size.toNat) v.c (ordRel o.ord) true,
    check := fun v => accessTrap (memIdxAddr o v) (v.scalarTarget (memIdxAddr o v) o.size.toNat),
    store := fun v s => storeAct v (memIdxAddr o v) (v.src (memIdxData o)) o.size.toNat o.ord s }
/-- The meaning of ST_INDEXED. -/
def execStIndexed (h : Hdr) (o : MemIdx) (s : State) : Host.Outcome State Fault Refusal :=
  issueSlot h (.stIndexed h o) (semStIndexed o) s

/-- ST in the post-increment mode. -/
def semStPostinc (o : Mem) : OpSem :=
  { srcs := [srcRef (memData o), srcRef o.base],
    wait := fun v => localWait (v.scalarTarget (v.src o.base) o.size.toNat) v.c (ordRel o.ord) true,
    check := fun v => accessTrap (v.src o.base) (v.scalarTarget (v.src o.base) o.size.toNat),
    act := fun v s => postInc v o.base (offset o.off) s,
    store := fun v s => storeAct v (v.src o.base) (v.src (memData o)) o.size.toNat o.ord s }
/-- The meaning of ST_POSTINC. -/
def execStPostinc (h : Hdr) (o : Mem) (s : State) : Host.Outcome State Fault Refusal :=
  issueSlot h (.stPostinc h o) (semStPostinc o) s

/-! ## Line loads and stores (R91) -/

/-- The trap of a line-form operation in supervisor mode (R192, R200). -/
def lineForm (v : Env) (t : Option Trap) : Option Trap := if v.c.inSup then some (privFault 4) else t

/-- The target of a line access: 512 bytes, 64-byte aligned. -/
def Env.lineTarget (v : Env) (a : W64) : Except Nat Target := resolveAccess v.c v.core false a 512 64

/-- The 128 cells of a line access. -/
def lineCells (key : Nat) (data en : Line → Nat → Nat) (l e : Line) : List RCell :=
  lanes.map (fun i => newCell (key + 4 * i) 4 (data l i) (en e i) 0)

/-- Whether an LDL or LDX goes to a place whose push counts. -/
def notePush (v : Env) (spec : BitVec 13) (s : State) : State :=
  match (if specTile spec then none else specWrite spec) with
  | some p => s.modCore v.core (fun c => c.setPort p { c.port p with pushed := (c.port p).pushed + 1 })
  | none => s

/-- The pushes of a destination specifier. -/
def pushesOf (spec : BitVec 13) : List Nat := if specTile spec then [] else (specWrite spec).toList

/-- Land a line whose lanes follow AD, after a fixed latency. -/
def landLoadLine (v : Env) (spec : BitVec 13) (ad : Bool) (en data : Line) (l : Nat) (s : State) : State :=
  if ad then s.land v.core (flightOf (.antidiag spec en data) l v.slot 0 (some v.pc))
  else v.landLines s spec en [data] l 0 (some v.pc)

/-- The lanes of a line whose cells are those of an access, in order. -/
def wholePicks : List (Nat × Nat × Nat) := lanes.map (fun i => (i, i, 0))

/-- LDL from an address. -/
def ldlAct (v : Env) (a : W64) (o : LineMem) (s : State) : State :=
  match v.lineTarget a with
  | .error _ => s
  | .ok t =>
    if t.fixed then
      landLoadLine v o.line o.ad fullLine (BitVec.ofNat 4096 (v.s.read t.key 512)) loadLatency s
    else
      let cells := lanes.map (fun i =>
        let c := newCell (t.key + 4 * i) 4 0 0 0
        if t.bundled then { c with got := some (v.s.read (t.key + 4 * i) 4), done := true } else c)
      let dst := RDst.line o.line o.ad wholePicks 32 false 0
      (notePush v o.line
        (s.addAccess v.core v.c .load (ordAcq o.ord && !t.bundled) false false true cells dst v.pc t.handle)).modCore v.core
        (·.emptyDst dst)

/-- The line that STL stores; a broadcast holds the whole register in every 8 bytes (R30). -/
def lineMemData (o : LineMem) (v : Env) : Line :=
  if specTile o.line then tileLine v.c.tiles o.line o.ad else v.line o.line 64 0

/-- STL to an address, under the byte mask. -/
def stlStore (v : Env) (a : W64) (o : LineMem) (s : State) : State :=
  match v.lineTarget a with
  | .error _ => s
  | .ok t =>
    let m := (v.c.mask o.mask.toNat).toNat
    let d := (lineMemData o v).toNat
    if t.bundled then s.writeEn t.key 512 d m
    else s.addAccess v.core v.c .store false (ordRel o.ord) true false
      ((lanes.filter (fun i => m >>> (4 * i) % 16 != 0)).map (fun i =>
        newCell (t.key + 4 * i) 4 (d >>> (32 * i) % 2 ^ 32) (m >>> (4 * i) % 16) 0)) .none v.pc t.handle

/-- The address of a line access in the offset mode. -/
def lineMemAddr (o : LineMem) (v : Env) : W64 := v.src o.base + offset o.off

/-- LDL in the offset mode. -/
def semLdl (o : LineMem) : OpSem :=
  { srcs := [srcRef o.base], dsts := [.line o.line 1 o.ad], pushes := pushesOf o.line,
    wait := fun v => localWait (v.lineTarget (lineMemAddr o v)) v.c false false,
    check := fun v => lineForm v (accessTrap (lineMemAddr o v) (v.lineTarget (lineMemAddr o v))),
    act := fun v s => ldlAct v (lineMemAddr o v) o s }
/-- The meaning of LDL. -/
def execLdl (h : Hdr) (o : LineMem) (s : State) : Host.Outcome State Fault Refusal :=
  issueSlot h (.ldl h o) (semLdl o) s

/-- LDL in the post-increment mode. -/
def semLdlPostinc (o : LineMem) : OpSem :=
  { srcs := [srcRef o.base], dsts := [.line o.line 1 o.ad], pushes := pushesOf o.line,
    wait := fun v => localWait (v.lineTarget (v.src o.base)) v.c false false,
    check := fun v => lineForm v (accessTrap (v.src o.base) (v.lineTarget (v.src o.base))),
    act := fun v s => postInc v o.base (offset o.off) (ldlAct v (v.src o.base) o s) }
/-- The meaning of LDL_POSTINC. -/
def execLdlPostinc (h : Hdr) (o : LineMem) (s : State) : Host.Outcome State Fault Refusal :=
  issueSlot h (.ldlPostinc h o) (semLdlPostinc o) s

/-- STL in the offset mode. -/
def semStl (o : LineMem) : OpSem :=
  { srcs := [.line o.line 1 64 o.ad false, srcRef o.base],
    wait := fun v => localWait (v.lineTarget (lineMemAddr o v)) v.c (ordRel o.ord) true,
    check := fun v => lineForm v (accessTrap (lineMemAddr o v) (v.lineTarget (lineMemAddr o v))),
    store := fun v s => stlStore v (lineMemAddr o v) o s }
/-- The meaning of STL. -/
def execStl (h : Hdr) (o : LineMem) (s : State) : Host.Outcome State Fault Refusal :=
  issueSlot h (.stl h o) (semStl o) s

/-- STL in the post-increment mode. -/
def semStlPostinc (o : LineMem) : OpSem :=
  { srcs := [.line o.line 1 64 o.ad false, srcRef o.base],
    wait := fun v => localWait (v.lineTarget (v.src o.base)) v.c (ordRel o.ord) true,
    check := fun v => lineForm v (accessTrap (v.src o.base) (v.lineTarget (v.src o.base))),
    act := fun v s => postInc v o.base (offset o.off) s,
    store := fun v s => stlStore v (v.src o.base) o s }
/-- The meaning of STL_POSTINC. -/
def execStlPostinc (h : Hdr) (o : LineMem) (s : State) : Host.Outcome State Fault Refusal :=
  issueSlot h (.stlPostinc h o) (semStlPostinc o) s

/-! ## Gathers and scatters (R92) -/

/-- The active lanes: bit 4i of the mask. -/
def gatherActive (o : Gather) (v : Env) : List Nat := lanes.filter (fun i => (v.c.mask o.mask.toNat).getLsbD (4 * i))

/-- The index line of a gather: the second line source of STX when the data line names the same port. -/
def gatherIndexLine (o : Gather) (v : Env) (store : Bool) : Line :=
  if store then v.line2 o.line o.index 32 else v.line o.index 32 0

/-- A lane's address and where it goes; a carry out of the offset bits fails with 2. -/
def gatherLane (o : Gather) (v : Env) (idx : Line) (i : Nat) : W64 × Except Nat Target :=
  let off := lineElem 32 idx i <<< (if o.sc then o.size.toNat else 0)
  let b := v.src o.base
  let a := b + BitVec.ofNat 64 off
  let n := 2 ^ o.size.toNat
  if b.toNat % 2 ^ 56 + off < 2 ^ 56 then (a, resolveAccess v.c v.core false a n n)
  else (a, match resolveAccess v.c v.core false (BitVec.ofNat 64 (b.toNat / 2 ^ 56 * 2 ^ 56)) n n with
    | .error 1 => .error 1
    | _ => .error 2)

/-- The first failing lane of a gather or scatter. -/
def gatherCheck (o : Gather) (v : Env) (store : Bool) : Option Trap :=
  let idx := gatherIndexLine o v store
  (gatherActive o v).findSome? (fun i =>
    let (a, t) := gatherLane o v idx i
    accessTrap a t)

/-- Whether the space of a gather is local, or of fixed latency: that of its base, which every lane shares. -/
def gatherSpace (o : Gather) (v : Env) : Nat := (v.src o.base).toNat >>> 56

/-- The wait of a gather or scatter on local memory. -/
def gatherWait (o : Gather) (v : Env) (rel write : Bool) : Bool := gatherSpace o v ≤ 1 && !(v.c.waitIds rel write).isEmpty

/-- The lanes whose address passes its checks, with their targets. -/
def gatherTargets (o : Gather) (v : Env) (store : Bool) : List (Nat × Target) :=
  (gatherActive o v).filterMap (fun i => match (gatherLane o v (gatherIndexLine o v store) i).2 with
    | .ok t => some (i, t)
    | .error _ => none)

/-- The 32-bit cells of memory that the lanes of a gather or scatter touch, each once (R269). -/
def gatherCells (ts : List (Nat × Target)) : List Nat := (ts.map (fun (_, t) => t.key / 4 * 4)).dedup

/-- LDX. A lane that is not active and not zeroed is zero in a line pushed to a write port, where no earlier value of its
cell stands: DESIGN CHOICE (log 56). -/
def ldxAct (v : Env) (o : Gather) (s : State) : State :=
  let act := gatherActive o v
  let n := 2 ^ o.size.toNat
  let ts := gatherTargets o v false
  let zeroed := if o.z then lanes.filter (fun i => !act.contains i) else []
  if gatherSpace o v = 0 then
    let vals := ts.map (fun (i, t) => (i, extend o.sx (8 * n) (v.s.read t.key n) 32))
    let data := lineOf 32 (lanes.map (fun i => (vals.find? (·.1 == i)).elim 0 (·.2)))
    let en := enableOf 32 (lanes.map (fun i => act.contains i || zeroed.contains i))
    v.landLines s o.line en [data] 8 0 (some v.pc)
  else
    let cells := (gatherCells ts).map (fun k =>
      let c := newCell k 4 0 0 0
      if gatherSpace o v ≤ 1 then { c with got := some (v.s.read k 4), done := true } else c)
    let picks := ts.map (fun (i, t) => (i, (gatherCells ts).idxOf (t.key / 4 * 4), t.key % 4))
    let zs := zeroed.foldl (fun (z : BitVec 128) i => z ||| BitVec.ofNat 128 (2 ^ i)) 0
    let dst := RDst.line o.line false picks (8 * n) o.sx zs
    (notePush v o.line
      (s.addAccess v.core v.c .load (ordAcq o.ord && 2 ≤ gatherSpace o v) false false true cells dst v.pc
        (ts.head?.bind (·.2.handle)))).modCore v.core (·.emptyDst dst)

/-- The data and the byte enables that lanes of `n` bytes leave for a cell of memory: a higher lane wins (R89). -/
def scatterCell (n key : Nat) (ts : List (Nat × Target)) (word : Nat → Nat) : Nat × Nat :=
  (ts.filter (fun (_, t) => t.key / 4 * 4 == key)).foldl (fun (d, e) (i, t) =>
    let sh := t.key % 4
    let m := allBytes (8 * n) <<< (8 * sh)
    (d - (d &&& m) + word i <<< (8 * sh), e ||| allBytes n <<< sh)) (0, 0)

/-- STX: within one, a higher lane wins. Remote memory is written cell by cell. -/
def stxStore (v : Env) (o : Gather) (s : State) : State :=
  let data := v.line o.line 32 0
  let n := 2 ^ o.size.toNat
  let word (i : Nat) : Nat := lineElem 32 data i % 2 ^ (8 * n)
  let ts := gatherTargets o v true
  if gatherSpace o v ≤ 1 then ts.foldl (fun s (i, t) => s.write t.key n (word i)) s
  else s.addAccess v.core v.c .store false (ordRel o.ord) true false
    ((gatherCells ts).map (fun k => let (d, e) := scatterCell n k ts word; newCell k 4 d e 0)) .none v.pc
    (ts.head?.bind (·.2.handle))

/-- LDX: its sources are BASE and INDEX, by their places in the word INDEX first. -/
def semLdx (o : Gather) : OpSem :=
  { srcs := [lineRef o.index 32, srcRef o.base], dsts := [.line o.line 1 false], pushes := pushesOf o.line,
    wait := fun v => gatherWait o v false false, check := fun v => lineForm v (gatherCheck o v false), act := fun v s => ldxAct v o s }
/-- The meaning of LDX. -/
def execLdx (h : Hdr) (o : Gather) (s : State) : Host.Outcome State Fault Refusal := issueSlot h (.ldx h o) (semLdx o) s

/-- STX. -/
def semStx (o : Gather) : OpSem :=
  { srcs := [lineRef o.line 32, lineRef o.index 32, srcRef o.base],
    wait := fun v => gatherWait o v (ordRel o.ord) true, check := fun v => lineForm v (gatherCheck o v true),
    store := fun v s => stxStore v o s }
/-- The meaning of STX. -/
def execStx (h : Hdr) (o : Gather) (s : State) : Host.Outcome State Fault Refusal := issueSlot h (.stx h o) (semStx o) s

/-! ## Atomics (R93, R94) -/

/-- An atomic on one cell: at once on local memory, when it performs elsewhere. The old value goes to the register. -/
def atomicAct (v : Env) (a : W64) (dest : BitVec 6) (size : Nat) (ord : BitVec 2) (kind : RKind) (data exp : Nat)
    (s : State) : State :=
  match v.scalarTarget a size with
  | .error _ => s
  | .ok t =>
    let n := 2 ^ size
    let cell := newCell t.key n data (allBytes n) exp
    let dst := RDst.sreg dest.toNat (8 * n) false
    if t.bundled then
      let (s, c) := s.performCell kind cell
      if t.fixed then v.landReg s dest (BitVec.ofNat 64 (c.got.getD 0)) loadLatency 0 (some v.pc)
      else (s.addAccess v.core v.c kind false false false true [c] dst v.pc none).modCore v.core (·.emptyDst dst)
    else
      (s.addAccess v.core v.c kind (ordAcq ord) (ordRel ord) true true [cell] dst v.pc t.handle).modCore v.core
        (·.emptyDst dst)

/-- AMO. -/
def semAmo (o : Amo) : OpSem :=
  { srcs := [srcRef o.addr, srcRef o.val], dsts := [.reg o.dest.toNat],
    wait := fun v => localWait (v.scalarTarget (v.src o.addr) o.size.toNat) v.c (ordRel o.ord) true,
    check := fun v => accessTrap (v.src o.addr) (v.scalarTarget (v.src o.addr) o.size.toNat),
    atom := fun v s => atomicAct v (v.src o.addr) o.dest o.size.toNat o.ord (.amo o.op.toNat)
      ((v.src o.val).toNat % 2 ^ (8 * 2 ^ o.size.toNat)) 0 s }
/-- The meaning of AMO. -/
def execAmo (h : Hdr) (o : Amo) (s : State) : Host.Outcome State Fault Refusal := issueSlot h (.amo h o) (semAmo o) s

/-- CAS. -/
def semCas (o : Cas) : OpSem :=
  { srcs := [srcRef o.addr, srcRef o.exp, srcRef o.new], dsts := [.reg o.dest.toNat],
    wait := fun v => localWait (v.scalarTarget (v.src o.addr) o.size.toNat) v.c (ordRel o.ord) true,
    check := fun v => accessTrap (v.src o.addr) (v.scalarTarget (v.src o.addr) o.size.toNat),
    atom := fun v s => atomicAct v (v.src o.addr) o.dest o.size.toNat o.ord .cas
      ((v.src o.new).toNat % 2 ^ (8 * 2 ^ o.size.toNat)) ((v.src o.exp).toNat % 2 ^ (8 * 2 ^ o.size.toNat)) s }
/-- The meaning of CAS. -/
def execCas (h : Hdr) (o : Cas) (s : State) : Host.Outcome State Fault Refusal := issueSlot h (.cas h o) (semCas o) s

/-- The byte enables of AMOL: the bytes of active elements. -/
def amolEnables (o : Amol) (v : Env) : Nat :=
  let w := tyWidth o.ty
  joinBits (w / 8) ((maskBits (v.c.mask o.mask.toNat) w).map (fun b => if b then 2 ^ (w / 8) - 1 else 0))

/-- The address of AMOL. R94 has OFF a multiple of 64 and gives no consequence of one that is not: the address alone is
tested, so such an OFF executes where BASE + OFF is aligned. DESIGN CHOICE (log 44). -/
def amolAddr (o : Amol) (v : Env) : W64 := v.src o.base + offset o.off

/-- AMOL: each cell with an active element is one read-modify-write. On local memory it performs with its bundle and leaves
a result that writes nothing, of the latency of an atomic: the error that its read may meet (R87, R361) returns while that
is in flight. -/
def amolAct (v : Env) (o : Amol) (s : State) : State :=
  match v.lineTarget (amolAddr o v) with
  | .error _ => s
  | .ok t =>
    let en := amolEnables o v
    let d := v.line o.src (tyWidth o.ty) 0
    let cells := (lanes.filter (fun i => en >>> (4 * i) % 16 != 0)).map (fun i =>
      newCell (t.key + 4 * i) 4 (lineElem 32 d i) (en >>> (4 * i) % 16) 0)
    let kind := RKind.amol o.op.toNat o.ty
    if t.bundled then
      (cells.foldl (fun s c => (s.performCell kind c).1) s).land v.core (flightOf .void loadLatency v.slot 0 (some v.pc))
    else s.addAccess v.core v.c kind (ordAcq o.ord) (ordRel o.ord) true true cells .none v.pc t.handle

/-- AMOL. -/
def semAmol (o : Amol) : OpSem :=
  { srcs := [lineRef o.src (tyWidth o.ty), srcRef o.base],
    wait := fun v => localWait (v.lineTarget (amolAddr o v)) v.c (ordRel o.ord) true,
    check := fun v => lineForm v (accessTrap (amolAddr o v) (v.lineTarget (amolAddr o v))),
    atom := fun v s => amolAct v o s }
/-- The meaning of AMOL. -/
def execAmol (h : Hdr) (o : Amol) (s : State) : Host.Outcome State Fault Refusal :=
  issueSlot h (.amol h o) (semAmol o) s

/-! ## Group loads (R95 to R98, R283 to R285) -/

/-- The installed group that a core is a member of. -/
def State.groupOf (s : State) (g core : Nat) : Option Group :=
  (s.groups.find g).filter (fun v => recField v.entry 0 core 1 == 1)

/-- The checks of a group load at its requester (R84, R85, R95): the lowest failing NUM. -/
def groupCheck (s : State) (core : Nat) (a : W64) (n align : Nat) : Option Nat :=
  let v := a.toNat
  if v >>> 56 ≠ 4 then some 1
  else
    let off := v % 2 ^ 21
    firstFailing
      [(v >>> 21 % 2 ^ 27 != 0, 2), (v % align != 0, 3),
       (match s.groupOf (v >>> 48 % 256) core with
        | some g => groupSize g.entry < off + n
        | none => true, 5)]

/-- The trap of a group load. -/
def groupTrap (s : State) (core : Nat) (a : W64) (n align : Nat) : Option Trap :=
  (groupCheck s core a n align).map (fun k => addrFault k a)

/-- What a group load reads of its own core at its issue: the own unit scratchpad is local, so it performs with its bundle
(R269, R270, R272). -/
def ownCells (v : Env) (g : Group) (ty : BitVec 4) (line : Option (BitVec 13)) (off : Nat) : FMap W32 :=
  (List.range (groupCells line)).map (fun i =>
    (i, BitVec.ofNat 32 (v.s.read (groupPlace g off v.core + 4 * i) (groupBytes ty line))))

/-- The members of a group, of which nothing has been read but at the core itself. -/
def freshMembers (v : Env) (g : Group) (ty : BitVec 4) (line : Option (BitVec 13)) (off : Nat) :
    List (Nat × Option (FMap W32)) :=
  (groupMembers g.entry).map (fun m => (m, some (if m = v.core then ownCells v g ty line off else [])))

/-- The earlier accesses of a core that a new group load follows cell by cell: those to a place that it reads (R272). -/
def groupWaits (v : Env) (g : Group) (ty : BitVec 4) (line : Option (BitVec 13)) (off : Nat) : List Nat :=
  let places := ((groupMembers g.entry).filter (· != v.core)).map (fun m =>
    newCell (groupPlace g off m) (groupBytes ty line * groupCells line) 0 0 0)
  v.c.conflictIds places ++ v.s.groupConflicts v.core places

/-- The wait of a group load: it reads local memory with its bundle. -/
def groupWait (v : Env) (a : W64) : Bool :=
  (v.s.groupOf (a.toNat >>> 48 % 256) v.core).isSome && !(v.c.waitIds false false).isEmpty

/-- A group load becomes outstanding; its identity is numbered with the accesses'. -/
def groupAct (v : Env) (a : W64) (op : Nat) (ty : BitVec 4) (line : Option (BitVec 13)) (dest cp : Nat) (ord : BitVec 2)
    (s : State) : State :=
  match v.s.groupOf (a.toNat >>> 48 % 256) v.core with
  | none => s
  | some g =>
    let s := s.modCore v.core (fun c =>
      let x := c.ctx
      c.setCtx { x with
        nextId := x.nextId + 1,
        vars := x.vars ++ [{ id := x.nextId, pc := v.pc, handler := c.progBank.isSome,
                             kind := .gload (a.toNat >>> 48 % 256) op ty (a.toNat % 2 ^ 21) line dest cp
                               (freshMembers v g ty line (a.toNat % 2 ^ 21)) false (ordAcq ord)
                               (groupWaits v g ty line (a.toNat % 2 ^ 21)) }] })
    match line with
    | some spec => notePush v spec (s.modCore v.core (·.emptyDst (.line spec false [] 32 false 0)))
    | none => s.modCore v.core (·.emptyDst (.sreg dest 64 false))

/-- The address of a group load. -/
def gldAddr (o : Gld) (v : Env) : W64 := v.src o.base + offset o.off
def gldsAddr (o : Glds) (v : Env) : W64 := v.src o.base + offset o.off

/-- The bytes that GLDS reads. -/
def gldsBytes (o : Glds) : Nat := if o.ty = 9 then 2 else 4

/-- GLD. -/
def semGld (o : Gld) : OpSem :=
  { srcs := [srcRef o.base], dsts := [.line o.line 1 false, .pred o.cp.toNat], pushes := pushesOf o.line,
    wait := fun v => !v.c.inSup && groupWait v (gldAddr o v),
    check := fun v => lineForm v (groupTrap v.s v.core (gldAddr o v) 512 64),
    act := fun v s => groupAct v (gldAddr o v) o.op.toNat o.ty (some o.line) 0 o.cp.toNat o.ord s }
/-- The meaning of GLD. -/
def execGld (h : Hdr) (o : Gld) (s : State) : Host.Outcome State Fault Refusal := issueSlot h (.gld h o) (semGld o) s

/-- GLDS. -/
def semGlds (o : Glds) : OpSem :=
  { srcs := [srcRef o.base], dsts := [.reg o.dest.toNat, .pred o.cp.toNat],
    wait := fun v => !v.c.inSup && groupWait v (gldsAddr o v),
    check := fun v => if v.c.inSup then some (privFault 5) else groupTrap v.s v.core (gldsAddr o v) (gldsBytes o) (gldsBytes o),
    act := fun v s => groupAct v (gldsAddr o v) o.op.toNat o.ty none o.dest.toNat o.cp.toNat o.ord s }
/-- The meaning of GLDS. -/
def execGlds (h : Hdr) (o : Glds) (s : State) : Host.Outcome State Fault Refusal :=
  issueSlot h (.glds h o) (semGlds o) s

end Sys2Proof.Machine
end

