-- ==== Sys2Proof/Machine/Ports.lean ====
section
/-! DEFINITION. Stream ports and buffer handles (R99 to R107). -/

namespace Sys2Proof.Machine

open Sys2Proof.Num

/-! ## Ports -/

/-- The lowest and the highest line address of a walk (R100). -/
def portCorners (r : BitVec 512) : Int × Int :=
  (List.range 4).foldl (fun (lo, hi) l =>
    let d := ((portCount r l : Int) - 1) * portStride r l
    (lo + min 0 d, hi + max 0 d)) ((recField r 0 0 64 : Int), (recField r 0 0 64 : Int))

/-- Whether a parameter record is malformed for a port (R100). -/
def portMalformed (r : BitVec 512) (port : Nat) : Bool :=
  let (lo, hi) := portCorners r
  let mode := recField r 40 0 2
  recField r 56 0 64 != 0 || recField r 40 2 62 != 0 || (List.range 4).any (fun l => portCount r l == 0) ||
  2 ≤ mode || (mode == 1 && 8 ≤ port) || !unitLineOk lo || !unitLineOk hi

/-- The address of PCFG's record. -/
def pcfgAddr (o : Pcfg) (v : Env) : W64 := v.src o.base + offset o.off

/-- The record that PCFG reads at issue. -/
def pcfgRecord (o : Pcfg) (v : Env) : Except Nat (BitVec 512) :=
  match resolveAccess v.c v.core true (pcfgAddr o v) 64 64 with
  | .error k => .error k
  | .ok t => .ok (BitVec.ofNat 512 (v.s.read t.key 64))

/-- The destination that takes nothing (R30). -/
def discardSpec : BitVec 13 := 0xFFF

/-- The pushes in flight to a write port, and the lines awaited for it, are dropped with its queue. -/
def Core.dropPushes (c : Core) (port : Nat) : Core :=
  let flight := c.prog.flight.filter (fun f => match f.eff with
    | .push q _ => 8 + q != port
    | _ => true)
  let racc := c.prog.racc.map (fun r => match r.dst with
    | .line spec _ _ _ _ _ => if specWrite spec == some port then { r with dst := .none } else r
    | _ => r)
  let vars := c.prog.vars.map (fun v => match v.kind with
    | .gload g op ty off (some spec) d cp ms f acq ws =>
      if specWrite spec == some port then { v with kind := .gload g op ty off (some discardSpec) d cp ms f acq ws } else v
    | _ => v)
  { c with prog := { c.prog with flight := flight, racc := racc, vars := vars } }

/-- PCFG. -/
def semPcfg (o : Pcfg) : OpSem :=
  { srcs := [srcRef o.base],
    wait := fun v => !(v.c.waitIds false false).isEmpty,
    check := fun v =>
      if v.c.inSup then some (privFault 4)
      else match pcfgRecord o v with
        | .error k => some (addrFault k (pcfgAddr o v))
        | .ok r => if portMalformed r o.port.toNat then some (addrFault 7 (o.port.setWidth 64)) else none,
    act := fun v s =>
      match pcfgRecord o v with
      | .error _ => s
      | .ok r => s.modCore v.core (fun c =>
          (c.dropPushes o.port.toNat).setPort o.port.toNat { Port.start with conf := true, record := r }) }
/-- The meaning of PCFG. -/
def execPcfg (h : Hdr) (o : Pcfg) (s : State) : Host.Outcome State Fault Refusal :=
  issueSlot h (.pcfg h o) (semPcfg o) s

/-- Whether a write port still holds lines, or awaits lines of memory. -/
def Core.portBusy (c : Core) (port : Nat) : Bool :=
  !(c.port port).queue.isEmpty || c.linesAwaited port != 0

/-- PRST. A push that lands after it finds the port unconfigured. -/
def semPrst (o : PortOp) : OpSem :=
  { wait := fun v => 8 ≤ o.port.toNat && v.c.portBusy o.port.toNat,
    check := fun v => if v.c.inSup then some (privFault 4) else none,
    act := fun v s => s.modCore v.core (fun c => (c.dropPushes o.port.toNat).setPort o.port.toNat Port.start) }
/-- The meaning of PRST. -/
def execPrst (h : Hdr) (o : PortOp) (s : State) : Host.Outcome State Fault Refusal :=
  issueSlot h (.prst h o) (semPrst o) s

/-- The 128 row offsets of an index line. -/
def rowOffsets (s : State) (core : Nat) (a : Nat) : List Nat := splitBits 32 128 (s.read (unitKey core + a) 512)

/-- The name under which cells read ahead are kept: line `k` of a walk; in indexed mode a row of the index line taken last,
by the rows still to come. -/
def Port.aheadKey (p : Port) : Nat := if p.rows.isEmpty then p.taken * 129 else (p.taken - 1) * 129 + p.rows.length

/-- A line of the unit scratchpad of a core, in which cells that were read ahead keep the value read then (R102). -/
def aheadLine (s : State) (core : Nat) (a : Nat) (got : FMap W32) : Line :=
  let now := s.read (unitKey core + a) 512
  if got.isEmpty then BitVec.ofNat 4096 now
  else lineOf 32 (lanes.map (fun i => (got.find i).elim (now >>> (32 * i) % 2 ^ 32) BitVec.toNat))

/-- The generator of a read port reads cells of a line ahead (R102): line `k` of its walk that it has not taken, or, from
`portTotal` on, a row still to come of the index line taken last. A cell is read once. -/
def readAhead (s : State) (core port k : Nat) (cells : BitVec 128) : State :=
  let c := s.core core
  let p := c.port port
  let n := portTotal p.record
  let place : Option (Nat × Int) :=
    if k < n then (if p.taken ≤ k then some (k * 129, portAddr p.record k) else none)
    else (p.rows[k - n]?).map (fun off => ((p.taken - 1) * 129 + (p.rows.length - (k - n)), (recField p.record 48 0 64 : Int) + off))
  match place with
  | none => s
  | some (key, a) =>
    if !p.conf || 8 ≤ port || (c.lineFault a).isSome then s
    else
      let got := (List.range 128).foldl (fun (g : FMap W32) i =>
        if cells.getLsbD i && (g.find i).isNone then g.put i (BitVec.ofNat 32 (s.read (unitKey core + a.toNat + 4 * i) 4))
        else g) (p.early.look [] key)
      s.setCore core (c.setPort port { p with early := p.early.put key got })

/-- One move of a read port's generator (R100, R101): it queues a row of the index line at hand, or takes the next line of
its walk; at a line that may not be read it stops. -/
def fillPort (s : State) (core port : Nat) : State :=
  let c := s.core core
  let p := c.port port
  if !p.conf || 8 ≤ port || 8 ≤ p.queue.length || p.exhausted || (c.portStop p).isSome then s
  else
    let a := p.nextAddr.toNat
    let line := aheadLine s core a (p.early.look [] p.aheadKey)
    let p := { p with early := p.early.drop p.aheadKey }
    let q := match p.rows with
      | _ :: rows => { p with rows := rows, queue := p.queue ++ [line] }
      | [] =>
        if portIndexed p.record then { p with taken := p.taken + 1, rows := lineElems 32 line }
        else { p with taken := p.taken + 1, queue := p.queue ++ [line] }
    s.setCore core (c.setPort port q)

/-- A write port writes its oldest line to the next address of its walk (R100). -/
def drainPort (s : State) (core port : Nat) : State :=
  let c := s.core core
  let p := c.port port
  match p.queue with
  | [] => s
  | l :: r =>
    if !p.conf || port < 8 then s
    else
      (s.setCore core (c.setPort port { p with queue := r, taken := p.taken + 1 })).write
        (unitKey core + (portAddr p.record p.taken).toNat) 512 l.toNat

/-! ## Handles -/

/-- The privilege trap of a handle operation in supervisor mode. -/
def handleOp (v : Env) (t : Option Trap) : Option Trap := if v.c.inSup then some (privFault 5) else t

/-- Peer position and size of a description. -/
def descPeer (d : W64) : Nat := d.toNat % 16
def descSize (d : W64) : Nat := d.toNat / 256 % 128

/-- The regions that lower slots of the bundle lend. -/
def Env.given (v : Env) : List (Nat × Nat × Nat) :=
  v.lower.filterMap (fun u => match u with
    | .give b n p => some (b, n, p)
    | _ => none)

/-- The check of HGIVE (R104): the region is 4 KiB-aligned in space 0x00; a bad description, a loan of what is lent
already, or a seventeenth loan is refused with 8, the loans of lower slots of the bundle counted. -/
def hgiveCheck (v : Env) (a d : W64) : Option Trap :=
  let n := 4096 * max 1 (descSize d)
  let off := a.toNat % 2 ^ 56
  let bad := d.toNat &&& (2 ^ 64 - 1 - 0x7F0F) != 0 || descSize d == 0 || 64 < descSize d ||
    descPeer d == v.core % 16 || v.c.isLent off n || v.given.any (fun (b, k, _) => off < b + 4096 * k && b < off + n) ||
    16 ≤ v.c.lent.length + v.given.length
  (firstFailing [(a.toNat >>> 56 != 0, 1), (2 ^ 21 < off + n, 2), (a.toNat % 4096 != 0, 3), (bad, 8)]).map
    (fun k => addrFault k a)

/-- HGIVE. -/
def semHgive (o : Hgive) : OpSem :=
  { srcs := [srcRef o.base, srcRef o.desc], dsts := [.reg o.dest.toNat],
    handles := fun v => [.give (v.src o.base).toNat (descSize (v.src o.desc)) (descPeer (v.src o.desc))],
    wait := fun v => !v.c.pendingIds.isEmpty ||
      16 ≤ (v.s.core (peerOf v.core (descPeer (v.src o.desc)))).offers.length +
        (v.given.filter (fun g => g.2.2 == descPeer (v.src o.desc))).length,
    check := fun v => handleOp v (hgiveCheck v (v.src o.base) (v.src o.desc)),
    act := fun v s =>
      let d := v.src o.desc
      let base := (v.src o.base).toNat
      let r : Lent := { id := (s.core v.core).nextLent, base := base, size := descSize d, peer := descPeer d, taken := false, slot := 0,
                        dest := o.dest.toNat, status := none, handler := v.c.progBank.isSome }
      let s := s.modCore v.core (fun c =>
        (c.emptyDst (.sreg o.dest.toNat 64 false)))
      let s := s.modCore v.core (fun c => { c with lent := c.lent ++ [r], nextLent := c.nextLent + 1 })
      s.modCore (peerOf v.core (descPeer d)) (fun c => { c with offers := c.offers ++
        [{ giver := v.core % 16, region := r.id, base := base, size := descSize d }] }) }
/-- The meaning of HGIVE. -/
def execHgive (h : Hdr) (o : Hgive) (s : State) : Host.Outcome State Fault Refusal :=
  issueSlot h (.hgive h o) (semHgive o) s

/-- Core `n` accepts its oldest offer into a slot (R105): the slot is held, the giver's loan is taken, and the register
becomes full. -/
def acceptOffer (s : State) (n slot dest : Nat) (handler : Bool) : State :=
  match (s.core n).offers with
  | [] => s
  | f :: fs =>
    let s := s.modCore n (fun c =>
      { c with offers := fs,
               held := c.held.put slot { reserved := false, base := f.base, owner := f.giver, size := f.size, dest := dest } })
    let s := s.modCore (peerOf n f.giver) (fun c => { c with lent := c.lent.map (fun r =>
      if r.base = f.base ∧ r.peer = n % 16 ∧ !r.taken ∧ r.status = none then { r with taken := true, slot := slot } else r) })
    s.modCore n (fun c => c.arriveReg false handler dest (BitVec.ofNat 64 (f.giver + 256 * f.size)))

/-- The oldest HTAKE that waits for an offer. -/
def Core.waitingTake (c : Core) : Option (Nat × Nat × Nat × Bool) :=
  c.prog.vars.findSome? (fun v => match v.kind with
    | .htake d h => some (v.id, d, h, v.handler)
    | _ => none)

/-- HTAKE: a slot that is held, reserved, or taken by a lower slot of the bundle faults, trapinfo holding the slot's number
(DESIGN CHOICE, log 53: no address is involved). It accepts the oldest offer unless an earlier HTAKE still waits for one,
and reserves its slot otherwise; the accesses issued before the offer comes do not wait for it, an access through the slot
faulting until then (DESIGN CHOICE, log 53). -/
def semHtake (o : Htake) : OpSem :=
  { dsts := [.reg o.dest.toNat], handles := fun _ => [.take o.h.toNat],
    check := fun v => handleOp v (if (v.c.held.find o.h.toNat).isSome || v.lower.contains (.take o.h.toNat) then
      some (addrFault 8 (o.h.setWidth 64)) else none),
    act := fun v s =>
      let s := s.modCore v.core (fun c => c.emptyDst (.sreg o.dest.toNat 64 false))
      if (s.core v.core).offers.isEmpty || (s.core v.core).waitingTake.isSome then
        s.modCore v.core (fun c =>
          let w : Var := { id := c.prog.nextId, pc := v.pc, handler := c.progBank.isSome,
                           kind := .htake o.dest.toNat o.h.toNat }
          { c with held := c.held.put o.h.toNat { reserved := true, base := 0, owner := 0, size := 0, dest := o.dest.toNat },
                   prog := { c.prog with nextId := c.prog.nextId + 1, vars := c.prog.vars ++ [w] } })
      else acceptOffer s v.core o.h.toNat o.dest.toNat v.c.progBank.isSome }
/-- The meaning of HTAKE. -/
def execHtake (h : Hdr) (o : Htake) (s : State) : Host.Outcome State Fault Refusal :=
  issueSlot h (.htake h o) (semHtake o) s

/-- An offer that has arrived is accepted into the slot reserved first (R105). -/
def takeOffer (s : State) (n : Nat) : State :=
  match (s.core n).waitingTake, (s.core n).offers with
  | some (id, d, h, handler), _ :: _ =>
    acceptOffer (s.modCore n (fun c => { c with prog := { c.prog with vars := c.prog.vars.filter (·.id != id) } }))
      n h d handler
  | _, _ => s

/-- HBACK: it releases at cluster scope, and the region goes back with 0 (R104, R106). A slot that is not held, or that a
lower slot of the bundle gives back, faults, trapinfo holding its number (DESIGN CHOICE, log 53). -/
def semHback (o : Hback) : OpSem :=
  { handles := fun _ => [.back o.h.toNat], wait := fun v => !v.c.pendingIds.isEmpty,
    check := fun v => handleOp v (match v.c.held.find o.h.toNat with
      | some d => if d.reserved || v.lower.contains (.back o.h.toNat) then some (addrFault 4 (o.h.setWidth 64)) else none
      | none => some (addrFault 4 (o.h.setWidth 64))),
    act := fun v s => s.giveBack v.core o.h.toNat 0 }
/-- The meaning of HBACK. -/
def execHback (h : Hdr) (o : Hback) (s : State) : Host.Outcome State Fault Refusal :=
  issueSlot h (.hback h o) (semHback o) s

/-- A region's return completes at its owner (R104, R106): the destination becomes full, and the region is the owner's
again. -/
def finishReturn (s : State) (n region : Nat) : State :=
  match (s.core n).lent.find? (fun r => r.id == region) with
  | some r =>
    match r.status with
    | some k => s.modCore n (fun c =>
        { (c.arriveReg false r.handler r.dest (BitVec.ofNat 64 k)) with lent := c.lent.filter (·.id != region) })
    | none => s
  | none => s

end Sys2Proof.Machine
end

