-- ==== Sys2Proof/Machine/Commands.lean ====
section
/-! DEFINITION. Engine commands as a core hands them over (R166 to R174, R278, R317 to R322, R328): the transfer record and
its checks, acceptance with the tag state, fences, and the parking of requests whose translation fails. -/

namespace Sys2Proof.Machine

open Sys2Proof.Num

/-! ## The transfer record (R317 to R319) -/

def trSrc (r : BitVec 512) : Nat := recField r 0 0 64
def trDst (r : BitVec 512) : Nat := recField r 8 0 64
def trEsize (r : BitVec 512) : Nat := 2 ^ recField r 24 16 2
def trTag (r : BitVec 512) : Nat := recField r 24 18 6
def trOrd (r : BitVec 512) : BitVec 2 := BitVec.ofNat 2 (recField r 24 24 2)
def trScope (r : BitVec 512) : Nat := recField r 24 26 3
def trNt (r : BitVec 512) : Bool := recField r 24 29 1 == 1
def trPlanned (r : BitVec 512) : Bool := recField r 24 30 1 == 1
def trSwap (r : BitVec 512) : Bool := recField r 24 31 1 == 1
def trFill (r : BitVec 512) : Bool := recField r 24 32 1 == 1
def trPkg (r : BitVec 512) : Nat := recField r 24 33 12
def trRside (r : BitVec 512) : Bool := recField r 24 45 1 == 1
def trRemote (r : BitVec 512) : Bool := recField r 24 46 1 == 1

/-- Extent of a level; a field of 0 is read as 1. -/
def trExtent (r : BitVec 512) (l : Nat) : Nat :=
  max 1 (match l with
    | 0 => recField r 16 0 24
    | 1 => recField r 16 24 24
    | 2 => recField r 16 48 16
    | _ => recField r 24 0 16)

/-- Stride of a level at the source. -/
def trSstr (r : BitVec 512) (l : Nat) : Int := signExt (recField r (32 + 4 * l) 0 32) 32

/-- Stride of a level at the destination; SWAP exchanges levels 0 and 1. -/
def trDstr (r : BitVec 512) (l : Nat) : Int :=
  let l := if trSwap r then (match l with
    | 0 => 1
    | 1 => 0
    | k => k) else l
  signExt (recField r (48 + 4 * l) 0 32) 32

/-- The number of elements. -/
def trCount (r : BitVec 512) : Nat := trExtent r 0 * trExtent r 1 * trExtent r 2 * trExtent r 3

/-- The indices of an element by its linear index. -/
def trIndex (r : BitVec 512) (e : Nat) : List Nat :=
  digits [trExtent r 0, trExtent r 1, trExtent r 2, trExtent r 3] e

/-- The address of element `e` on one side: base and strides given. -/
def trAddr (r : BitVec 512) (base : Nat) (stride : Nat → Int) (e : Nat) : Int :=
  ((trIndex r e).zipIdx).foldl (fun a (i, l) => a + i * stride l) (base : Int)

/-- The lowest and the highest address of the elements of one side. -/
def trCorners (r : BitVec 512) (base : Nat) (stride : Nat → Int) : Int × Int :=
  (List.range 4).foldl (fun (lo, hi) l =>
    let d := ((trExtent r l : Int) - 1) * stride l
    (lo + min 0 d, hi + max 0 d)) ((base : Int), (base : Int))

/-- The bytes of the space that an address of a record lies in: first and length (R266, R318); none when the space is
refused (R267). -/
def trSpace (sup : Bool) (a : Nat) : Option (Nat × Nat) :=
  match a >>> 56 with
  | 0x00 => some (0, 2 ^ 21)
  | 0x01 => some (2 ^ 56, 2 ^ 24)
  | 0x02 => some (2 * 2 ^ 56, 2 ^ 27)
  | 0x03 => some (3 * 2 ^ 56 + a >>> 48 % 4 * 2 ^ 48, 2 ^ 27)
  | 0x10 => some (0x10 * 2 ^ 56, 2 ^ 48)
  | 0x11 => some (0x11 * 2 ^ 56, 2 ^ 48)
  | 0xF0 => if sup then some (0xF0 * 2 ^ 56, 2 ^ 26) else none
  | _ => none

/-- Whether one side of a copy is bad: its space, its alignment, or an element outside the space. -/
def trSideBad (sup : Bool) (r : BitVec 512) (base : Nat) (stride : Nat → Int) : Bool :=
  match trSpace sup base with
  | none => true
  | some (lo, n) =>
    let (a, b) := trCorners r base stride
    let es := trEsize r
    base % es != 0 || (List.range 4).any (fun l => stride l % (es : Int) != 0) || a < lo || lo + n < b + es

/-- Whether an address is device memory. -/
def isDevice (a : Nat) : Bool := a >>> 56 == 0x10 || a >>> 56 == 0x11

/-- Whether the engine fails a record at once (R267, R319, R322). -/
def trMalformed (sup : Bool) (r : BitVec 512) : Bool :=
  let remoteSide := if trRside r then trDst r else trSrc r
  recField r 24 47 17 != 0 || 6 ≤ trScope r ||
  (!trFill r && trSideBad sup r (trSrc r) (trSstr r)) || trSideBad sup r (trDst r) (trDstr r) ||
  (trFill r && (List.range 4).any (fun l => trSstr r l % (trEsize r : Int) != 0)) ||
  (trRemote r && !isDevice remoteSide) || (!trRemote r && trPkg r != 0) ||
  (trFill r && trRemote r && !trRside r) ||
  (trPlanned r && (trRemote r || !(trFill r || isDevice (trSrc r)) || 4 ≤ trDst r >>> 56 ||
    65536 < trCount r * trEsize r))

/-! ## Acceptance and tags (R166, R167, R278) -/

/-- Commands waiting in the engine's queue of a cluster. -/
def State.copiesQueued (s : State) (cluster : Nat) : Nat :=
  (s.copies.filter (fun c => c.phase == .queued && clusterOf c.core == cluster)).length

/-- Copies in flight of a core's mode. -/
def State.copiesOf (s : State) (n : Nat) (sup : Bool) : List Copy :=
  s.copies.filter (fun c => c.core == n && c.sup == sup && !c.orphan)

/-- Whether a copy can be accepted: fewer than 256 in flight, and a place in the engine's queue. -/
def State.copyRoom (s : State) (n : Nat) (sup : Bool) : Bool :=
  (s.copiesOf n sup).length < 256 && s.copiesQueued (clusterOf n) < 256

/-- A TFIND that issued after a command keeps no mark that the command's acceptance clears: bits that a later TCLR had it
keep are of a completion before that acceptance (R167, R168). -/
def Ctx.dropTags (x : Ctx) (before : Nat) (m : W64) : Ctx :=
  { x with vars := x.vars.map (fun v => match v.kind with
      | .tfind d k a b => if before < v.id then { v with kind := .tfind d k (a &&& ~~~m) b } else v
      | _ => v) }

/-- The tag state on acceptance of a copy, whose command issued after the awaited results numbered below `before`. -/
def Ctx.tagAccept (x : Ctx) (before t : Nat) : Ctx :=
  let m := BitVec.ofNat 64 (2 ^ t)
  { ((x.noteTags before m).dropTags before m).putSpec SR.tagmap (x.spec SR.tagmap &&& ~~~m) with
    oc := x.oc.put t (x.oc.look 0 t + 1) }

/-- The tag state on completion of a copy. -/
def Ctx.tagComplete (x : Ctx) (t : Nat) (failed : Bool) : Ctx :=
  let x := if failed then x.putSpec SR.tagerr (x.spec SR.tagerr ||| BitVec.ofNat 64 (2 ^ t)) else x
  let k := x.oc.look 0 t - 1
  let x := { x with oc := x.oc.put t k }
  if k = 0 then x.putSpec SR.tagmap (x.spec SR.tagmap ||| BitVec.ofNat 64 (2 ^ t)) else x

/-- The time by which a planned copy completes when it is counted from now (R322). -/
def State.plannedDue (s : State) (n bytes : Nat) : Nat := s.time + 1200 + 10 * bytes / max 1 (s.core n).ceRate

/-- Every copy that core `n` has handed over and that is not complete, whichever mode handed it over (R279). -/
def State.copiesBy (s : State) (n : Nat) : List Copy := s.copies.filter (fun c => c.core == n)

/-- Whether no planned copy of core `n` is under way. -/
def State.plannedAlone (s : State) (n : Nat) : Bool := (s.copiesBy n).all (fun c => !trPlanned c.record)

/-- A planned copy of core `n` has left the engine: the next one, of either mode, is counted from now (R322). -/
def State.planNext (s : State) (n : Nat) : State :=
  if (s.copiesBy n).any (fun c => trPlanned c.record && c.due.isSome) then s
  else match (s.copiesBy n).find? (fun c => trPlanned c.record) with
    | some k =>
      let due := some (s.plannedDue n (trCount k.record * trEsize k.record))
      { s with copies := s.copies.map (fun c => if c.id = k.id then { k with due := due } else c) }
    | none => s

/-- A copy of core `n` is accepted. Its release waits for every earlier copy of the core (R278, R279). -/
def State.acceptCopy (s : State) (n : Nat) (sup : Bool) (before : Nat) (r : BitVec 512) (readWaits writeWaits : List Nat) : State :=
  let first := s.plannedAlone n
  let c : Copy :=
    { id := s.nextCopy, core := n, sup := sup, record := r, phase := .queued, readWaits := readWaits,
      writeWaits := writeWaits, earlier := if ordRel (trOrd r) then (s.copiesBy n).map (·.id) else [], failed := false, progress := 0,
      data := [], done := [], orphan := false, sent := [], lifted := false,
      due := if trPlanned r && first then some (s.plannedDue n (trCount r * trEsize r)) else none }
  { s with copies := s.copies ++ [c], nextCopy := s.nextCopy + 1 }.modCore n (fun k =>
    k.modSide sup (fun x => x.tagAccept before (trTag r)))

/-! ## Fences (R172) -/

/-- A standalone fence on a context: the accesses of it that what comes after an acquire and after a release follows. -/
def Ctx.fence (x : Ctx) (acq rel : Bool) : List Nat × List Nat :=
  let live := x.pendingIds
  ((x.afterAcq.filter live.contains ++ (if acq then x.pendingReads else [])).dedup,
   (x.afterRel.filter live.contains ++ (if rel then live else [])).dedup)

/-- A standalone fence on a core: it orders what its program and its supervisor have issued. -/
def Core.fence (c : Core) (acq rel : Bool) : Core :=
  let (a, b) := c.prog.fence acq rel
  let (d, e) := c.sup.fence acq rel
  { c with prog := { c.prog with afterAcq := a, afterRel := b }, sup := { c.sup with afterAcq := d, afterRel := e } }

/-- A core takes up the orderings that a fence of another state of it has left. -/
def Core.takeFence (c f : Core) : Core :=
  { c with prog := { c.prog with afterAcq := f.prog.afterAcq, afterRel := f.prog.afterRel },
           sup := { c.sup with afterAcq := f.sup.afterAcq, afterRel := f.sup.afterRel } }

/-- A fence as the operation's orderings say, of the accesses of earlier bundles (R172). -/
def fenceAct (v : Env) (acq rel : Bool) (s : State) : State :=
  s.modCore v.core (fun c => c.takeFence (v.c.fence acq rel))

/-- The accesses that an engine command's reads and its writes follow: with acquire, its reads follow every earlier
access (R278). -/
def Core.commandWaits (c : Core) (acq rel : Bool) : List Nat × List Nat :=
  let r := (c.waitIds false true ++ (if acq then c.pendingIds else [])).dedup
  (r, (r ++ c.waitIds rel true).dedup)

/-- Whether a copy has parked, and is not yet to complete as failed: a saved context can hold it then (R171, R279). -/
def Copy.rests (c : Copy) : Bool :=
  !c.failed && (match c.phase with
    | .parked .. => true
    | _ => false)

/-- The side of a core by mode. -/
def Core.side (c : Core) (sup : Bool) : Ctx := if sup then c.sup else c.prog

/-! ## Parking (R326, R328) -/

/-- Whether an identity of a parked request is in use: by one that is parked, or by one that a saved context holds
(R330). -/
def State.parkUsed (s : State) (i : Nat) : Bool := (s.xl.parked.find i).isSome || s.xl.away.contains i

/-- An identity for a parked request: a free value, or the lowest unused one when that is taken; when saved contexts leave
none, the lowest that is not parked. -/
def State.freshPark (s : State) : BitVec 16 :=
  let c := Config.parkId s.free
  if !s.parkUsed c.toNat then c
  else match (List.range 65536).find? (fun i => !s.parkUsed i) with
    | some i => BitVec.ofNat 16 i
    | none => BitVec.ofNat 16 (((List.range 65536).find? (fun i => (s.xl.parked.find i).isNone)).getD 0)

/-- KIND of a fault record; another package's access is one of a copy. -/
def ReqKind.code : ReqKind → Nat
  | .copy => 0
  | .skim => 1
  | .sequencer => 2
  | .fabric => 0

/-- The fault record of a parked request. -/
def faultRecord (q : Request) (id : BitVec 16) : BitVec 256 :=
  record32 (q.reason ++ q.space ++ q.va)
    (BitVec.ofNat 64 (q.write.toNat * 2 ^ 29 + q.unit.toNat * 2 ^ 19 + q.kind.code * 2 ^ 16 + id.toNat)) q.place 0

/-- Park a request: it gets an identity and a fault record. At the limit of 65,536 it waits unparked. -/
def State.park (s : State) (q : Request) : State × Option (BitVec 16) :=
  if 65536 ≤ s.xl.parked.length then (s, none)
  else
    let id := s.freshPark
    let s := { s with free := s.free + 1, xl := { s.xl with parked := s.xl.parked.put id.toNat q } }
    (s.ringPost .translation (faultRecord q id), some id)

end Sys2Proof.Machine
end

