-- ==== Sys2Proof/Machine/SkimRecord.lean ====
section
/-! DEFINITION. The skim record (R345, R346). What the engines do with it is in Machine/SkimEngine.lean. -/

namespace Sys2Proof.Machine

/-- A skim record. -/
abbrev SkimRec := BitVec 1024

def skAlg (r : SkimRec) : Nat := recField r 0 0 3
def skStream (r : SkimRec) : Bool := recField r 0 3 1 == 1
def skGtype (r : SkimRec) : BitVec 4 := BitVec.ofNat 4 (recField r 0 4 4)
def skMomtype (r : SkimRec) : BitVec 4 := BitVec.ofNat 4 (recField r 0 8 4)
def skWkind (r : SkimRec) : Nat := recField r 0 12 4
def skRm (r : SkimRec) : Nat := recField r 0 16 3
def skDoneCtr (r : SkimRec) : Nat := recField r 0 20 12
def skDoneEn (r : SkimRec) : Bool := recField r 0 32 1 == 1
def skDoneInc (r : SkimRec) : Nat := recField r 0 40 16
def skStep (r : SkimRec) : Nat := recField r 8 0 64
def skLr (r : SkimRec) : Nat := recField r 16 0 32
def skWd (r : SkimRec) : Nat := recField r 16 32 32
def skBeta1 (r : SkimRec) : Nat := recField r 24 0 32
def skBeta2 (r : SkimRec) : Nat := recField r 24 32 32
def skEps (r : SkimRec) : Nat := recField r 32 0 32
def skCols (r : SkimRec) : Nat := recField r 32 32 32
def skCount (r : SkimRec) : Nat := recField r 40 0 48
def skMaster (r : SkimRec) : Nat := recField r 48 0 64
def skMom1 (r : SkimRec) : Nat := recField r 56 0 64
def skMom2 (r : SkimRec) : Nat := recField r 64 0 64
def skWork (r : SkimRec) : Nat := recField r 72 0 64
def skWscale (r : SkimRec) : Nat := recField r 80 0 64
def skGrad (r : SkimRec) : Nat := recField r 88 0 64
def skRscale (r : SkimRec) : Nat := recField r 96 0 64
def skGuard (r : SkimRec) : Nat := recField r 104 0 64

/-- The bytes of an element of a floating type. -/
def floatBytes (ty : BitVec 4) : Nat := if ty = 8 then 4 else 2

/-- Whether an address field is none, or an address of space 0x10 with an alignment. -/
def skAddrOk (a align : Nat) : Bool := a == 0 || (a / 2 ^ 48 == 0x1000 && a % align == 0)

/-- Whether a record is malformed (R346). -/
def skimMalformed (r : SkimRec) : Bool :=
  recField r 112 0 128 != 0 || recField r 40 48 16 != 0 || recField r 0 56 8 != 0 || recField r 0 33 7 != 0 ||
  recField r 0 19 1 != 0 ||
  3 < skAlg r || !(skGtype r == 8 || skGtype r == 9 || skGtype r == 10) || !(skMomtype r == 8 || skMomtype r == 9) ||
  2 < skWkind r || 5 < skRm r || skCount r == 0 || 2 ^ 40 < skCount r ||
  skMaster r == 0 || !skAddrOk (skMaster r) 64 || !skAddrOk (skGuard r) 4 || !skAddrOk (skRscale r) 4 ||
  !skAddrOk (skGrad r) (floatBytes (skGtype r)) || !skAddrOk (skMom1 r) (floatBytes (skMomtype r)) ||
  !skAddrOk (skMom2 r) (floatBytes (skMomtype r)) || !skAddrOk (skWork r) (if skWkind r = 1 then 2 else 1) ||
  !skAddrOk (skWscale r) 1 ||
  skMom1 r == 0 || ((skMom2 r == 0) == (skAlg r == 2)) || ((skWork r == 0) == (skWkind r != 0)) ||
  (skWscale r != 0 && skWkind r != 2) ||
  (if skWkind r = 2 then skCols r == 0 || skCols r % 16 != 0 || skCount r % (16 * skCols r) != 0 else skCols r != 0) ||
  (skAlg r == 2 && skStep r == 0) ||
  (if skStream r then skGrad r != 0 || skDoneEn r else skGrad r == 0)

end Sys2Proof.Machine
end

