-- ==== Sys2Proof/Machine/Async.lean ====
section
/-! DEFINITION. The asynchronous commands and synchronisation of the C slot (R161 to R182). -/

namespace Sys2Proof.Machine

open Sys2Proof.Num

/-- CNOP (R42). -/
def semCnop : OpSem := {}
/-- The meaning of CNOP. -/
def execCnop (h : Hdr) (s : State) : Host.Outcome State Fault Refusal := issueSlot h (.cnop h) semCnop s

/-! ## Records (R161, R163, R166) -/

/-- The address of a record or entry. -/
def recAddr (v : Env) (base : Src) (off : BitVec 16) : W64 := v.src base + offset off

/-- The check of a record of `n` bytes, aligned to its size, in the own unit scratchpad. -/
def recCheck (v : Env) (a : W64) (n : Nat) : Option Trap := accessTrap a (resolveAccess v.c v.core true a n n)

/-- The record as read at issue. -/
def recRead (v : Env) (a : W64) (n : Nat) : Nat :=
  match resolveAccess v.c v.core true a n n with
  | .ok t => v.s.read t.key n
  | .error _ => 0

/-- A variable-latency result other than an access becomes awaited. -/
def addVar (v : Env) (k : VarKind) (s : State) : State :=
  s.modCore v.core (fun c =>
    let x := c.ctx
    c.setCtx { x with nextId := x.nextId + 1,
                      vars := x.vars ++ [{ id := x.nextId, kind := k, pc := v.pc, handler := c.progBank.isSome }] })

/-- A variable-latency result for a scalar register: the register becomes empty. -/
def addVarReg (v : Env) (dest : BitVec 6) (k : VarKind) (s : State) : State :=
  (addVar v k s).modCore v.core (·.emptyDst (.sreg dest.toNat 64 false))

/-! ## Copies (R166) -/

/-- Whether a context has a COPYNB whose status has not arrived. -/
def Ctx.copynbOut (x : Ctx) : Bool :=
  x.vars.any (fun v => match v.kind with
    | .copynb .. => true
    | _ => false)

/-- COPY. -/
def semCopy (o : RecOp) : OpSem :=
  { srcs := [srcRef o.base],
    wait := fun v => v.x.copynbOut || !v.s.copyRoom v.core v.c.inSup || !(v.c.waitIds false false).isEmpty,
    check := fun v => recCheck v (recAddr v o.base o.off) 64,
    act := fun v s =>
      let r := BitVec.ofNat 512 (recRead v (recAddr v o.base o.off) 64)
      let (rw, ww) := v.c.commandWaits (ordAcq (trOrd r)) (ordRel (trOrd r))
      (fenceAct v (ordAcq (trOrd r)) (ordRel (trOrd r)) s).acceptCopy v.core v.c.inSup v.x.nextId r rw ww }
/-- The meaning of COPY. -/
def execCopy (h : Hdr) (o : RecOp) (s : State) : Host.Outcome State Fault Refusal :=
  issueSlot h (.copy h o) (semCopy o) s

/-- COPYNB. -/
def semCopynb (o : RecDst) : OpSem :=
  { srcs := [srcRef o.base], dsts := [.reg o.dest.toNat],
    wait := fun v => !(v.c.waitIds false false).isEmpty,
    check := fun v => recCheck v (recAddr v o.base o.off) 64,
    act := fun v s =>
      let r := BitVec.ofNat 512 (recRead v (recAddr v o.base o.off) 64)
      let (rw, ww) := v.c.commandWaits (ordAcq (trOrd r)) (ordRel (trOrd r))
      addVarReg v o.dest (.copynb o.dest.toNat r rw ww) (fenceAct v (ordAcq (trOrd r)) (ordRel (trOrd r)) s) }
/-- The meaning of COPYNB. -/
def execCopynb (h : Hdr) (o : RecDst) (s : State) : Host.Outcome State Fault Refusal :=
  issueSlot h (.copynb h o) (semCopynb o) s

/-! ## Tags (R168, R169) -/

/-- Whether a tag wait must wait: it reads tagmap after every earlier COPYNB has its status; a mask of 0 never waits. -/
def tagWait (o : TagMask) (met : W64 → W64 → Bool) (v : Env) : Bool :=
  let m := v.src o.mask
  m != 0 && (v.x.copynbOut || !met (v.x.spec SR.tagmap) m)

/-- TWANY. -/
def semTwany (o : TagMask) : OpSem :=
  { srcs := [srcRef o.mask], wait := tagWait o (fun t m => t &&& m != 0) }
/-- The meaning of TWANY. -/
def execTwany (h : Hdr) (o : TagMask) (s : State) : Host.Outcome State Fault Refusal :=
  issueSlot h (.twany h o) (semTwany o) s
/-- TWALL. -/
def semTwall (o : TagMask) : OpSem :=
  { srcs := [srcRef o.mask], wait := tagWait o (fun t m => t &&& m == m) }
/-- The meaning of TWALL. -/
def execTwall (h : Hdr) (o : TagMask) (s : State) : Host.Outcome State Fault Refusal :=
  issueSlot h (.twall h o) (semTwall o) s
/-- TFIND. -/
def semTfind (o : Tfind) : OpSem :=
  { srcs := [srcRef o.mask], dsts := [.reg o.dest.toNat],
    act := fun v s => addVarReg v o.dest (.tfind o.dest.toNat (v.src o.mask) 0 0) s }
/-- The meaning of TFIND. -/
def execTfind (h : Hdr) (o : Tfind) (s : State) : Host.Outcome State Fault Refusal :=
  issueSlot h (.tfind h o) (semTfind o) s
/-- The value of a TFIND. -/
def tfindValue (tagmap tagerr m : W64) : W64 :=
  if m = 0 then 0x40
  else match (List.range 64).find? (fun t => (tagmap &&& m).getLsbD t) with
    | some t => BitVec.ofNat 64 (t + (tagerr.getLsbD t).toNat * 64)
    | none => 0x80
/-- TCLR. -/
def semTclr (o : TagMask) : OpSem :=
  { srcs := [srcRef o.mask], act := fun v s => s.land v.core (flightOf (.tclr (v.src o.mask)) 1 v.slot 0) }
/-- The meaning of TCLR. -/
def execTclr (h : Hdr) (o : TagMask) (s : State) : Host.Outcome State Fault Refusal :=
  issueSlot h (.tclr h o) (semTclr o) s

/-! ## Fences and drains (R172 to R174) -/

/-- FENCE of kind mem. -/
def semFence (o : Order) : OpSem := { delivery := true, act := fun v s => fenceAct v (ordAcq o.ord) (ordRel o.ord) s }
/-- The meaning of FENCE. -/
def execFence (h : Hdr) (o : Order) (s : State) : Host.Outcome State Fault Refusal :=
  issueSlot h (.fence h o) (semFence o) s
/-- FENCE of kind instr. -/
def semFenceInstr : OpSem := { delivery := true, flow := .fenceInstr }
/-- The meaning of FENCE_INSTR. -/
def execFenceInstr (h : Hdr) (s : State) : Host.Outcome State Fault Refusal :=
  issueSlot h (.fenceInstr h) semFenceInstr s

/-- Whether a context awaits the status of a command. -/
def Ctx.statusOut (x : Ctx) : Bool :=
  x.vars.any (fun v => match v.kind with
    | .copynb .. | .submit .. | .skim .. => true
    | _ => false)

/-- Whether DRAIN must wait: for what the core has issued or had accepted, in either mode (R174). -/
def drainWait (v : Env) (nt cp : Bool) : Bool :=
  !v.c.pendingIds.isEmpty || v.c.prog.statusOut || v.c.sup.statusOut ||
  (cp && (v.s.copiesBy v.core).any (fun c => !c.orphan)) ||
  (nt && v.s.nt.any (fun w => w.core == v.core && (cp || !v.s.copies.any (fun c => c.id == w.copy))))

/-- DRAIN. -/
def semDrain (o : Drain) : OpSem :=
  { delivery := true, wait := fun v => drainWait v o.nt o.cp, act := fun v s => fenceAct v true true s }
/-- The meaning of DRAIN. -/
def execDrain (h : Hdr) (o : Drain) (s : State) : Host.Outcome State Fault Refusal :=
  issueSlot h (.drain h o) (semDrain o) s

/-! ## Barriers (R175) -/

/-- The privilege trap of an operation that supervisor mode does not have. -/
def programOnly (v : Env) (t : Option Trap) : Option Trap := if v.c.inSup then some (privFault 5) else t

/-- The check of a barrier operation: the group is installed and the core is a member. -/
def groupMember (v : Env) (g : BitVec 8) : Option Trap :=
  programOnly v (if (v.s.groupOf g.toNat v.core).isNone then some (addrFault 5 (g.setWidth 64)) else none)

/-- The present members of a group. -/
def Group.present (s : State) (g : Group) : List Nat :=
  (groupMembers g.entry).filter (fun m => !s.coreFenced m && !g.left.contains m)

/-- How far a member's arrival count lies ahead of another's: a signed difference modulo 2^32. -/
def Group.lead (g : Group) (a b : Nat) : Int := (g.arrivals.look 0 a - g.arrivals.look 0 b).toInt

/-- Whether the condition of BWAIT holds for a core. -/
def barrierMet (s : State) (g n : Nat) : Bool :=
  match s.groupOf g n with
  | some v => (v.present s).all (fun m => 0 ≤ v.lead m n)
  | none => true

/-- BARRIVE: release at package scope, so its bundle stalls until the core's accesses have performed. -/
def semBarrive (o : GroupOp) : OpSem :=
  { wait := fun v => match v.s.groupOf o.group.toNat v.core with
      | some g => !v.c.inSup && (!v.c.pendingIds.isEmpty || (g.present v.s).any (fun m => 65535 ≤ g.lead v.core m))
      | none => false,
    check := fun v => groupMember v o.group,
    act := fun v s => match s.groups.find o.group.toNat with
      | some g =>
        let g' := { g with arrivals := g.arrivals.put v.core (g.arrivals.look 0 v.core + 1) }
        { s with groups := s.groups.put o.group.toNat g' }
      | none => s }
/-- The meaning of BARRIVE. -/
def execBarrive (h : Hdr) (o : GroupOp) (s : State) : Host.Outcome State Fault Refusal :=
  issueSlot h (.barrive h o) (semBarrive o) s
/-- BWAIT. -/
def semBwait (o : GroupOp) : OpSem :=
  { delivery := true, wait := fun v => !v.c.inSup && !barrierMet v.s o.group.toNat v.core,
    check := fun v => groupMember v o.group }
/-- The meaning of BWAIT. -/
def execBwait (h : Hdr) (o : GroupOp) (s : State) : Host.Outcome State Fault Refusal :=
  issueSlot h (.bwait h o) (semBwait o) s
/-- BTEST. -/
def semBtest (o : Btest) : OpSem :=
  { dsts := [.pred o.pd.toNat],
    check := fun v => groupMember v o.group,
    act := fun v s => v.landPred s o.pd (barrierMet v.s o.group.toNat v.core) 1 0 }
/-- The meaning of BTEST. -/
def execBtest (h : Hdr) (o : Btest) (s : State) : Host.Outcome State Fault Refusal :=
  issueSlot h (.btest h o) (semBtest o) s

/-! ## Steps and the end of a core's part (R176 to R179) -/

/-- The registers of a STEP. -/
def stepRegs (d : BitVec 6) : List Nat := (List.range 7).map (d.toNat + ·)

/-- STEP: the current step is retired at issue, and the request goes to the walker. -/
def semStep (o : StepOp) : OpSem :=
  { dsts := (stepRegs o.d).map .reg, flow := .step, check := fun v => programOnly v none,
    act := fun v s =>
      (stepRegs o.d).foldl (fun s r => s.modCore v.core (·.emptyDst (.sreg r 64 false)))
        (addVar v (.step o.d.toNat none) (s.retireStep v.core)) }
/-- The meaning of STEP. -/
def execStep (h : Hdr) (o : StepOp) (s : State) : Host.Outcome State Fault Refusal :=
  issueSlot h (.step h o) (semStep o) s

/-- Mark the current step of a core as triggered. -/
def State.markTriggered (s : State) (n : Nat) : State :=
  match (s.core n).launch, (s.core n).claim with
  | some l, some (i, false) =>
    (s.modLaunch l (fun v => { v with triggered := v.triggered + 1 })).modCore n (fun c => { c with claim := some (i, true) })
  | _, _ => s

/-- TRIGGER: its bundle stalls until the accesses that it follows have performed: with release, every earlier one. -/
def semTrigger (o : Order) : OpSem :=
  { wait := fun v => !v.c.inSup && !(v.c.waitIds (ordRel o.ord) true).isEmpty,
    check := fun v => programOnly v none, act := fun v s => s.markTriggered v.core }
/-- The meaning of TRIGGER. -/
def execTrigger (h : Hdr) (o : Order) (s : State) : Host.Outcome State Fault Refusal :=
  issueSlot h (.trigger h o) (semTrigger o) s
/-- EXIT. -/
def semExit : OpSem := { delivery := true, flow := .exit, check := fun v => programOnly v none }
/-- The meaning of EXIT. -/
def execExit (h : Hdr) (s : State) : Host.Outcome State Fault Refusal := issueSlot h (.exit h) semExit s

/-! ## Submissions and skim records (R180, R181) -/

/-- Submissions of a context that await their status. -/
def Ctx.submitsOut (x : Ctx) : Nat :=
  (x.vars.filter (fun v => match v.kind with
    | .submit .. => true
    | _ => false)).length

/-- Those of a core, of either mode: R164 counts the core's. -/
def Core.submitsOut (c : Core) : Nat := c.prog.submitsOut + c.sup.submitsOut

/-- SUBMIT. -/
def semSubmit (o : Submit) : OpSem :=
  { srcs := [srcRef o.base], dsts := [.reg o.dest.toNat],
    wait := fun v => 8 ≤ v.c.submitsOut || !(v.c.waitIds false false).isEmpty,
    check := fun v => recCheck v (recAddr v o.base o.off) 64,
    act := fun v s => addVarReg v o.dest
      (.submit o.dest.toNat o.queue.toNat (BitVec.ofNat 512 (recRead v (recAddr v o.base o.off) 64)) v.c.inSup
        (v.c.waitIds (ordRel o.ord) true) none) s }
/-- The meaning of SUBMIT. -/
def execSubmit (h : Hdr) (o : Submit) (s : State) : Host.Outcome State Fault Refusal :=
  issueSlot h (.submit h o) (semSubmit o) s

/-- A record joins the dispatcher's order. -/
def State.addSkim (s : State) (r : SkimRec) (range : Option (Nat × Nat × Nat × Nat × Nat)) (waits : List Nat) (core : Nat) :
    State :=
  { s with skim := { s.skim with
      next := s.skim.next + 1,
      jobs := s.skim.jobs ++ [{ id := s.skim.next, record := r, range := range, waits := waits, core := core,
                                engines := [], blocks := [], stuck := [], owners := [] }] } }

/-- Records of SKIM that the dispatcher holds. -/
def State.skimHeld (s : State) : Nat := (s.skim.jobs.filter (fun j => j.range.isNone)).length

/-- SKIM. -/
def semSkim (o : SkimOp) : OpSem :=
  { srcs := [srcRef o.base], dsts := [.reg o.dest.toNat],
    wait := fun v => 256 ≤ v.s.skimHeld || !(v.c.waitIds false false).isEmpty,
    check := fun v => recCheck v (recAddr v o.base o.off) 128,
    act := fun v s =>
      let r := BitVec.ofNat 1024 (recRead v (recAddr v o.base o.off) 128)
      if skimMalformed r || skStream r then addVarReg v o.dest (.skim o.dest.toNat 2) s
      else addVarReg v o.dest (.skim o.dest.toNat 0) (s.addSkim r none (v.c.waitIds (ordRel o.ord) true) v.core) }
/-- The meaning of SKIM. -/
def execSkim (h : Hdr) (o : SkimOp) (s : State) : Host.Outcome State Fault Refusal :=
  issueSlot h (.skim h o) (semSkim o) s

/-! ## Event counters (R182) -/

/-- The check of a counter number. -/
def ctrCheck (v : Env) (o : EvOp) : Option Trap :=
  if 4095 < (v.src o.ctr).toNat then some (addrFault 2 (v.src o.ctr)) else none

/-- EVADD: an access that performs on its counter. -/
def semEvadd (o : EvOp) : OpSem :=
  { srcs := [srcRef o.ctr, srcRef o.val], check := fun v => ctrCheck v o,
    act := fun v s => s.addAccess v.core v.c .evadd false (ordRel o.ord) true false
      [newCell (v.src o.ctr).toNat 1 (v.src o.val).toNat 0 0] .none v.pc none }
/-- The meaning of EVADD. -/
def execEvadd (h : Hdr) (o : EvOp) (s : State) : Host.Outcome State Fault Refusal :=
  issueSlot h (.evadd h o) (semEvadd o) s

/-- Whether a context has an add of its own outstanding on a counter. -/
def Ctx.addOut (x : Ctx) (ctr : Nat) : Bool :=
  x.racc.any (fun r => r.kind == .evadd && r.cells.any (fun c => c.key == ctr && !c.done))

/-- EVWAIT. -/
def semEvwait (o : EvOp) : OpSem :=
  { srcs := [srcRef o.ctr, srcRef o.val],
    wait := fun v =>
      let k := (v.src o.ctr).toNat
      k ≤ 4095 && ((v.s.counter k).ult (v.src o.val) || v.c.prog.addOut k || v.c.sup.addOut k || !(v.c.waitIds false false).isEmpty),
    check := fun v => ctrCheck v o }
/-- The meaning of EVWAIT. -/
def execEvwait (h : Hdr) (o : EvOp) (s : State) : Host.Outcome State Fault Refusal :=
  issueSlot h (.evwait h o) (semEvwait o) s

end Sys2Proof.Machine
end

