-- ==== Sys2Proof/Machine/Branch.lean ====
section
/-! DEFINITION. The branch operations (R36 to R41, R75 to R79); their resolution is in Machine/Issue.lean. -/

namespace Sys2Proof.Machine

/-- Off: none for the value that means fall through (R37, R75). -/
def branchOff (base : W64) (t : BitVec 20) : Option W64 :=
  if t = 0x80000#20 then none else some (base + t.signExtend 64 * 8)

/-- BRC. -/
def semBrc (neg : Bool) (pred : BitVec 4) (tgt : BitVec 20) : BranchSem :=
  { target := fun v _ => if v.x.pred pred.toNat != neg then branchOff v.pc tgt else none }
/-- The meaning of BRC. -/
def execBrc (neg : Bool) (pred : BitVec 4) (tgt : BitVec 20) (s : State) : Host.Outcome State Fault Refusal :=
  issueBranch (.brc neg pred tgt) (semBrc neg pred tgt) s
/-- JMP. -/
def semJmp (tgt : BitVec 20) : BranchSem := { target := fun v _ => branchOff v.pc tgt }
/-- The meaning of JMP. -/
def execJmp (tgt : BitVec 20) (s : State) : Host.Outcome State Fault Refusal := issueBranch (.jmp tgt) (semJmp tgt) s
/-- CALL. -/
def semCall (tgt : BitVec 20) (link : BitVec 6) : BranchSem :=
  { target := fun v _ => branchOff v.pc tgt, link := link.toNat }
/-- The meaning of CALL. -/
def execCall (tgt : BitVec 20) (link : BitVec 6) (s : State) : Host.Outcome State Fault Refusal :=
  issueBranch (.call tgt link) (semCall tgt link) s
/-- RET. -/
def semRet (r : BitVec 6) : BranchSem := { reg := some r.toNat, target := fun v _ => some (v.reg r) }
/-- The meaning of RET. -/
def execRet (reg : BitVec 6) (s : State) : Host.Outcome State Fault Refusal := issueBranch (.ret reg) (semRet reg) s
/-- JMPI. -/
def semJmpi (tgt : BitVec 20) (r : BitVec 6) : BranchSem :=
  { reg := some r.toNat, target := fun v _ => branchOff (v.reg r) tgt }
/-- The meaning of JMPI. -/
def execJmpi (tgt : BitVec 20) (reg : BitVec 6) (s : State) : Host.Outcome State Fault Refusal :=
  issueBranch (.jmpi tgt reg) (semJmpi tgt reg) s
/-- CALLI. -/
def semCalli (tgt : BitVec 20) (link r : BitVec 6) : BranchSem :=
  { reg := some r.toNat, target := fun v _ => branchOff (v.reg r) tgt, link := link.toNat }
/-- The meaning of CALLI. -/
def execCalli (tgt : BitVec 20) (link reg : BitVec 6) (s : State) : Host.Outcome State Fault Refusal :=
  issueBranch (.calli tgt link reg) (semCalli tgt link reg) s

/-- The address of a loop's end bundle. -/
def loopEndAddr (v : Env) (e : BitVec 20) : W64 := v.pc + e.signExtend 64 * 8

/-- LOOP. -/
def semLoop (e : BitVec 20) (r : BitVec 6) : BranchSem :=
  { reg := some r.toNat, push := fun v => some (v.reg r, loopEndAddr v e) }
/-- The meaning of LOOP. -/
def execLoop (endOff : BitVec 20) (reg : BitVec 6) (s : State) : Host.Outcome State Fault Refusal :=
  issueBranch (.loop endOff reg) (semLoop endOff reg) s
/-- LOOP_IMM. -/
def semLoopImm (e : BitVec 20) (n : BitVec 16) : BranchSem :=
  { push := fun v => some (n.setWidth 64, loopEndAddr v e) }
/-- The meaning of LOOP_IMM. -/
def execLoopImm (endOff : BitVec 20) (count : BitVec 16) (s : State) : Host.Outcome State Fault Refusal :=
  issueBranch (.loopImm endOff count) (semLoopImm endOff count) s
/-- LPOP. -/
def semLpop (n : BitVec 3) : BranchSem := { pop := n.toNat }
/-- The meaning of LPOP. -/
def execLpop (n : BitVec 3) (s : State) : Host.Outcome State Fault Refusal := issueBranch (.lpop n) (semLpop n) s

/-- A shape of BRT (R41): a leaf, or a test with its false and its true subtree. -/
inductive Shape where
  | leaf
  | test (f t : Shape)
  deriving DecidableEq, Repr

/-- The tests of a shape. -/
def Shape.tests : Shape → Nat
  | .leaf => 0
  | .test f t => 1 + f.tests + t.tests

/-- The leaf reached: tests are numbered in preorder and leaves from left to right (R40). -/
def Shape.pick (p : Nat → Bool) : Shape → Nat → Nat → Nat
  | .leaf, _, l => l
  | .test f t, i, l =>
    if p i then t.pick p (i + 1 + f.tests) (l + f.tests + 1) else f.pick p (i + 1) l


/-- All shapes of up to `n` tests in the order of the codes: by the size of the left subtree, then its code, then the code
of the right subtree (R41). -/
def shapesOf : Nat → List (List Shape)
  | 0 => [[.leaf]]
  | n + 1 =>
    let prev := shapesOf n
    prev ++ [(List.range (n + 1)).flatMap (fun k =>
      (prev.getD k []).flatMap (fun f => (prev.getD (n - k) []).map (fun t => .test f t)))]

/-- The shape of a code. -/
def shapeOf (code : Nat) : Shape := ((shapesOf 4).drop 1).flatten.getD code .leaf

/-- The predicate of a test. -/
def brtPred (o : BrtOp) (i : Nat) : BitVec 4 :=
  match i with
  | 0 => o.p0
  | 1 => o.p1
  | 2 => o.p2
  | _ => o.p3

/-- A leaf. -/
def brtLeaf (o : BrtOp) (i : Nat) : BitVec 20 :=
  match i with
  | 0 => o.leaf0
  | 1 => o.leaf1
  | 2 => o.leaf2
  | 3 => o.leaf3
  | _ => o.leaf4

/-- BRT. -/
def semBrt (o : BrtOp) : BranchSem :=
  { target := fun v _ =>
      branchOff v.pc (brtLeaf o ((shapeOf o.shape.toNat).pick (fun i => v.x.pred (brtPred o i).toNat) 0 0)) }
/-- The meaning of BRT. -/
def execBrt (o : BrtOp) (s : State) : Host.Outcome State Fault Refusal := issueBranch (.brt o) (semBrt o) s

end Sys2Proof.Machine
end

