-- ==== Sys2Proof/Machine/Matrix.lean ====
section
/-! DEFINITION. The M slot (R144 to R160): the beats as they issue. What a beat does to array state when it lands is in
Machine/Landing.lean. -/

namespace Sys2Proof.Machine

open Sys2Proof.Num

/-- MNOP (R42). -/
def semMnop : OpSem := {}
/-- The meaning of MNOP. -/
def execMnop (h : Hdr) (s : State) : Host.Outcome State Fault Refusal := issueSlot h (.mnop h) semMnop s

/-- The source of a beat that reads one segment: a port's line is popped with its last segment (R152). -/
def segRef (o : MF) (w : Nat) : SrcRef := .line o.line 1 w false (o.seg != 7)

/-- The segment as read. -/
def segment (o : MF) (w : Nat) (v : Env) : Line :=
  BitVec.ofNat 4096 ((v.line o.line w 0).toNat >>> (512 * o.seg.toNat) % 2 ^ 512)

/-- A beat with its inputs as they stand at issue. -/
def beatAt (v : Env) (src : Line) : Beat :=
  let (buf, plane) := v.c.arr.active
  { word := v.word, sc := v.c.arr.sc, plane := plane, src := src, buf := buf }

/-- A beat that reads nothing but its word. -/
def beatWord (v : Env) : Beat := { word := v.word, sc := 0, plane := 0, src := 0, buf := 0 }

/-- Land a beat. -/
def landBeatAt (v : Env) (b : Beat) (l : Nat) (s : State) : State := s.land v.core (flightOf (.beat b) l v.slot 0)

/-- MWLD. -/
def semMwld (o : MF) : OpSem :=
  { srcs := [.line o.line 1 64 false false],
    act := fun v s => landBeatAt v { beatWord v with src := v.line o.line 64 0 } 2 s }
/-- The meaning of MWLD. -/
def execMwld (h : Hdr) (o : MF) (s : State) : Host.Outcome State Fault Refusal := issueSlot h (.mwld h o) (semMwld o) s
/-- MSWAP. -/
def semMswap (_ : MF) : OpSem :=
  { act := fun v s => s.modCore v.core (fun c => { c with arr := { c.arr with activeB := !c.arr.activeB } }) }
/-- The meaning of MSWAP. -/
def execMswap (h : Hdr) (o : MF) (s : State) : Host.Outcome State Fault Refusal :=
  issueSlot h (.mswap h o) (semMswap o) s
/-- MSHF. -/
def semMshf (o : MF) : OpSem :=
  { srcs := [segRef o 64], act := fun v s => landBeatAt v { beatWord v with src := segment o 64 v } 2 s }
/-- The meaning of MSHF. -/
def execMshf (h : Hdr) (o : MF) (s : State) : Host.Outcome State Fault Refusal := issueSlot h (.mshf h o) (semMshf o) s

/-- MACC and MACCZ read the active buffer, its plane, the streaming scales and the segment. -/
def maccSem (o : MF) : OpSem :=
  { srcs := [segRef o (tyWidth o.sty)],
    act := fun v s => landBeatAt v (beatAt v (segment o (tyWidth o.sty) v)) 4 s }

/-- MACC. -/
def semMacc (o : MF) : OpSem := maccSem o
/-- The meaning of MACC. -/
def execMacc (h : Hdr) (o : MF) (s : State) : Host.Outcome State Fault Refusal := issueSlot h (.macc h o) (semMacc o) s
/-- MACCZ. -/
def semMaccz (o : MF) : OpSem := maccSem o
/-- The meaning of MACCZ. -/
def execMaccz (h : Hdr) (o : MF) (s : State) : Host.Outcome State Fault Refusal :=
  issueSlot h (.maccz h o) (semMaccz o) s

/-- RM of an MDRN. -/
def drainMode (o : MF) : Nat := o.low.toNat / 2 ^ 16

/-- The converted elements of an MDRN. -/
def drainElems (o : MF) (v : Env) : List (Nat × Nat) :=
  let (c, e) := drainCols o
  let row := v.c.arr.row o.bank o.row.toNat
  (List.range e).map (fun j =>
    drain o.wty (v.x.rnd (drainMode o) (specRow o.line) (o.seg.toNat * e + j) false) (v.c.arr.anchor o.bank - 64)
      (row.tag (c + j)) (row.value (c + j)))

/-- MDRN. -/
def semMdrn (o : MF) : OpSem :=
  { dsts := [.line o.line 1 false], wait := fun v => v.x.srStall (drainMode o),
    act := fun v s =>
      let w := tyWidth o.wty
      let (_, e) := drainCols o
      let rs := drainElems o v
      let pad := List.replicate (o.seg.toNat * e) 0
      let s := v.landLines s o.line (lineOf w (pad ++ List.replicate e (2 ^ w - 1))) [lineOf w (pad ++ rs.map (·.1))] 10
        (orAll (rs.map (·.2)))
      if o.low.toNat.testBit 15 then landBeatAt v (beatWord v) 1 s else s }
/-- The meaning of MDRN. -/
def execMdrn (h : Hdr) (o : MF) (s : State) : Host.Outcome State Fault Refusal := issueSlot h (.mdrn h o) (semMdrn o) s
/-- MZERO. -/
def semMzero (_ : MF) : OpSem := { act := fun v s => landBeatAt v (beatWord v) 1 s }
/-- The meaning of MZERO. -/
def execMzero (h : Hdr) (o : MF) (s : State) : Host.Outcome State Fault Refusal :=
  issueSlot h (.mzero h o) (semMzero o) s
/-- MANCH. -/
def semManch (_ : MF) : OpSem := { act := fun v s => landBeatAt v (beatWord v) 1 s }
/-- The meaning of MANCH. -/
def execManch (h : Hdr) (o : MF) (s : State) : Host.Outcome State Fault Refusal :=
  issueSlot h (.manch h o) (semManch o) s
/-- MSCL. -/
def semMscl (o : MF) : OpSem :=
  { srcs := [segRef o 64], act := fun v s => landBeatAt v { beatWord v with src := segment o 64 v } 2 s }
/-- The meaning of MSCL. -/
def execMscl (h : Hdr) (o : MF) (s : State) : Host.Outcome State Fault Refusal := issueSlot h (.mscl h o) (semMscl o) s
/-- MXSC. -/
def semMxsc (o : MF) : OpSem :=
  { srcs := [segRef o 64], act := fun v s => landBeatAt v { beatWord v with src := segment o 64 v } 1 s }
/-- The meaning of MXSC. -/
def execMxsc (h : Hdr) (o : MF) (s : State) : Host.Outcome State Fault Refusal := issueSlot h (.mxsc h o) (semMxsc o) s

end Sys2Proof.Machine
end

