-- ==== Sys2Proof/Machine/Context.lean ====
section
/-! DEFINITION. The saved context of a core and its retake bank images (R196, R203 to R206, R289, R330): what a save
writes, and what a load takes. An image is a list of places: byte offset, number of bytes, value; every other byte of a
part is zero. -/

namespace Sys2Proof.Machine

open Sys2Proof.Num

/-- An image. -/
abbrev Image := List (Nat × Nat × Nat)

/-- An image moved up by an offset. -/
def Image.at_ (im : Image) (off : Nat) : Image := im.map (fun (o, n, v) => (o + off, n, v))

/-! ## Retake bank images (R196) -/

/-- One bit for each cell that a line's enables touch. -/
def cellEnables (en : Line) : Nat :=
  (lanes.filter (fun i => lineElem 32 en i != 0)).foldl (fun m i => m + 2 ^ i) 0

/-- A line in which the bits of enabled cells that are not enabled themselves hold the cell's present value. -/
def mergedLine (t : FMap Line) (spec : BitVec 13) (en data : Line) : Nat :=
  let cells := lineOf 32 (lanes.map (fun i => if lineElem 32 en i != 0 then 2 ^ 32 - 1 else 0))
  (((tileLine t spec false &&& ~~~en) ||| (data &&& en)) &&& cells).toNat

/-- The mark of an anti-diagonal in DEST of an entry of KIND 4, above the specifier's bits: DESIGN CHOICE (log 54), since
R196 shows no bit for it. -/
def antidiagMark : Nat := 2 ^ 12

/-- KIND, LINES, DEST, ENABLE and data of an entry; none for a beat, which part 2 holds. -/
def entryFields (t : FMap Line) : Eff → Option (Nat × Nat × Nat × Nat × List (Nat × Nat))
  | .sreg r v => some (1, 1, r, 0, [(8, v.toNat)])
  | .pred p v => some (2, 1, p, 0, [(8, v.toNat)])
  | .mask k v en => some (3, 1, k, 0, [(64, v.toNat), (64, en.toNat)])
  | .lines spec en data =>
    some (4, data.length, spec.toNat % 2 ^ 12, cellEnables en,
      data.zipIdx.map (fun (l, i) => (512, mergedLine t (specAdvance spec i) en l)))
  | .antidiag spec en data =>
    let cells := lineOf 32 (lanes.map (fun i => if lineElem 32 en i != 0 then 2 ^ 32 - 1 else 0))
    some (4, 1, spec.toNat % 2 ^ 12 + antidiagMark, cellEnables en,
      [(512, (((tileLine t spec true &&& ~~~en) ||| (data &&& en)) &&& cells).toNat)])
  | .special n v => some (5, 1, n, 0, [(8, v.toNat)])
  | .push p l => some (6, 1, p, 0, [(512, l.toNat)])
  | .tclr m => some (5, 1, SR.tagmap, 0, [(8, m.toNat)])
  | .void => some (4, 1, 0, 0, [(512, 0)])
  | .beat _ => none

/-- One entry of a bank image at an offset, with the offset after it. -/
def entryImage (t : FMap Line) (f : Flight) (off : Nat) : Image × Nat :=
  match entryFields t f.eff with
  | none => ([], off)
  | some (kind, nl, dest, en, data) =>
    let hd : Image := [(off, 1, kind), (off + 1, 1, f.remain), (off + 2, 1, f.slot), (off + 3, 1, nl), (off + 4, 2, dest),
      (off + 6, 1, f.flags), (off + 16, 16, en)]
    let (im, o) := data.foldl (fun (im, o) (n, v) => (im ++ [(o, n, v)], o + n)) (hd, off + 32)
    (im, (o + 31) / 32 * 32)

/-- The room of a bank image. -/
def bankSize : Nat := 86016

/-- The entries of a bank image from an offset on, one after another, as far as there is room, and their number. -/
def bankEntries (t : FMap Line) : List Flight → Nat → Image × Nat
  | [], _ => ([], 0)
  | f :: fs, off =>
    let (e, o) := entryImage t f off
    if bankSize < o then ([], 0)
    else
      let (im, k) := bankEntries t fs o
      (e ++ im, k + 1)

/-- The results of a bank that its image holds: all but the beats, and those that do nothing. -/
def bankResults (t : FMap Line) (es : List Flight) : List Flight :=
  es.filter (fun f => (entryFields t f.eff).isSome && (f.eff != .void || f.flags != 0))

/-- A bank image. -/
def bankImage (t : FMap Line) (es : List Flight) : Image :=
  let (im, k) := bankEntries t (bankResults t es) 32
  (0, 8, k) :: im

/-- The beats among results. -/
def beatsOf (es : List Flight) : List Flight := es.filter (fun f => match f.eff with
  | .beat _ => true
  | _ => false)

/-- The array entries of a bank (R205). -/
def arrayEntries (es : List Flight) : Image :=
  let bs := (es.filterMap (fun f => match f.eff with
    | .beat b => some (f.remain, b)
    | _ => none)).take 4
  bs.zipIdx.flatMap (fun ((rem, b), i) =>
    Image.at_ [(0, 8, b.word.toNat), (8, 1, rem), (9, 1, 1), (0x10, 8, b.sc.toNat), (0x40, 64, b.plane.toNat),
      (0x80, 512, b.src.toNat), (0x300, 8192, b.buf.toNat)] (8960 * i))

/-- The numbers of the special registers (R72). -/
def specialNumbers : List Nat :=
  [0, 1, 2, 3] ++ (List.range 6).map (0x08 + ·) ++ (List.range 6).map (0x10 + ·) ++ (List.range 6).map (0x18 + ·) ++
  [0x1E, 0x20, 0x21, 0x28, 0x29, 0x2A, 0x2B, 0x30, 0x31, 0x32, 0x33, 0x38, 0x39, 0x3C, 0x3D, 0x40, 0x41, 0x42]

/-- Whether an entry of KIND 5 may name a register: one that an instruction writes with fixed latency (R71, R72). A
register of R72 that programs only read, tagmap apart, and a depth above 6 are malformed there: DESIGN CHOICE (log 41). -/
def specEntryOk (n v : Nat) : Bool :=
  specialNumbers.contains n && !specReadOnly n && (n != SR.ldepth || v ≤ 6)

/-- Read one bank entry: `rd` gives the bytes of the image. Malformed entries are refused. -/
def readEntry (rd : Nat → Nat → Nat) (off : Nat) : Option (Flight × Nat) :=
  let kind := rd off 1
  let remain := rd (off + 1) 1
  let slot := rd (off + 2) 1
  let nl := rd (off + 3) 1
  let dest := rd (off + 4) 2
  let flags := rd (off + 6) 1
  let en := rd (off + 16) 16
  let d := off + 32
  let bad := rd (off + 7) 9 != 0 || 11 < remain || 8 < slot || 63 < flags || (kind != 4 && (nl != 1 || en != 0)) ||
    nl == 0 || 16 < nl
  let next (n : Nat) : Nat := (d + n + 31) / 32 * 32
  let mk (e : Eff) (n : Nat) : Option (Flight × Nat) := some (⟨e, remain, slot, true, flags, none⟩, next n)
  if bad then none
  else match kind with
    | 1 => if dest < 64 then mk (.sreg dest (BitVec.ofNat 64 (rd d 8))) 8 else none
    | 2 => if dest < 16 then mk (.pred dest (rd d 8 % 2 == 1)) 8 else none
    | 3 => if dest < 16 then mk (.mask dest (BitVec.ofNat 512 (rd d 64)) (BitVec.ofNat 512 (rd (d + 64) 64))) 128 else none
    | 4 =>
      let cells := lineOf 32 (lanes.map (fun i => if en.testBit i then 2 ^ 32 - 1 else 0))
      let data := (List.range nl).map (fun i => BitVec.ofNat 4096 (rd (d + 512 * i) 512))
      if dest < 2 ^ 12 ∧ dest / 2 ^ 10 ≠ 3 then mk (.lines (BitVec.ofNat 13 dest) cells data) (512 * nl)
      else if dest / 2 ^ 12 = 1 ∧ dest / 2 ^ 10 % 4 = 2 ∧ nl = 1 then
        mk (.antidiag (BitVec.ofNat 13 (dest - antidiagMark)) cells (data.headD 0)) 512
      else none
    | 5 =>
      if dest = SR.tagmap then mk (.tclr (BitVec.ofNat 64 (rd d 8))) 8
      else if specEntryOk dest (rd d 8) then mk (.special dest (BitVec.ofNat 64 (rd d 8))) 8
      else none
    | 6 => if dest < 4 then mk (.push dest (BitVec.ofNat 4096 (rd d 512))) 512 else none
    | _ => none

/-- Read the entries of a bank image, whose size bounds their headers and their data. -/
def readEntries (rd : Nat → Nat → Nat) : Nat → Nat → Option (List Flight)
  | 0, _ => some []
  | n + 1, off =>
    if bankSize < off + 32 then none
    else match readEntry rd off with
      | none => none
      | some (f, o) => if bankSize < o then none else (readEntries rd n o).map (fun fs => f :: fs)

/-- Read a bank image. Its bytes 8 to 31, between COUNT and the first entry, are to be zero, or the load fails: DESIGN CHOICE
(log 41), since R196 gives them no meaning. -/
def readBank (rd : Nat → Nat → Nat) : Option (List Flight) :=
  let n := rd 0 8
  if bankSize / 32 < n ∨ rd 8 24 ≠ 0 then none else readEntries rd n 32

/-- Whether an array entry is malformed: VALID neither 0 nor 1, or a used entry whose REMAIN exceeds 11, whose word is no
beat that acts on array state at a landing (R148 to R157: MSWAP acts at its issue, MDRN only when it zeroes), or whose other
bytes are not zero. -/
def arrayEntryBad (rd : Nat → Nat → Nat) (o : Nat) : Bool :=
  let op := rd o 8 >>> 57
  1 < rd (o + 9) 1 ||
  (rd (o + 9) 1 == 1 && (11 < rd (o + 8) 1 || op == 0 || op == 2 || 10 < op ||
    (op == 6 && !(rd o 8).testBit 15) || rd (o + 0xA) 6 != 0 || rd (o + 0x18) 40 != 0 ||
    rd (o + 0x280) 128 != 0))

/-- Read the four array entries of a bank (R205); none where one is malformed. -/
def readArrayEntries (rd : Nat → Nat → Nat) : Option (List Flight) :=
  if (List.range 4).any (fun i => arrayEntryBad rd (8960 * i)) then none
  else some ((List.range 4).filterMap (fun i =>
    let o := 8960 * i
    if rd (o + 9) 1 = 0 then none
    else some ⟨.beat { word := BitVec.ofNat 64 (rd o 8), sc := BitVec.ofNat 64 (rd (o + 0x10) 8),
                       plane := BitVec.ofNat 512 (rd (o + 0x40) 64), src := BitVec.ofNat 4096 (rd (o + 0x80) 512),
                       buf := BitVec.ofNat 65536 (rd (o + 0x300) 8192) }, rd (o + 8) 1, 7, true, 0, none⟩))

/-! ## Part 0 (R203, R289, R330) -/

/-- The register `handles` (R72). -/
def Core.handles (c : Core) : W64 :=
  BitVec.ofNat 64 ((c.held.filter (fun (_, d) => !d.reserved)).foldl (fun m (h, _) => m + 2 ^ h) 0)

/-- A special register as RDSR reads it in a context of core `n` (R71, R72). -/
def State.special (s : State) (n : Nat) (x : Ctx) (num : Nat) : W64 :=
  match num with
  | 0 => BitVec.ofNat 64 n
  | 1 => BitVec.ofNat 64 (clusterOf n)
  | 2 => BitVec.ofNat 64 (dieOf n)
  | 3 => s.coll.pkgid.setWidth 64
  | _ => if num = SR.handles then (s.core n).handles else x.spec num

/-- The handle area (R289). -/
def handleImage (c : Core) : Image :=
  (c.held.flatMap (fun (h, d) =>
    if d.reserved then [(0x0C00 + 16 * h + 8, 8, 2 ^ 16 + d.dest * 2 ^ 24)]
    else [(0x0C00 + 16 * h, 8, 2 ^ 63 + d.base), (0x0C00 + 16 * h + 8, 8, d.owner + d.size * 2 ^ 8)])) ++
  (c.lent.zipIdx.flatMap (fun (r, e) =>
    [(0x0D00 + 16 * e, 8, 2 ^ 63 + r.base),
     (0x0D00 + 16 * e + 8, 8, r.peer + r.size * 2 ^ 8 + r.taken.toNat * 2 ^ 16 + r.slot * 2 ^ 18 + r.dest * 2 ^ 24)])) ++
  (c.offers.zipIdx.flatMap (fun (o, e) =>
    [(0x0E00 + 16 * e, 8, 2 ^ 63 + o.base), (0x0E00 + 16 * e + 8, 8, o.giver + o.size * 2 ^ 8)]))

/-- The indices of a walk after `n` lines. -/
def walkIndices (r : BitVec 512) (n : Nat) : List Nat :=
  let c (l : Nat) := max 1 (portCount r l)
  [n % c 0, n / c 0 % c 1, n / (c 0 * c 1) % c 2, n / (c 0 * c 1 * c 2)]

/-- A port's state and queue. -/
def portImage (c : Core) (p : Nat) : Image :=
  let q := c.port p
  if !q.conf then []
  else
    [(0x1000 + 128 * p, 64, q.record.toNat)] ++
    ((walkIndices q.record q.taken).zipIdx.map (fun (v, i) => (0x1000 + 128 * p + 64 + 8 * i, 8, v))) ++
    [(0x1000 + 128 * p + 96, 8, q.queue.length), (0x1000 + 128 * p + 104, 8, q.rows.length)] ++
    (q.queue.zipIdx.map (fun (l, i) => (0x2000 + 4096 * p + 512 * i, 512, l.toNat)))

/-- A parked copy record (R330). -/
def parkedImage (c : Copy) : Image :=
  match c.phase with
  | .parked id reason space va write =>
    [(0, 64, c.record.toNat), (64, 8, c.progress), (72, 8, reason * 2 ^ 56 + space.toNat * 2 ^ 48 + va),
     (80, 8, write.toNat * 2 ^ 29 + c.core * 2 ^ 19 + id.toNat)]
  | _ => []

/-- The parked copies of a core's program. -/
def State.parkedCopies (s : State) (n : Nat) : List Copy :=
  (s.copiesOf n false).filter (fun c => match c.phase with
    | .parked .. => true
    | _ => false)

/-- Part 0 of the frozen program context of core `n`. -/
def controlImage (s : State) (n : Nat) : Image :=
  let c := s.core n
  let x := c.prog
  let err := c.loadErrors.head?
  let stickies (o : Nat) (f : FMap W64) : Image := (List.range 9).map (fun i => (o + 8 * i, 8, (f.look 0 i).toNat))
  let parked := s.parkedCopies n
  (x.s.map (fun (r, v) => (8 * r, 8, v.toNat))) ++
  [(0x200, 8, 2 ^ 64 - 1 - x.empty.toNat), (0x208, 8, x.p.toNat ||| 1), (0x210, 8, x.pc.toNat),
   (0x218, 8, x.rep % 64 + c.progBank.isSome.toNat * 2 ^ 8 + err.isSome.toNat * 2 ^ 9 +
     (c.preempt.isSome && c.progBank.isSome).toNat * 2 ^ 10),
   (0x220, 8, err.elim 0 (·.pc.toNat)), (0x228, 8, c.handlerIssues)] ++
  (c.progBank.elim [] (fun b => stickies 0x230 b.stickies)) ++
  (specialNumbers.map (fun k => (0x400 + 8 * k, 8, (s.special n x k).toNat))) ++
  stickies 0x680 x.sticky ++
  ((List.range 64).map (fun t => (0x700 + 2 * t, 2, x.oc.look 0 t))) ++
  ((0x800, 64, 2 ^ 512 - 1) :: (List.range 15).map (fun k => (0x800 + 64 * (k + 1), 64, (c.k.look 0 (k + 1)).toNat))) ++
  handleImage c ++ [(0xF00, 8, parked.length)] ++
  ((List.range 12).flatMap (portImage c)) ++
  (parked.zipIdx.flatMap (fun (q, i) => Image.at_ (parkedImage q) (0xE000 + 128 * i))) ++
  (c.progBank.elim [] (fun b => Image.at_ (bankImage c.tiles b.entries) 0x16000)) ++
  (c.sysBank.elim [] (fun b => Image.at_ (bankImage c.tiles b.entries) 0x2B000))

/-- Part 1: the matrix register file and its full/empty bits (R204). -/
def tilesImage (c : Core) : Image :=
  (c.tiles.map (fun (k, l) => (512 * k, 512, l.toNat))) ++
  ((List.range 1024).map (fun k => (0x80000 + 16 * k, 16, 2 ^ 128 - 1 - (c.cellEmpty.look 0 k).toNat)))

/-- Part 2: array state (R205). -/
def arrayImage (c : Core) : Image :=
  let a := c.arr
  [(0, 8192, a.bufA.toNat), (0x2000, 8192, a.bufB.toNat), (0x4000, 64, a.planeA.toNat), (0x4040, 64, a.planeB.toNat),
   (0x4080, 8, a.sc.toNat), (0x4088, 8, a.activeB.toNat), (0x4090, 8, lowBits a.anchor0 64), (0x4098, 8, lowBits a.anchor1 64)] ++
  (a.acc.flatMap (fun (k, r) => [(0x5000 + 32 * k, 32, r.tags.toNat), (0x6000 + 1536 * k, 1536, r.val.toNat)])) ++
  (c.progBank.elim [] (fun b => Image.at_ (arrayEntries b.entries) 0x36000)) ++
  (c.sysBank.elim [] (fun b => Image.at_ (arrayEntries b.entries) 0x3EC00))

/-- The sizes of the parts. -/
def partSize : Nat → Nat
  | 0 => 262144
  | 1 => 540672
  | _ => 292864

/-- Whether a part of the frozen context has room for all that it is to hold: results of a handler beside those put back
into flight can exceed a bank's image, or its four array entries (log 54). -/
def contextFits (s : State) (n part : Nat) : Bool :=
  let c := s.core n
  let banks := c.progBank.toList ++ c.sysBank.toList
  match part with
  | 0 => banks.all (fun b => 
      (bankEntries c.tiles (bankResults c.tiles b.entries) 32).2 == (bankResults c.tiles b.entries).length) &&
    (s.parkedCopies n).length ≤ 256
  | 1 => true
  | _ => banks.all (fun b => (beatsOf b.entries).length ≤ 4)

/-- A part of the frozen context. -/
def contextImage (s : State) (n part : Nat) : Image :=
  match part with
  | 0 => controlImage s n
  | 1 => tilesImage (s.core n)
  | _ => arrayImage (s.core n)

/-! ## Loading (R203 to R206) -/

/-- A sparse array of what is not zero. -/
def sparse {α : Type} (zero : α → Bool) (l : List (Nat × α)) : FMap α := l.filter (fun p => !zero p.2)

/-- Whether a region is one that HGIVE lends (R104): 4 KiB-aligned, 1 to 64 units, inside the unit scratchpad. -/
def regionOk (base size : Nat) : Bool := base % 4096 == 0 && 1 ≤ size && size ≤ 64 && base + 4096 * size ≤ unitSize

/-- Whether the regions of a list share no byte. -/
def regionsApart : List (Nat × Nat) → Bool
  | [] => true
  | (b, n) :: r => r.all (fun (c, m) => b + 4096 * n ≤ c || c + 4096 * m ≤ b) && regionsApart r

/-- The handle area as a load of core `n`'s context takes it (R289): refused where an entry breaks its layout or a limit of
R104 and R105. An entry whose VALID bit is 0 is unused, unless RESERVED says that it is a reservation; the bits that its
table does not show are zero all the same. -/
def readHandles (n : Nat) (rd : Nat → Nat → Nat) : Option (FMap Held × List Lent × List Offer) :=
  let half (off : Nat) := (rd off 8, rd (off + 8) 8)
  let unused (a b shown : Nat) : Bool := a &&& (2 ^ 63 - 2 ^ 21) == 0 && b &&& (2 ^ 64 - 1 - shown) == 0
  let held := (List.range 16).map (fun h =>
    let (a, b) := half (0x0C00 + 16 * h)
    if a >>> 63 = 1 then
      (if b % 2 ^ 8 < 16 ∧ b >>> 15 = 0 ∧ regionOk (a % 2 ^ 63) (b >>> 8) ∧ b % 16 ≠ n % 16 then
        some (h, some (Held.mk false (a % 2 ^ 63) (b % 16) (b >>> 8) 0)) else none)
    else if b >>> 16 % 2 = 1 then
      (if a = 0 ∧ b % 2 ^ 24 = 2 ^ 16 ∧ b >>> 30 = 0 then some (h, some (Held.mk true 0 0 0 (b >>> 24))) else none)
    else if unused a b 0x3F017F0F then some (h, none) else none)
  let lent := (List.range 16).map (fun e =>
    let (a, b) := half (0x0D00 + 16 * e)
    if a >>> 63 = 0 then (if unused a b 0x3F3D7F0F then some none else none)
    else if b &&& (2 ^ 64 - 1 - 0x3F3D7F0F) = 0 ∧ regionOk (a % 2 ^ 63) (b >>> 8 % 128) ∧ b % 16 ≠ n % 16 then
      some (some (Lent.mk e (a % 2 ^ 63) (b >>> 8 % 128) (b % 16) (b >>> 16 % 2 == 1) (b >>> 18 % 16) (b >>> 24 % 64)
        none false))
    else none)
  let offers := (List.range 16).map (fun e =>
    let (a, b) := half (0x0E00 + 16 * e)
    if a >>> 63 = 0 then (if unused a b 0x7F0F then some none else none)
    else if b &&& (2 ^ 64 - 1 - 0x7F0F) = 0 ∧ regionOk (a % 2 ^ 63) (b >>> 8) ∧ b % 16 ≠ n % 16 then
      some (some (Offer.mk (b % 16) 0 (a % 2 ^ 63) (b >>> 8)))
    else none)
  if held.all Option.isSome && lent.all Option.isSome && offers.all Option.isSome &&
      regionsApart ((lent.filterMap (fun o => o.bind id)).map (fun r => (r.base, r.size))) then
    some (held.filterMap (fun o => o.bind (fun (h, d) => d.map (fun d => (h, d)))), lent.filterMap (fun o => o.bind id),
      offers.filterMap (fun o => o.bind id))
  else none

/-- The pushes to a write port among results. -/
def pushesTo (p : Nat) (es : List Flight) : Nat :=
  (es.filter (fun f => match f.eff with
    | .push j _ => 8 + j == p
    | _ => false)).length

/-- Whether a port's state is malformed (R99, R100): its record, an index beyond its walk, a queue above eight lines, rows
that do not belong to its mode, or bytes that are not used. -/
def portStateBad (rd : Nat → Nat → Nat) (p : Nat) : Bool :=
  let o := 0x1000 + 128 * p
  let r := BitVec.ofNat 512 (rd o 64)
  rd o 128 != 0 &&
    (portMalformed r p || (List.range 3).any (fun l => portCount r l ≤ rd (o + 64 + 8 * l) 8) ||
     portCount r 3 < rd (o + 88) 8 || 8 < rd (o + 96) 8 || 128 < rd (o + 104) 8 ||
     (rd (o + 104) 8 != 0 && !portIndexed r) || rd (o + 112) 16 != 0)

/-- A port as a load takes it: the rows still to come of an indexed walk are those of the index line taken last; `banked`
holds the results of the banks, whose pushes have been counted (R102). Cells that were read ahead are read again. -/
def readPort (s : State) (n : Nat) (rd : Nat → Nat → Nat) (banked : List Flight) (p : Nat) : Port :=
  let o := 0x1000 + 128 * p
  let r := BitVec.ofNat 512 (rd o 64)
  if r = 0 then Port.start
  else
    let idx := (List.range 4).map (fun i => rd (o + 64 + 8 * i) 8)
    let taken := (idx.zipIdx).foldl (fun a (v, l) =>
      a + v * ((List.range l).map (portCount r)).foldl (· * ·) 1) 0
    let qn := rd (o + 96) 8
    let rn := rd (o + 104) 8
    let rows := if rn = 0 ∨ taken = 0 then [] else (rowOffsets s n (portAddr r (taken - 1)).toNat).drop (128 - rn)
    { conf := true, record := r, taken := taken, rows := rows,
      queue := (List.range qn).map (fun i => BitVec.ofNat 4096 (rd (0x2000 + 4096 * p + 512 * i) 512)),
      pushed := if p < 8 then 0 else taken + qn + pushesTo p banked, early := [] }

/-- Whether a parked copy's record is malformed as R330 lays it out: reserved bytes, the unused bits of the fault record's
dword, a record or a count of elements that no copy has. -/
def parkedBad (rd : Nat → Nat → Nat) (off : Nat) : Bool :=
  let d := rd (off + 80) 8
  rd (off + 96) 32 != 0 || d >>> 30 != 0 || d >>> 16 % 8 != 0 || trMalformed false (BitVec.ofNat 512 (rd off 64)) ||
  trCount (BitVec.ofNat 512 (rd off 64)) ≤ rd (off + 64) 8

/-- A parked copy as a load takes it up again (R330). -/
def readParked (rd : Nat → Nat → Nat) (n id off : Nat) : Copy :=
  let place := rd (off + 72) 8
  let d := rd (off + 80) 8
  { id := id, core := n, sup := false, record := BitVec.ofNat 512 (rd off 64), readWaits := [], writeWaits := [],
    phase := .parked (BitVec.ofNat 16 d) (place >>> 56) (BitVec.ofNat 8 (place >>> 48)) (place % 2 ^ 48)
      (d >>> 29 % 2 == 1),
    earlier := [], failed := false, progress := rd (off + 64) 8, data := [], done := [], due := none, orphan := false, sent := [],
    lifted := false }

/-- The request of a parked copy. -/
def Copy.request (c : Copy) : Option (Nat × Request) :=
  match c.phase with
  | .parked id reason space va write =>
    some (id.toNat, { kind := .copy, ident := c.id, reason := BitVec.ofNat 8 reason, space := space,
                      va := BitVec.ofNat 48 va, write := write, unit := BitVec.ofNat 10 c.core,
                      place := BitVec.ofNat 64 c.progress })
  | _ => none

/-- Replace the copies. -/
def State.setCopies (s : State) (l : List Copy) : State := { s with copies := l }

/-- What the commands of core `n` wait for under other identities of copies; `g` gives none for one that they no longer wait
for. -/
def State.renameEarlier (s : State) (n : Nat) (g : Nat → Option Nat) : State :=
  (s.modCore n (fun c =>
      { c with svCmds := c.svCmds.map (fun (q : SvCmd) => { q with earlier := q.earlier.filterMap g }) })).setCopies
    (s.copies.map (fun (c : Copy) => if c.core = n then { c with earlier := c.earlier.filterMap g } else c))

/-- Take the parked copies of a core's program out of the engine: nothing that stays in it waits for them there. -/
def State.dropParked (s : State) (n : Nat) : State :=
  let gone := s.parkedCopies n
  let keys := gone.filterMap (fun c => c.request.map (·.1))
  let stays (i : Nat) : Bool := gone.all (fun g => g.id != i)
  ({ s with copies := s.copies.filter (fun c => stays c.id),
            xl := { s.xl with parked := keys.foldl FMap.drop s.xl.parked, away := (s.xl.away ++ keys).dedup } }.renameEarlier n
    (fun i => if stays i then some i else none)).planNext n

/-- The copy of an image that is to carry on the parked copy `i` of a core's program, by its PARKID: its place among those
of the image. -/
def State.carriedOn (s : State) (n : Nat) (ids : List Nat) (i : Nat) : Option Nat :=
  ids.findIdx? (fun k => (s.parkedCopies n).any (fun c => c.id == i && c.request.map (·.1) == some k))

/-- Take a parked copy up again: one with release waits for those taken up before it (R279); a planned one is counted from
now, or from the completion of the core's planned copy before it (R322). -/
def State.addParked (s : State) (c : Copy) : State :=
  let c := { c with
    earlier := if ordRel (trOrd c.record) then (s.copiesOf c.core false).map Copy.id else [],
    due := if trPlanned c.record && s.plannedAlone c.core then
        some (s.plannedDue c.core (trCount c.record * trEsize c.record)) else none }
  match c.request with
  | some (k, q) => { s with copies := s.copies ++ [c], nextCopy := s.nextCopy + 1,
                            xl := { s.xl with parked := s.xl.parked.put k q, away := s.xl.away.filter (· != k) } }
  | none => s

/-- What the reserved bits of a special register's slot hold (R74). -/
def specReserved (num v : Nat) : Nat :=
  if num = SR.fpflags ∨ num = SR.fpenable then v >>> 6
  else if num = SR.fpctl ∨ num = SR.ldepth then v >>> 3
  else if num = SR.accflags then v >>> 4
  else if num = SR.trapcause then v >>> 22
  else if num = SR.stipstream then v >>> 20
  else 0

/-- Whether the reserved fields of part 0 are zero: its own, those of special registers (R74), of port state (R99) and of
parked records (R330). -/
def controlReserved (rd : Nat → Nat → Nat) : Bool :=
  rd 0x278 392 == 0 && rd 0x6C8 56 == 0 && rd 0x780 128 == 0 && rd 0xF08 248 == 0 && rd 0x1600 2560 == 0 &&
  rd 0x218 8 >>> 11 == 0 && rd 0x218 8 >>> 6 % 4 == 0 &&
  (List.range 0x50).all (fun k =>
    if specialNumbers.contains k then specReserved k (rd (0x400 + 8 * k) 8) == 0 else rd (0x400 + 8 * k) 8 == 0) &&
  (List.range 12).all (fun p => !portStateBad rd p) &&
  (List.range (min 256 (rd 0xF00 8))).all (fun i => !parkedBad rd (0xE000 + 128 * i))

/-- The identities of the parked copies of an image. -/
def parkedIds (rd : Nat → Nat → Nat) : List Nat :=
  (List.range (min 256 (rd 0xF00 8))).map (fun i => rd (0xE000 + 128 * i + 80) 8 % 2 ^ 16)

/-- SVLOAD of part 0 into core `n`; none where the image is refused (R206). Identity registers and launchid keep the values
of the place. -/
def loadControl (s : State) (n : Nat) (rd : Nat → Nat → Nat) : Option State :=
  let st := rd 0x218 8
  let occupied := st >>> 8 % 2 == 1
  let pb := if occupied then readBank (fun o k => rd (0x16000 + o) k) else some []
  let sb := readBank (fun o k => rd (0x2B000 + o) k)
  let np := rd 0xF00 8
  match pb, sb, readHandles n rd with
  | some pb, some sb, some (held, lent, offers) =>
    if !controlReserved rd || 256 < np || !(parkedIds rd).Nodup ||
        (parkedIds rd).any (fun k => ((s.dropParked n).xl.parked.find k).isSome) then none
    else
      let c := s.core n
      let x := c.prog
      let stickies (o : Nat) : FMap W64 := (List.range 9).map (fun i => (i, BitVec.ofNat 64 (rd (o + 8 * i) 8)))
      let keep := [0, 1, 2, 3, SR.launchid, SR.handles]
      let sr : FMap W64 := (specialNumbers.filter (fun k => !keep.contains k)).map (fun k =>
        (k, specMask k (BitVec.ofNat 64 (rd (0x400 + 8 * k) 8))))
      let oldBank (b : Option Bank) : List Flight := b.elim [] (fun b => beatsOf b.entries)
      let x := { x with
        s := (List.range 63).map (fun r => (r + 1, BitVec.ofNat 64 (rd (8 * (r + 1)) 8))),
        empty := ~~~(BitVec.ofNat 64 (rd 0x200 8)),
        p := BitVec.ofNat 16 (rd 0x208 8) ||| 1,
        pc := BitVec.ofNat 64 (rd 0x210 8), rep := st % 64, cur := none,
        sr := sr.put SR.launchid (x.spec SR.launchid),
        sticky := stickies 0x680,
        oc := (List.range 64).map (fun t => (t, rd (0x700 + 2 * t) 2)),
        flight := [],
        vars := x.vars.filter (fun v => match v.kind with
          | .step .. => true
          | _ => false) }
      let takes := (held.filter (fun (_, d) => d.reserved)).zipIdx.map (fun ((h, d), i) =>
        ({ id := x.nextId + i, pc := 0, handler := false, kind := .htake d.dest h } : Var))
      let c := { c with
        prog := { x with vars := x.vars ++ takes, nextId := x.nextId + takes.length },
        k := (List.range 15).map (fun k => (k + 1, BitVec.ofNat 512 (rd (0x800 + 64 * (k + 1)) 64))),
        held := held, lent := lent, offers := offers, nextLent := 16,
        ports := (List.range 12).map (fun p => (p, readPort s n rd (pb ++ sb) p)),
        progBank := if occupied then some ⟨pb ++ c.loadedBeats.getD (oldBank c.progBank), stickies 0x230⟩ else none,
        sysBank := some ⟨sb ++ oldBank c.sysBank, []⟩,
        loadErrors := if st >>> 9 % 2 = 1 then [⟨BitVec.ofNat 64 (rd 0x220 8), false⟩] else [],
        preempt := if st >>> 10 % 2 = 1 then some true else none,
        handlerIssues := rd 0x228 8, reloaded := true }
      let moved (i : Nat) : Nat := (s.carriedOn n (parkedIds rd) i).elim i (s.nextCopy + ·)
      let s := ((s.setCore n c).renameEarlier n (fun i => some (moved i))).dropParked n
      some ((List.range np).foldl (fun s i => s.addParked (readParked rd n s.nextCopy (0xE000 + 128 * i))) s)
  | _, _, _ => none

/-- SVLOAD of part 1. -/
def loadTiles (c : Core) (rd : Nat → Nat → Nat) : Core :=
  { c with
    tiles := sparse (· == 0) ((List.range 1024).map (fun k => (k, BitVec.ofNat 4096 (rd (512 * k) 512)))),
    cellEmpty := sparse (· == 0) ((List.range 1024).map (fun k => (k, ~~~(BitVec.ofNat 128 (rd (0x80000 + 16 * k) 16))))) }

/-- SVLOAD of part 2; none where a reserved field is set or an array entry is malformed. The anchors are cut to the ten
bits that MANCH writes (R230; log 41). -/
def loadArray (c : Core) (rd : Nat → Nat → Nat) : Option Core :=
  match readArrayEntries (fun a k => rd (0x36000 + a) k), readArrayEntries (fun a k => rd (0x3EC00 + a) k) with
  | some pe, some se =>
    if rd 0x40A0 3936 ≠ 0 ∨ rd 0x4088 8 / 2 ≠ 0 then none
    else
    let noBeats (es : List Flight) : List Flight := es.filter (fun f => match f.eff with
      | .beat _ => false
      | _ => true)
    let addTo (b : Option Bank) (l : List Flight) : Option Bank :=
      b.map (fun b => { b with entries := noBeats b.entries ++ l })
    some { c with
      progBank := addTo c.progBank pe, sysBank := addTo c.sysBank se, loadedBeats := some pe,
      arr := { bufA := BitVec.ofNat 65536 (rd 0 8192), bufB := BitVec.ofNat 65536 (rd 0x2000 8192),
               planeA := BitVec.ofNat 512 (rd 0x4000 64), planeB := BitVec.ofNat 512 (rd 0x4040 64),
               sc := BitVec.ofNat 64 (rd 0x4080 8), activeB := rd 0x4088 8 == 1,
               anchor0 := signExt (rd 0x4090 8 % 1024) 10, anchor1 := signExt (rd 0x4098 8 % 1024) 10,
               acc := sparse (fun (r : AccRow) => r == AccRow.zero) ((List.range 128).map (fun k =>
                 (k, ⟨BitVec.ofNat 12288 (rd (0x6000 + 1536 * k) 1536), BitVec.ofNat 256 (rd (0x5000 + 32 * k) 32)⟩))) } }
  | _, _ => none

/-- Load a part. -/
def loadPart (s : State) (n part : Nat) (rd : Nat → Nat → Nat) : Option State :=
  match part with
  | 0 => loadControl s n rd
  | 1 => some (s.setCore n (loadTiles (s.core n) rd))
  | _ => (loadArray (s.core n) rd).map (fun c => s.setCore n c)

/-! ## Images in memory -/

/-- Take every byte of a range out of memory: it reads as zero. -/
def memClear (m : List Host.Cell) (k n : Nat) : List Host.Cell := m.filter (fun c => !(k ≤ c.1 && c.1 < k + n))

/-- Write an image at a key over a range of `size` bytes. -/
def State.writeImage (s : State) (key size : Nat) (im : Image) : State :=
  im.foldl (fun s (o, n, v) => s.write (key + o) n v) { s with mem := memClear s.mem key size }

/-- The bytes of memory from a key on, as a load reads them. -/
def State.reader (s : State) (key : Nat) : Nat → Nat → Nat := fun o n => s.read (key + o) n

end Sys2Proof.Machine
end

