-- ==== Sys2Proof/Machine/Scalar.lean ====
section
/-! DEFINITION. The S slots (R56 to R74): integer operations, predicates, scalar FP32, special registers. Each operation's
record is beside the meaning that `exec` calls. -/

namespace Sys2Proof.Machine

open Sys2Proof.Num

/-! ## Forms (R56, R57) -/

/-- A result of two registers after `l` issues. -/
def aluR (o : RR) (l : Nat) (f : W64 → W64 → W64) : OpSem :=
  { srcs := [srcRef o.a, srcRef o.b], dsts := [.reg o.d.toNat],
    act := fun v s => v.landReg s o.d (f (v.src o.a) (v.src o.b)) l 0 }

/-- An immediate as b: sign-extended. -/
def imm64 (i : BitVec 32) : W64 := i.signExtend 64

/-- A result of a register and an immediate. -/
def aluI (o : RI) (l : Nat) (f : W64 → W64 → W64) : OpSem :=
  { srcs := [srcRef o.a], dsts := [.reg o.d.toNat],
    act := fun v s => v.landReg s o.d (f (v.src o.a) (imm64 o.imm)) l 0 }

/-- A result of one register. -/
def alu1 (o : R1) (l : Nat) (f : W64 → W64) : OpSem :=
  { srcs := [srcRef o.a], dsts := [.reg o.d.toNat], act := fun v s => v.landReg s o.d (f (v.src o.a)) l 0 }

/-! ## Integer functions (R59, R60) -/

def mulHigh (a b : W64) : W64 := BitVec.ofInt 64 (a.toInt * b.toInt / 2 ^ 64)
def mulHighU (a b : W64) : W64 := BitVec.ofNat 64 (a.toNat * b.toNat / 2 ^ 64)
def quotient (a b : W64) : W64 := if b = 0 then BitVec.allOnes 64 else BitVec.ofInt 64 (a.toInt.tdiv b.toInt)
def quotientU (a b : W64) : W64 := if b = 0 then BitVec.allOnes 64 else BitVec.ofNat 64 (a.toNat / b.toNat)
def remainder (a b : W64) : W64 := if b = 0 then a else BitVec.ofInt 64 (a.toInt.tmod b.toInt)
def remainderU (a b : W64) : W64 := if b = 0 then a else BitVec.ofNat 64 (a.toNat % b.toNat)
def andNot (a b : W64) : W64 := a &&& ~~~b
def shiftCount (b : W64) : Nat := b.toNat % 64
def shiftL (a b : W64) : W64 := a <<< shiftCount b
def shiftR (a b : W64) : W64 := a >>> shiftCount b
def shiftA (a b : W64) : W64 := a.sshiftRight (shiftCount b)
def rotateL (a b : W64) : W64 := a <<< shiftCount b ||| a >>> (64 - shiftCount b)
def minS (a b : W64) : W64 := if a.slt b then a else b
def maxS (a b : W64) : W64 := if a.slt b then b else a
def minU (a b : W64) : W64 := if a.ult b then a else b
def maxU (a b : W64) : W64 := if a.ult b then b else a

/-- Leading zero bits of a value of `w` bits. -/
def leadingZeros (w x : Nat) : Nat := if x = 0 then w else w - 1 - Nat.log2 x

/-- Trailing zero bits of a 64-bit value. -/
def trailingZeros (x : Nat) : Nat := ((List.range 64).find? (fun i => x.testBit i)).getD 64

/-- Set bits of a value of `w` bits. -/
def setBits (w x : Nat) : Nat := ((List.range w).filter (fun i => x.testBit i)).length

/-- SNOP (R42). -/
def semSnop : OpSem := {}
/-- The meaning of SNOP. -/
def execSnop (h : Hdr) (s : State) : Host.Outcome State Fault Refusal := issueSlot h (.snop h) semSnop s

/-- ADD. -/
def semAdd (o : RR) : OpSem := aluR o 1 (· + ·)
/-- The meaning of ADD. -/
def execAdd (h : Hdr) (o : RR) (s : State) : Host.Outcome State Fault Refusal := issueSlot h (.add h o) (semAdd o) s
/-- ADD_IMM. -/
def semAddImm (o : RI) : OpSem := aluI o 1 (· + ·)
/-- The meaning of ADD_IMM. -/
def execAddImm (h : Hdr) (o : RI) (s : State) : Host.Outcome State Fault Refusal :=
  issueSlot h (.addImm h o) (semAddImm o) s
/-- SUB. -/
def semSub (o : RR) : OpSem := aluR o 1 (· - ·)
/-- The meaning of SUB. -/
def execSub (h : Hdr) (o : RR) (s : State) : Host.Outcome State Fault Refusal := issueSlot h (.sub h o) (semSub o) s
/-- SUB_IMM. -/
def semSubImm (o : RI) : OpSem := aluI o 1 (· - ·)
/-- The meaning of SUB_IMM. -/
def execSubImm (h : Hdr) (o : RI) (s : State) : Host.Outcome State Fault Refusal :=
  issueSlot h (.subImm h o) (semSubImm o) s
/-- MUL. -/
def semMul (o : RR) : OpSem := aluR o 3 (· * ·)
/-- The meaning of MUL. -/
def execMul (h : Hdr) (o : RR) (s : State) : Host.Outcome State Fault Refusal := issueSlot h (.mul h o) (semMul o) s
/-- MUL_IMM. -/
def semMulImm (o : RI) : OpSem := aluI o 3 (· * ·)
/-- The meaning of MUL_IMM. -/
def execMulImm (h : Hdr) (o : RI) (s : State) : Host.Outcome State Fault Refusal :=
  issueSlot h (.mulImm h o) (semMulImm o) s
/-- MULH. -/
def semMulh (o : RR) : OpSem := aluR o 3 mulHigh
/-- The meaning of MULH. -/
def execMulh (h : Hdr) (o : RR) (s : State) : Host.Outcome State Fault Refusal := issueSlot h (.mulh h o) (semMulh o) s
/-- MULH_IMM. -/
def semMulhImm (o : RI) : OpSem := aluI o 3 mulHigh
/-- The meaning of MULH_IMM. -/
def execMulhImm (h : Hdr) (o : RI) (s : State) : Host.Outcome State Fault Refusal :=
  issueSlot h (.mulhImm h o) (semMulhImm o) s
/-- MULHZ. -/
def semMulhz (o : RR) : OpSem := aluR o 3 mulHighU
/-- The meaning of MULHZ. -/
def execMulhz (h : Hdr) (o : RR) (s : State) : Host.Outcome State Fault Refusal :=
  issueSlot h (.mulhz h o) (semMulhz o) s
/-- MULHZ_IMM. -/
def semMulhzImm (o : RI) : OpSem := aluI o 3 mulHighU
/-- The meaning of MULHZ_IMM. -/
def execMulhzImm (h : Hdr) (o : RI) (s : State) : Host.Outcome State Fault Refusal :=
  issueSlot h (.mulhzImm h o) (semMulhzImm o) s
/-- DIV. -/
def semDiv (o : RR) : OpSem := aluR o 12 quotient
/-- The meaning of DIV. -/
def execDiv (h : Hdr) (o : RR) (s : State) : Host.Outcome State Fault Refusal := issueSlot h (.div h o) (semDiv o) s
/-- DIV_IMM. -/
def semDivImm (o : RI) : OpSem := aluI o 12 quotient
/-- The meaning of DIV_IMM. -/
def execDivImm (h : Hdr) (o : RI) (s : State) : Host.Outcome State Fault Refusal :=
  issueSlot h (.divImm h o) (semDivImm o) s
/-- DIVZ. -/
def semDivz (o : RR) : OpSem := aluR o 12 quotientU
/-- The meaning of DIVZ. -/
def execDivz (h : Hdr) (o : RR) (s : State) : Host.Outcome State Fault Refusal := issueSlot h (.divz h o) (semDivz o) s
/-- DIVZ_IMM. -/
def semDivzImm (o : RI) : OpSem := aluI o 12 quotientU
/-- The meaning of DIVZ_IMM. -/
def execDivzImm (h : Hdr) (o : RI) (s : State) : Host.Outcome State Fault Refusal :=
  issueSlot h (.divzImm h o) (semDivzImm o) s
/-- REM. -/
def semRem (o : RR) : OpSem := aluR o 12 remainder
/-- The meaning of REM. -/
def execRem (h : Hdr) (o : RR) (s : State) : Host.Outcome State Fault Refusal := issueSlot h (.rem h o) (semRem o) s
/-- REM_IMM. -/
def semRemImm (o : RI) : OpSem := aluI o 12 remainder
/-- The meaning of REM_IMM. -/
def execRemImm (h : Hdr) (o : RI) (s : State) : Host.Outcome State Fault Refusal :=
  issueSlot h (.remImm h o) (semRemImm o) s
/-- REMZ. -/
def semRemz (o : RR) : OpSem := aluR o 12 remainderU
/-- The meaning of REMZ. -/
def execRemz (h : Hdr) (o : RR) (s : State) : Host.Outcome State Fault Refusal := issueSlot h (.remz h o) (semRemz o) s
/-- REMZ_IMM. -/
def semRemzImm (o : RI) : OpSem := aluI o 12 remainderU
/-- The meaning of REMZ_IMM. -/
def execRemzImm (h : Hdr) (o : RI) (s : State) : Host.Outcome State Fault Refusal :=
  issueSlot h (.remzImm h o) (semRemzImm o) s
/-- AND. -/
def semAnd (o : RR) : OpSem := aluR o 1 (· &&& ·)
/-- The meaning of AND. -/
def execAnd (h : Hdr) (o : RR) (s : State) : Host.Outcome State Fault Refusal := issueSlot h (.and h o) (semAnd o) s
/-- AND_IMM. -/
def semAndImm (o : RI) : OpSem := aluI o 1 (· &&& ·)
/-- The meaning of AND_IMM. -/
def execAndImm (h : Hdr) (o : RI) (s : State) : Host.Outcome State Fault Refusal :=
  issueSlot h (.andImm h o) (semAndImm o) s
/-- OR. -/
def semOr (o : RR) : OpSem := aluR o 1 (· ||| ·)
/-- The meaning of OR. -/
def execOr (h : Hdr) (o : RR) (s : State) : Host.Outcome State Fault Refusal := issueSlot h (.or h o) (semOr o) s
/-- OR_IMM. -/
def semOrImm (o : RI) : OpSem := aluI o 1 (· ||| ·)
/-- The meaning of OR_IMM. -/
def execOrImm (h : Hdr) (o : RI) (s : State) : Host.Outcome State Fault Refusal :=
  issueSlot h (.orImm h o) (semOrImm o) s
/-- XOR. -/
def semXor (o : RR) : OpSem := aluR o 1 (· ^^^ ·)
/-- The meaning of XOR. -/
def execXor (h : Hdr) (o : RR) (s : State) : Host.Outcome State Fault Refusal := issueSlot h (.xor h o) (semXor o) s
/-- XOR_IMM. -/
def semXorImm (o : RI) : OpSem := aluI o 1 (· ^^^ ·)
/-- The meaning of XOR_IMM. -/
def execXorImm (h : Hdr) (o : RI) (s : State) : Host.Outcome State Fault Refusal :=
  issueSlot h (.xorImm h o) (semXorImm o) s
/-- ANDN. -/
def semAndn (o : RR) : OpSem := aluR o 1 andNot
/-- The meaning of ANDN. -/
def execAndn (h : Hdr) (o : RR) (s : State) : Host.Outcome State Fault Refusal := issueSlot h (.andn h o) (semAndn o) s
/-- ANDN_IMM. -/
def semAndnImm (o : RI) : OpSem := aluI o 1 andNot
/-- The meaning of ANDN_IMM. -/
def execAndnImm (h : Hdr) (o : RI) (s : State) : Host.Outcome State Fault Refusal :=
  issueSlot h (.andnImm h o) (semAndnImm o) s
/-- SHL. -/
def semShl (o : RR) : OpSem := aluR o 1 shiftL
/-- The meaning of SHL. -/
def execShl (h : Hdr) (o : RR) (s : State) : Host.Outcome State Fault Refusal := issueSlot h (.shl h o) (semShl o) s
/-- SHL_IMM. -/
def semShlImm (o : RI) : OpSem := aluI o 1 shiftL
/-- The meaning of SHL_IMM. -/
def execShlImm (h : Hdr) (o : RI) (s : State) : Host.Outcome State Fault Refusal :=
  issueSlot h (.shlImm h o) (semShlImm o) s
/-- SHR. -/
def semShr (o : RR) : OpSem := aluR o 1 shiftR
/-- The meaning of SHR. -/
def execShr (h : Hdr) (o : RR) (s : State) : Host.Outcome State Fault Refusal := issueSlot h (.shr h o) (semShr o) s
/-- SHR_IMM. -/
def semShrImm (o : RI) : OpSem := aluI o 1 shiftR
/-- The meaning of SHR_IMM. -/
def execShrImm (h : Hdr) (o : RI) (s : State) : Host.Outcome State Fault Refusal :=
  issueSlot h (.shrImm h o) (semShrImm o) s
/-- SAR. -/
def semSar (o : RR) : OpSem := aluR o 1 shiftA
/-- The meaning of SAR. -/
def execSar (h : Hdr) (o : RR) (s : State) : Host.Outcome State Fault Refusal := issueSlot h (.sar h o) (semSar o) s
/-- SAR_IMM. -/
def semSarImm (o : RI) : OpSem := aluI o 1 shiftA
/-- The meaning of SAR_IMM. -/
def execSarImm (h : Hdr) (o : RI) (s : State) : Host.Outcome State Fault Refusal :=
  issueSlot h (.sarImm h o) (semSarImm o) s
/-- ROL. -/
def semRol (o : RR) : OpSem := aluR o 1 rotateL
/-- The meaning of ROL. -/
def execRol (h : Hdr) (o : RR) (s : State) : Host.Outcome State Fault Refusal := issueSlot h (.rol h o) (semRol o) s
/-- ROL_IMM. -/
def semRolImm (o : RI) : OpSem := aluI o 1 rotateL
/-- The meaning of ROL_IMM. -/
def execRolImm (h : Hdr) (o : RI) (s : State) : Host.Outcome State Fault Refusal :=
  issueSlot h (.rolImm h o) (semRolImm o) s
/-- MIN. -/
def semMin (o : RR) : OpSem := aluR o 1 minS
/-- The meaning of MIN. -/
def execMin (h : Hdr) (o : RR) (s : State) : Host.Outcome State Fault Refusal := issueSlot h (.min h o) (semMin o) s
/-- MIN_IMM. -/
def semMinImm (o : RI) : OpSem := aluI o 1 minS
/-- The meaning of MIN_IMM. -/
def execMinImm (h : Hdr) (o : RI) (s : State) : Host.Outcome State Fault Refusal :=
  issueSlot h (.minImm h o) (semMinImm o) s
/-- MAX. -/
def semMax (o : RR) : OpSem := aluR o 1 maxS
/-- The meaning of MAX. -/
def execMax (h : Hdr) (o : RR) (s : State) : Host.Outcome State Fault Refusal := issueSlot h (.max h o) (semMax o) s
/-- MAX_IMM. -/
def semMaxImm (o : RI) : OpSem := aluI o 1 maxS
/-- The meaning of MAX_IMM. -/
def execMaxImm (h : Hdr) (o : RI) (s : State) : Host.Outcome State Fault Refusal :=
  issueSlot h (.maxImm h o) (semMaxImm o) s
/-- MINZ. -/
def semMinz (o : RR) : OpSem := aluR o 1 minU
/-- The meaning of MINZ. -/
def execMinz (h : Hdr) (o : RR) (s : State) : Host.Outcome State Fault Refusal := issueSlot h (.minz h o) (semMinz o) s
/-- MINZ_IMM. -/
def semMinzImm (o : RI) : OpSem := aluI o 1 minU
/-- The meaning of MINZ_IMM. -/
def execMinzImm (h : Hdr) (o : RI) (s : State) : Host.Outcome State Fault Refusal :=
  issueSlot h (.minzImm h o) (semMinzImm o) s
/-- MAXZ. -/
def semMaxz (o : RR) : OpSem := aluR o 1 maxU
/-- The meaning of MAXZ. -/
def execMaxz (h : Hdr) (o : RR) (s : State) : Host.Outcome State Fault Refusal := issueSlot h (.maxz h o) (semMaxz o) s
/-- MAXZ_IMM. -/
def semMaxzImm (o : RI) : OpSem := aluI o 1 maxU
/-- The meaning of MAXZ_IMM. -/
def execMaxzImm (h : Hdr) (o : RI) (s : State) : Host.Outcome State Fault Refusal :=
  issueSlot h (.maxzImm h o) (semMaxzImm o) s
/-- CLZ. -/
def semClz (o : R1) : OpSem := alu1 o 1 (fun a => BitVec.ofNat 64 (leadingZeros 64 a.toNat))
/-- The meaning of CLZ. -/
def execClz (h : Hdr) (o : R1) (s : State) : Host.Outcome State Fault Refusal := issueSlot h (.clz h o) (semClz o) s
/-- CTZ. -/
def semCtz (o : R1) : OpSem := alu1 o 1 (fun a => BitVec.ofNat 64 (trailingZeros a.toNat))
/-- The meaning of CTZ. -/
def execCtz (h : Hdr) (o : R1) (s : State) : Host.Outcome State Fault Refusal := issueSlot h (.ctz h o) (semCtz o) s
/-- POPC. -/
def semPopc (o : R1) : OpSem := alu1 o 1 (fun a => BitVec.ofNat 64 (setBits 64 a.toNat))
/-- The meaning of POPC. -/
def execPopc (h : Hdr) (o : R1) (s : State) : Host.Outcome State Fault Refusal := issueSlot h (.popc h o) (semPopc o) s

/-! ## Bit fields, funnel shifts, selection (R61 to R63) -/

/-- The width of a field: cut at bit 63. -/
def fieldWidth (pos wm1 : BitVec 6) : Nat := min (wm1.toNat + 1) (64 - pos.toNat)

/-- The field that BFX and BFXZ extract. -/
def extractField (o : Bf) (a : W64) : Nat := a.toNat >>> o.pos.toNat % 2 ^ fieldWidth o.pos o.wm1

/-- BFX. -/
def semBfx (o : Bf) : OpSem :=
  alu1 ⟨o.d, o.a⟩ 1 (fun a => BitVec.ofInt 64 (signExt (extractField o a) (fieldWidth o.pos o.wm1)))
/-- The meaning of BFX. -/
def execBfx (h : Hdr) (o : Bf) (s : State) : Host.Outcome State Fault Refusal := issueSlot h (.bfx h o) (semBfx o) s
/-- BFXZ. -/
def semBfxz (o : Bf) : OpSem := alu1 ⟨o.d, o.a⟩ 1 (fun a => BitVec.ofNat 64 (extractField o a))
/-- The meaning of BFXZ. -/
def execBfxz (h : Hdr) (o : Bf) (s : State) : Host.Outcome State Fault Refusal := issueSlot h (.bfxz h o) (semBfxz o) s

/-- The word with a field replaced (BFI). -/
def insertField (pos w : Nat) (a b : W64) : W64 :=
  let m := BitVec.ofNat 64 ((2 ^ w - 1) <<< pos)
  (a &&& ~~~m) ||| (b <<< pos &&& m)

/-- BFI. -/
def semBfi (o : Bfi) : OpSem := aluR ⟨o.d, o.a, o.b⟩ 1 (insertField o.pos.toNat (fieldWidth o.pos o.wm1))
/-- The meaning of BFI. -/
def execBfi (h : Hdr) (o : Bfi) (s : State) : Host.Outcome State Fault Refusal := issueSlot h (.bfi h o) (semBfi o) s

/-- A result of three registers. -/
def alu3 (o : R3) (f : W64 → W64 → W64 → W64) : OpSem :=
  { srcs := [srcRef o.a, srcRef o.b, srcRef o.c], dsts := [.reg o.d.toNat],
    act := fun v s => v.landReg s o.d (f (v.src o.a) (v.src o.b) (v.src o.c)) 1 0 }

/-- The 128-bit concatenation a:b. -/
def concat128 (a b : W64) : BitVec 128 := a ++ b

/-- FSHL. -/
def semFshl (o : R3) : OpSem := alu3 o (fun a b c => (concat128 a b <<< shiftCount c).extractLsb' 64 64)
/-- The meaning of FSHL. -/
def execFshl (h : Hdr) (o : R3) (s : State) : Host.Outcome State Fault Refusal := issueSlot h (.fshl h o) (semFshl o) s
/-- FSHR. -/
def semFshr (o : R3) : OpSem := alu3 o (fun a b c => (concat128 a b >>> shiftCount c).extractLsb' 0 64)
/-- The meaning of FSHR. -/
def execFshr (h : Hdr) (o : R3) (s : State) : Host.Outcome State Fault Refusal := issueSlot h (.fshr h o) (semFshr o) s

/-- SEL: both sources are read. -/
def semSel (o : SelR) : OpSem :=
  { srcs := [srcRef o.a, srcRef o.b], dsts := [.reg o.d.toNat],
    act := fun v s => v.landReg s o.d (if v.x.pred o.q.toNat then v.src o.a else v.src o.b) 1 0 }
/-- The meaning of SEL. -/
def execSel (h : Hdr) (o : SelR) (s : State) : Host.Outcome State Fault Refusal := issueSlot h (.sel h o) (semSel o) s
/-- SEL_IMM. -/
def semSelImm (o : SelI) : OpSem :=
  { srcs := [srcRef o.a], dsts := [.reg o.d.toNat],
    act := fun v s => v.landReg s o.d (if v.x.pred o.q.toNat then v.src o.a else imm64 o.imm) 1 0 }
/-- The meaning of SEL_IMM. -/
def execSelImm (h : Hdr) (o : SelI) (s : State) : Host.Outcome State Fault Refusal :=
  issueSlot h (.selImm h o) (semSelImm o) s
/-- MOVI. -/
def semMovi (o : Movi) : OpSem :=
  { dsts := [.reg o.d.toNat], act := fun v s => v.landReg s o.d (imm64 o.imm) 1 0 }
/-- The meaning of MOVI. -/
def execMovi (h : Hdr) (o : Movi) (s : State) : Host.Outcome State Fault Refusal :=
  issueSlot h (.movi h o) (semMovi o) s
/-- MOVHI. -/
def semMovhi (o : RI) : OpSem :=
  { srcs := [srcRef o.a], dsts := [.reg o.d.toNat],
    act := fun v s => v.landReg s o.d (o.imm ++ (v.src o.a).setWidth 32) 1 0 }
/-- The meaning of MOVHI. -/
def execMovhi (h : Hdr) (o : RI) (s : State) : Host.Outcome State Fault Refusal :=
  issueSlot h (.movhi h o) (semMovhi o) s

/-! ## Compares and predicates (R64, R65) -/

/-- A compare of two registers. -/
def cmpR (o : CmpR) (f : W64 → W64 → Bool) : OpSem :=
  { srcs := [srcRef o.a, srcRef o.b], dsts := [.pred o.pd.toNat],
    act := fun v s => v.landPred s o.pd (f (v.src o.a) (v.src o.b)) 1 0 }

/-- A compare with an immediate. -/
def cmpI (o : CmpI) (f : W64 → W64 → Bool) : OpSem :=
  { srcs := [srcRef o.a], dsts := [.pred o.pd.toNat], act := fun v s => v.landPred s o.pd (f (v.src o.a) (imm64 o.imm)) 1 0 }

/-- CMPEQ. -/
def semCmpeq (o : CmpR) : OpSem := cmpR o (· == ·)
/-- The meaning of CMPEQ. -/
def execCmpeq (h : Hdr) (o : CmpR) (s : State) : Host.Outcome State Fault Refusal :=
  issueSlot h (.cmpeq h o) (semCmpeq o) s
/-- CMPEQ_IMM. -/
def semCmpeqImm (o : CmpI) : OpSem := cmpI o (· == ·)
/-- The meaning of CMPEQ_IMM. -/
def execCmpeqImm (h : Hdr) (o : CmpI) (s : State) : Host.Outcome State Fault Refusal :=
  issueSlot h (.cmpeqImm h o) (semCmpeqImm o) s
/-- CMPNE. -/
def semCmpne (o : CmpR) : OpSem := cmpR o (· != ·)
/-- The meaning of CMPNE. -/
def execCmpne (h : Hdr) (o : CmpR) (s : State) : Host.Outcome State Fault Refusal :=
  issueSlot h (.cmpne h o) (semCmpne o) s
/-- CMPNE_IMM. -/
def semCmpneImm (o : CmpI) : OpSem := cmpI o (· != ·)
/-- The meaning of CMPNE_IMM. -/
def execCmpneImm (h : Hdr) (o : CmpI) (s : State) : Host.Outcome State Fault Refusal :=
  issueSlot h (.cmpneImm h o) (semCmpneImm o) s
/-- CMPLT. -/
def semCmplt (o : CmpR) : OpSem := cmpR o BitVec.slt
/-- The meaning of CMPLT. -/
def execCmplt (h : Hdr) (o : CmpR) (s : State) : Host.Outcome State Fault Refusal :=
  issueSlot h (.cmplt h o) (semCmplt o) s
/-- CMPLT_IMM. -/
def semCmpltImm (o : CmpI) : OpSem := cmpI o BitVec.slt
/-- The meaning of CMPLT_IMM. -/
def execCmpltImm (h : Hdr) (o : CmpI) (s : State) : Host.Outcome State Fault Refusal :=
  issueSlot h (.cmpltImm h o) (semCmpltImm o) s
/-- CMPLE. -/
def semCmple (o : CmpR) : OpSem := cmpR o BitVec.sle
/-- The meaning of CMPLE. -/
def execCmple (h : Hdr) (o : CmpR) (s : State) : Host.Outcome State Fault Refusal :=
  issueSlot h (.cmple h o) (semCmple o) s
/-- CMPLE_IMM. -/
def semCmpleImm (o : CmpI) : OpSem := cmpI o BitVec.sle
/-- The meaning of CMPLE_IMM. -/
def execCmpleImm (h : Hdr) (o : CmpI) (s : State) : Host.Outcome State Fault Refusal :=
  issueSlot h (.cmpleImm h o) (semCmpleImm o) s
/-- CMPLTZ. -/
def semCmpltz (o : CmpR) : OpSem := cmpR o BitVec.ult
/-- The meaning of CMPLTZ. -/
def execCmpltz (h : Hdr) (o : CmpR) (s : State) : Host.Outcome State Fault Refusal :=
  issueSlot h (.cmpltz h o) (semCmpltz o) s
/-- CMPLTZ_IMM. -/
def semCmpltzImm (o : CmpI) : OpSem := cmpI o BitVec.ult
/-- The meaning of CMPLTZ_IMM. -/
def execCmpltzImm (h : Hdr) (o : CmpI) (s : State) : Host.Outcome State Fault Refusal :=
  issueSlot h (.cmpltzImm h o) (semCmpltzImm o) s
/-- CMPLEZ. -/
def semCmplez (o : CmpR) : OpSem := cmpR o BitVec.ule
/-- The meaning of CMPLEZ. -/
def execCmplez (h : Hdr) (o : CmpR) (s : State) : Host.Outcome State Fault Refusal :=
  issueSlot h (.cmplez h o) (semCmplez o) s
/-- CMPLEZ_IMM. -/
def semCmplezImm (o : CmpI) : OpSem := cmpI o BitVec.ule
/-- The meaning of CMPLEZ_IMM. -/
def execCmplezImm (h : Hdr) (o : CmpI) (s : State) : Host.Outcome State Fault Refusal :=
  issueSlot h (.cmplezImm h o) (semCmplezImm o) s

/-- A predicate operation of x = p[A] XOR NA and y = p[B] XOR NB. -/
def predOp (o : PredOp) (f : Bool → Bool → Bool) : OpSem :=
  { dsts := [.pred o.pd.toNat],
    act := fun v s => v.landPred s o.pd (f (v.x.pred o.pa.toNat != o.na) (v.x.pred o.pb.toNat != o.nb)) 1 0 }

/-- PAND. -/
def semPand (o : PredOp) : OpSem := predOp o and
/-- The meaning of PAND. -/
def execPand (h : Hdr) (o : PredOp) (s : State) : Host.Outcome State Fault Refusal :=
  issueSlot h (.pand h o) (semPand o) s
/-- POR. -/
def semPor (o : PredOp) : OpSem := predOp o or
/-- The meaning of POR. -/
def execPor (h : Hdr) (o : PredOp) (s : State) : Host.Outcome State Fault Refusal := issueSlot h (.por h o) (semPor o) s
/-- PXOR. -/
def semPxor (o : PredOp) : OpSem := predOp o xor
/-- The meaning of PXOR. -/
def execPxor (h : Hdr) (o : PredOp) (s : State) : Host.Outcome State Fault Refusal :=
  issueSlot h (.pxor h o) (semPxor o) s
/-- PANDN. -/
def semPandn (o : PredOp) : OpSem := predOp o (fun x y => x && !y)
/-- The meaning of PANDN. -/
def execPandn (h : Hdr) (o : PredOp) (s : State) : Host.Outcome State Fault Refusal :=
  issueSlot h (.pandn h o) (semPandn o) s

/-- The predicates that PSET sets. -/
def psetTargets (imm : BitVec 32) : List Nat := (List.range 16).filter (fun i => i != 0 && imm.getLsbD (16 + i))

/-- PSET. -/
def semPset (o : PsetOp) : OpSem :=
  { dsts := (psetTargets o.imm).map .pred,
    act := fun v s => (psetTargets o.imm).foldl (fun s i => v.landPred s (BitVec.ofNat 4 i) (o.imm.getLsbD i) 1 0) s }
/-- The meaning of PSET. -/
def execPset (h : Hdr) (o : PsetOp) (s : State) : Host.Outcome State Fault Refusal :=
  issueSlot h (.pset h o) (semPset o) s

/-! ## Scalar FP32 (R66 to R70) -/

/-- How a scalar operation rounds (R67). -/
def Env.scalarRnd (v : Env) (rm : BitVec 3) : Rnd :=
  v.x.rnd rm.toNat 0 ((v.x.spec SR.issues).toNat % 2 ^ 20) false

/-- The low 32 bits of a source as an f32 pattern. -/
def low32 (a : W64) : Nat := a.toNat % 2 ^ 32

/-- A result of the low halves of two registers, with flags. -/
def fpR (o : FpR) (l : Nat) (f : Rnd → Nat → Nat → Nat × Nat) : OpSem :=
  { srcs := [srcRef o.a, srcRef o.b], dsts := [.reg o.d.toNat], wait := fun v => v.x.srStall o.rm.toNat,
    act := fun v s =>
      let (x, fl) := f (v.scalarRnd o.rm) (low32 (v.src o.a)) (low32 (v.src o.b))
      v.landReg s o.d (BitVec.ofNat 64 x) l fl }

/-- A result of a register and an immediate pattern. -/
def fpI (o : FpI) (l : Nat) (f : Rnd → Nat → Nat → Nat × Nat) : OpSem :=
  { srcs := [srcRef o.a], dsts := [.reg o.d.toNat], wait := fun v => v.x.srStall o.rm.toNat,
    act := fun v s =>
      let (x, fl) := f (v.scalarRnd o.rm) (low32 (v.src o.a)) o.imm.toNat
      v.landReg s o.d (BitVec.ofNat 64 x) l fl }

def fpAdd (r : Rnd) (a b : Nat) : Nat × Nat := fadd f32 r 0 (f32.val a) (f32.val b)
def fpSub (r : Rnd) (a b : Nat) : Nat × Nat := fadd f32 r 0 (f32.val a) (f32.val b).neg
def fpMul (r : Rnd) (a b : Nat) : Nat × Nat := fmul f32 r (f32.val a) (f32.val b)
def fpMin (_ : Rnd) (a b : Nat) : Nat × Nat := fminmax f32 false a b
def fpMax (_ : Rnd) (a b : Nat) : Nat × Nat := fminmax f32 true a b

/-- FADD. -/
def semFadd (o : FpR) : OpSem := fpR o 4 fpAdd
/-- The meaning of FADD. -/
def execFadd (h : Hdr) (o : FpR) (s : State) : Host.Outcome State Fault Refusal := issueSlot h (.fadd h o) (semFadd o) s
/-- FADD_IMM. -/
def semFaddImm (o : FpI) : OpSem := fpI o 4 fpAdd
/-- The meaning of FADD_IMM. -/
def execFaddImm (h : Hdr) (o : FpI) (s : State) : Host.Outcome State Fault Refusal :=
  issueSlot h (.faddImm h o) (semFaddImm o) s
/-- FSUB. -/
def semFsub (o : FpR) : OpSem := fpR o 4 fpSub
/-- The meaning of FSUB. -/
def execFsub (h : Hdr) (o : FpR) (s : State) : Host.Outcome State Fault Refusal := issueSlot h (.fsub h o) (semFsub o) s
/-- FSUB_IMM. -/
def semFsubImm (o : FpI) : OpSem := fpI o 4 fpSub
/-- The meaning of FSUB_IMM. -/
def execFsubImm (h : Hdr) (o : FpI) (s : State) : Host.Outcome State Fault Refusal :=
  issueSlot h (.fsubImm h o) (semFsubImm o) s
/-- FMUL. -/
def semFmul (o : FpR) : OpSem := fpR o 4 fpMul
/-- The meaning of FMUL. -/
def execFmul (h : Hdr) (o : FpR) (s : State) : Host.Outcome State Fault Refusal := issueSlot h (.fmul h o) (semFmul o) s
/-- FMUL_IMM. -/
def semFmulImm (o : FpI) : OpSem := fpI o 4 fpMul
/-- The meaning of FMUL_IMM. -/
def execFmulImm (h : Hdr) (o : FpI) (s : State) : Host.Outcome State Fault Refusal :=
  issueSlot h (.fmulImm h o) (semFmulImm o) s

/-- FMA. -/
def semFma (o : Fma3) : OpSem :=
  { srcs := [srcRef o.a, srcRef o.b, srcRef o.c], dsts := [.reg o.d.toNat], wait := fun v => v.x.srStall o.rm.toNat,
    act := fun v s =>
      let (x, fl) := ffma f32 (v.scalarRnd o.rm) (f32.val (low32 (v.src o.a))) (f32.val (low32 (v.src o.b)))
        (f32.val (low32 (v.src o.c)))
      v.landReg s o.d (BitVec.ofNat 64 x) 4 fl }
/-- The meaning of FMA. -/
def execFma (h : Hdr) (o : Fma3) (s : State) : Host.Outcome State Fault Refusal := issueSlot h (.fma h o) (semFma o) s

/-- FMIN. -/
def semFmin (o : FpR) : OpSem := fpR o 2 fpMin
/-- The meaning of FMIN. -/
def execFmin (h : Hdr) (o : FpR) (s : State) : Host.Outcome State Fault Refusal := issueSlot h (.fmin h o) (semFmin o) s
/-- FMIN_IMM. -/
def semFminImm (o : FpI) : OpSem := fpI o 2 fpMin
/-- The meaning of FMIN_IMM. -/
def execFminImm (h : Hdr) (o : FpI) (s : State) : Host.Outcome State Fault Refusal :=
  issueSlot h (.fminImm h o) (semFminImm o) s
/-- FMAX. -/
def semFmax (o : FpR) : OpSem := fpR o 2 fpMax
/-- The meaning of FMAX. -/
def execFmax (h : Hdr) (o : FpR) (s : State) : Host.Outcome State Fault Refusal := issueSlot h (.fmax h o) (semFmax o) s
/-- FMAX_IMM. -/
def semFmaxImm (o : FpI) : OpSem := fpI o 2 fpMax
/-- The meaning of FMAX_IMM. -/
def execFmaxImm (h : Hdr) (o : FpI) (s : State) : Host.Outcome State Fault Refusal :=
  issueSlot h (.fmaxImm h o) (semFmaxImm o) s

/-- A floating compare of two registers (R68). -/
def fcmpR (o : FcmpR) (c : Cmp) : OpSem :=
  { srcs := [srcRef o.a, srcRef o.b], dsts := [.pred o.pd.toNat],
    act := fun v s =>
      let (b, fl) := fcmp c (f32.val (low32 (v.src o.a))) (f32.val (low32 (v.src o.b)))
      v.landPred s o.pd b 2 fl }

/-- A floating compare with an immediate. -/
def fcmpI (o : FcmpI) (c : Cmp) : OpSem :=
  { srcs := [srcRef o.a], dsts := [.pred o.pd.toNat],
    act := fun v s =>
      let (b, fl) := fcmp c (f32.val (low32 (v.src o.a))) (f32.val o.imm.toNat)
      v.landPred s o.pd b 2 fl }

/-- FCMPEQ. -/
def semFcmpeq (o : FcmpR) : OpSem := fcmpR o .eq
/-- The meaning of FCMPEQ. -/
def execFcmpeq (h : Hdr) (o : FcmpR) (s : State) : Host.Outcome State Fault Refusal :=
  issueSlot h (.fcmpeq h o) (semFcmpeq o) s
/-- FCMPEQ_IMM. -/
def semFcmpeqImm (o : FcmpI) : OpSem := fcmpI o .eq
/-- The meaning of FCMPEQ_IMM. -/
def execFcmpeqImm (h : Hdr) (o : FcmpI) (s : State) : Host.Outcome State Fault Refusal :=
  issueSlot h (.fcmpeqImm h o) (semFcmpeqImm o) s
/-- FCMPLT. -/
def semFcmplt (o : FcmpR) : OpSem := fcmpR o .lt
/-- The meaning of FCMPLT. -/
def execFcmplt (h : Hdr) (o : FcmpR) (s : State) : Host.Outcome State Fault Refusal :=
  issueSlot h (.fcmplt h o) (semFcmplt o) s
/-- FCMPLT_IMM. -/
def semFcmpltImm (o : FcmpI) : OpSem := fcmpI o .lt
/-- The meaning of FCMPLT_IMM. -/
def execFcmpltImm (h : Hdr) (o : FcmpI) (s : State) : Host.Outcome State Fault Refusal :=
  issueSlot h (.fcmpltImm h o) (semFcmpltImm o) s
/-- FCMPLE. -/
def semFcmple (o : FcmpR) : OpSem := fcmpR o .le
/-- The meaning of FCMPLE. -/
def execFcmple (h : Hdr) (o : FcmpR) (s : State) : Host.Outcome State Fault Refusal :=
  issueSlot h (.fcmple h o) (semFcmple o) s
/-- FCMPLE_IMM. -/
def semFcmpleImm (o : FcmpI) : OpSem := fcmpI o .le
/-- The meaning of FCMPLE_IMM. -/
def execFcmpleImm (h : Hdr) (o : FcmpI) (s : State) : Host.Outcome State Fault Refusal :=
  issueSlot h (.fcmpleImm h o) (semFcmpleImm o) s

/-- The limits of the integer type of FCVTI and FCVTF. -/
def cvtRange (o : Fcvt) : Int × Int :=
  let n := if o.wide then 64 else 32
  if tySigned o.ty then (-(2 ^ (n - 1)), 2 ^ (n - 1) - 1) else (0, 2 ^ n - 1)

/-- The integer that FCVTF reads. -/
def cvtInt (o : Fcvt) (a : W64) : Int :=
  let n := if o.wide then 64 else 32
  if tySigned o.ty then signExt a.toNat n else ((a.toNat % 2 ^ n : Nat) : Int)

/-- FCVTI. -/
def semFcvti (o : Fcvt) : OpSem :=
  { srcs := [srcRef o.a], dsts := [.reg o.d.toNat], wait := fun v => v.x.srStall o.rm.toNat,
    act := fun v s =>
      let (lo, hi) := cvtRange o
      let (x, fl) := toInt lo hi (v.scalarRnd o.rm) (f32.val (low32 (v.src o.a)))
      v.landReg s o.d (BitVec.ofInt 64 x) 4 fl }
/-- The meaning of FCVTI. -/
def execFcvti (h : Hdr) (o : Fcvt) (s : State) : Host.Outcome State Fault Refusal :=
  issueSlot h (.fcvti h o) (semFcvti o) s
/-- FCVTF. -/
def semFcvtf (o : Fcvt) : OpSem :=
  { srcs := [srcRef o.a], dsts := [.reg o.d.toNat], wait := fun v => v.x.srStall o.rm.toNat,
    act := fun v s =>
      let (x, fl) := f32.roundVal (v.scalarRnd o.rm) (ofInt (cvtInt o (v.src o.a)))
      v.landReg s o.d (BitVec.ofNat 64 x) 4 fl }
/-- The meaning of FCVTF. -/
def execFcvtf (h : Hdr) (o : Fcvt) (s : State) : Host.Outcome State Fault Refusal :=
  issueSlot h (.fcvtf h o) (semFcvtf o) s

/-! ## Special registers (R71 to R74) -/

/-- A special register as RDSR reads it at its issue. Supervisor mode holds no handle (R200): there handles reads zero, a
reading of R72 that the spec does not state (DESIGN CHOICE, log 53). -/
def Env.special (v : Env) (num : Nat) : W64 :=
  if v.c.inSup ∧ num = SR.handles then 0 else v.s.special v.core v.x num

/-- RDSR. -/
def semRdsr (o : Rdsr) : OpSem :=
  { dsts := [.reg o.d.toNat], act := fun v s => v.landReg s o.d (v.special o.num.toNat) 1 0 }
/-- The meaning of RDSR. -/
def execRdsr (h : Hdr) (o : Rdsr) (s : State) : Host.Outcome State Fault Refusal :=
  issueSlot h (.rdsr h o) (semRdsr o) s

/-- WRSR: a register whose Access is R is a privilege trap in program mode and is ignored in supervisor mode (R73). -/
def semWrsr (o : Wrsr) : OpSem :=
  { srcs := [srcRef o.a],
    check := fun v =>
      if specReadOnly o.num.toNat && !v.c.inSup then some (privFault 1)
      else if o.num.toNat = SR.ldepth ∧ 6 < (v.src o.a).toNat then some (lovf 2) else none,
    act := fun v s =>
      if specReadOnly o.num.toNat then s
      else s.land v.core (flightOf (.special o.num.toNat (v.src o.a)) 1 v.slot 0) }
/-- The meaning of WRSR. -/
def execWrsr (h : Hdr) (o : Wrsr) (s : State) : Host.Outcome State Fault Refusal :=
  issueSlot h (.wrsr h o) (semWrsr o) s

end Sys2Proof.Machine
end

