-- ==== Sys2Proof/Machine/Vector.lean ====
section
/-! DEFINITION. The V slots (R108 to R129): element-wise operations, compares, moves and permutes, reductions and scans,
widening and narrowing, mask operations. -/

namespace Sys2Proof.Machine

open Sys2Proof.Num

/-! ## Forms -/

/-- The element width of an operation's type. -/
def vWidth (o : VF) : Nat := tyWidth o.ty

/-- The latency of an operation that is slower on floating types. -/
def vLatency (o : VF) (ints floats : Nat) : Nat := if tyF o.ty then floats else ints

/-- How element `j` rounds (R116). -/
def Env.vRnd (v : Env) (o : VF) (j : Nat) : Rnd := v.x.rnd o.mode.toNat (specRow o.dst) j o.sat

/-- The activity of the elements. -/
def vActive (o : VF) (v : Env) : List Bool := maskBits (v.c.mask o.k.toNat) (vWidth o)

/-- The elements of the sources and of the destination as read. -/
def vSrc1 (o : VF) (v : Env) : List Nat := lineElems (vWidth o) (v.line o.s1 (vWidth o) 0)
def vSrc2 (o : VF) (v : Env) : List Nat := lineElems (vWidth o) (v.line2 o.s1 o.s2 (vWidth o))
def vDest (o : VF) (v : Env) : List Nat := lineElems (vWidth o) (tileLine v.c.tiles o.dst false)

/-- Land elements under the mask (R109): inactive elements are zero with Z and in a pushed line, and keep their value
otherwise; only active elements raise flags. -/
def landMasked (o : VF) (v : Env) (l : Nat) (rs : List (Nat × Nat)) (s : State) : State :=
  let act := vActive o v
  let (vals, fl) := gather act rs
  let data := lineOf (vWidth o) ((act.zip vals).map (fun (a, x) => if a then x else 0))
  v.landLines s o.dst (if o.z then fullLine else enableOf (vWidth o) act) [data] l fl

/-- An operation whose result is one line: sources, latency and the values with flags of all elements. -/
def vecOp (o : VF) (srcs : List SrcRef) (l : Nat) (f : Env → List (Nat × Nat)) : OpSem :=
  { srcs := srcs, dsts := [.line o.dst 1 false], pushes := pushesOf o.dst,
    wait := fun v => v.x.srStall o.mode.toNat, act := fun v s => landMasked o v l (f v) s }

/-- Element-wise on one source. -/
def vec1 (o : VF) (l : Nat) (f : Rnd → Nat → Nat × Nat) : OpSem :=
  vecOp o [lineRef o.s1 (vWidth o)] l (fun v => (vSrc1 o v).zipIdx.map (fun (a, j) => f (v.vRnd o j) a))

/-- Element-wise on two sources. -/
def vec2 (o : VF) (l : Nat) (f : Rnd → Nat → Nat → Nat × Nat) : OpSem :=
  vecOp o [lineRef o.s1 (vWidth o), lineRef o.s2 (vWidth o)] l (fun v =>
    ((vSrc1 o v).zip (vSrc2 o v)).zipIdx.map (fun ((a, b), j) => f (v.vRnd o j) a b))

/-- Element-wise on two sources and the destination, which comes first. -/
def vec3 (o : VF) (l : Nat) (f : Rnd → Nat → Nat → Nat → Nat × Nat) : OpSem :=
  vecOp o [lineRef o.s1 (vWidth o), lineRef o.s2 (vWidth o)] l (fun v =>
    ((vDest o v).zip ((vSrc1 o v).zip (vSrc2 o v))).zipIdx.map (fun ((d, a, b), j) => f (v.vRnd o j) d a b))

/-- No flags. -/
def plain (x : Nat) : Nat × Nat := (x, 0)

/-- The value of an element of a floating type. -/
def vVal (o : VF) (x : Nat) : FVal := (fmtOf o.ty).val x

/-- An integer result kept to the width or saturated (R114). -/
def vFit (o : VF) (x : Int) : Nat × Nat := plain (fit o.ty o.sat x)

/-- VNOP (R42). -/
def semVnop : OpSem := {}
/-- The meaning of VNOP. -/
def execVnop (h : Hdr) (s : State) : Host.Outcome State Fault Refusal := issueSlot h (.vnop h) semVnop s

/-! ## Arithmetic (R114, R115) -/

/-- VADD. -/
def semVadd (o : VF) : OpSem :=
  vec2 o (vLatency o 2 4) (fun r a b =>
    if tyF o.ty then fadd (fmtOf o.ty) r 0 (vVal o a) (vVal o b) else vFit o (intVal o.ty a + intVal o.ty b))
/-- The meaning of VADD. -/
def execVadd (h : Hdr) (o : VF) (s : State) : Host.Outcome State Fault Refusal := issueSlot h (.vadd h o) (semVadd o) s
/-- VSUB. -/
def semVsub (o : VF) : OpSem :=
  vec2 o (vLatency o 2 4) (fun r a b =>
    if tyF o.ty then fadd (fmtOf o.ty) r 0 (vVal o a) (vVal o b).neg else vFit o (intVal o.ty a - intVal o.ty b))
/-- The meaning of VSUB. -/
def execVsub (h : Hdr) (o : VF) (s : State) : Host.Outcome State Fault Refusal := issueSlot h (.vsub h o) (semVsub o) s
/-- VMUL. -/
def semVmul (o : VF) : OpSem :=
  vec2 o (vLatency o 2 4) (fun r a b =>
    if tyF o.ty then fmul (fmtOf o.ty) r (vVal o a) (vVal o b) else vFit o (intVal o.ty a * intVal o.ty b))
/-- The meaning of VMUL. -/
def execVmul (h : Hdr) (o : VF) (s : State) : Host.Outcome State Fault Refusal := issueSlot h (.vmul h o) (semVmul o) s
/-- VFMA. -/
def semVfma (o : VF) : OpSem :=
  vec3 o (vLatency o 2 4) (fun r d a b =>
    if tyF o.ty then ffma (fmtOf o.ty) r (vVal o a) (vVal o b) (vVal o d)
    else vFit o (intVal o.ty d + intVal o.ty a * intVal o.ty b))
/-- The meaning of VFMA. -/
def execVfma (h : Hdr) (o : VF) (s : State) : Host.Outcome State Fault Refusal := issueSlot h (.vfma h o) (semVfma o) s

/-- The lesser or greater of two elements. -/
def vMinMax (o : VF) (isMax : Bool) (a b : Nat) : Nat × Nat :=
  if tyF o.ty then fminmax (fmtOf o.ty) isMax a b
  else plain (if (intVal o.ty a ≤ intVal o.ty b) = isMax then b else a)

/-- VMIN. -/
def semVmin (o : VF) : OpSem := vec2 o 2 (fun _ a b => vMinMax o false a b)
/-- The meaning of VMIN. -/
def execVmin (h : Hdr) (o : VF) (s : State) : Host.Outcome State Fault Refusal := issueSlot h (.vmin h o) (semVmin o) s
/-- VMAX. -/
def semVmax (o : VF) : OpSem := vec2 o 2 (fun _ a b => vMinMax o true a b)
/-- The meaning of VMAX. -/
def execVmax (h : Hdr) (o : VF) (s : State) : Host.Outcome State Fault Refusal := issueSlot h (.vmax h o) (semVmax o) s
/-- VABS. -/
def semVabs (o : VF) : OpSem :=
  vec1 o 2 (fun _ a => if tyF o.ty then plain (a % 2 ^ (vWidth o - 1)) else vFit o ((intVal o.ty a).natAbs : Int))
/-- The meaning of VABS. -/
def execVabs (h : Hdr) (o : VF) (s : State) : Host.Outcome State Fault Refusal := issueSlot h (.vabs h o) (semVabs o) s
/-- VNEG. -/
def semVneg (o : VF) : OpSem :=
  vec1 o 2 (fun _ a => if tyF o.ty then plain (a ^^^ 2 ^ (vWidth o - 1)) else vFit o (-intVal o.ty a))
/-- The meaning of VNEG. -/
def execVneg (h : Hdr) (o : VF) (s : State) : Host.Outcome State Fault Refusal := issueSlot h (.vneg h o) (semVneg o) s

/-- Half of an integer, rounded (R115). -/
def halve (o : VF) (r : Rnd) (x : Int) : Nat × Nat := plain (lowBits (roundInt r (x < 0) x.natAbs (-1)).1 (vWidth o))

/-- VADDS. -/
def semVadds (o : VF) : OpSem :=
  vec2 o (vLatency o 2 4) (fun r a b =>
    if tyF o.ty then fadd (fmtOf o.ty) r (-1) (vVal o a) (vVal o b) else halve o r (intVal o.ty a + intVal o.ty b))
/-- The meaning of VADDS. -/
def execVadds (h : Hdr) (o : VF) (s : State) : Host.Outcome State Fault Refusal :=
  issueSlot h (.vadds h o) (semVadds o) s
/-- VSUBS. -/
def semVsubs (o : VF) : OpSem :=
  vec2 o (vLatency o 2 4) (fun r a b =>
    if tyF o.ty then fadd (fmtOf o.ty) r (-1) (vVal o a) (vVal o b).neg else halve o r (intVal o.ty a - intVal o.ty b))
/-- The meaning of VSUBS. -/
def execVsubs (h : Hdr) (o : VF) (s : State) : Host.Outcome State Fault Refusal :=
  issueSlot h (.vsubs h o) (semVsubs o) s
/-- VMULH. -/
def semVmulh (o : VF) : OpSem :=
  vec2 o 2 (fun _ a b => plain (lowBits (intVal o.ty a * intVal o.ty b / 2 ^ vWidth o) (vWidth o)))
/-- The meaning of VMULH. -/
def execVmulh (h : Hdr) (o : VF) (s : State) : Host.Outcome State Fault Refusal :=
  issueSlot h (.vmulh h o) (semVmulh o) s

/-! ## Logic, shifts, bit fields (R117, R118) -/

/-- VAND. -/
def semVand (o : VF) : OpSem := vec2 o 2 (fun _ a b => plain (a &&& b))
/-- The meaning of VAND. -/
def execVand (h : Hdr) (o : VF) (s : State) : Host.Outcome State Fault Refusal := issueSlot h (.vand h o) (semVand o) s
/-- VOR. -/
def semVor (o : VF) : OpSem := vec2 o 2 (fun _ a b => plain (a ||| b))
/-- The meaning of VOR. -/
def execVor (h : Hdr) (o : VF) (s : State) : Host.Outcome State Fault Refusal := issueSlot h (.vor h o) (semVor o) s
/-- VXOR. -/
def semVxor (o : VF) : OpSem := vec2 o 2 (fun _ a b => plain (a ^^^ b))
/-- The meaning of VXOR. -/
def execVxor (h : Hdr) (o : VF) (s : State) : Host.Outcome State Fault Refusal := issueSlot h (.vxor h o) (semVxor o) s

/-- A shift count: every count of the width or more acts as the width. -/
def vCount (o : VF) (b : Nat) : Nat := min b (vWidth o)

/-- VSHL. -/
def semVshl (o : VF) : OpSem := vec2 o 2 (fun _ a b => vFit o (intVal o.ty a * 2 ^ vCount o b))
/-- The meaning of VSHL. -/
def execVshl (h : Hdr) (o : VF) (s : State) : Host.Outcome State Fault Refusal := issueSlot h (.vshl h o) (semVshl o) s
/-- VSHR. -/
def semVshr (o : VF) : OpSem := vec2 o 2 (fun _ a b => plain (a / 2 ^ vCount o b))
/-- The meaning of VSHR. -/
def execVshr (h : Hdr) (o : VF) (s : State) : Host.Outcome State Fault Refusal := issueSlot h (.vshr h o) (semVshr o) s
/-- VSAR. -/
def semVsar (o : VF) : OpSem :=
  vec2 o 2 (fun _ a b => plain (lowBits (signExt a (vWidth o) / 2 ^ vCount o b) (vWidth o)))
/-- The meaning of VSAR. -/
def execVsar (h : Hdr) (o : VF) (s : State) : Host.Outcome State Fault Refusal := issueSlot h (.vsar h o) (semVsar o) s

/-- The field that VBFX and VBFXZ extract, with its width. -/
def vField (o : VF) (a b : Nat) : Nat × Nat :=
  let w := vWidth o
  let pos := b % w
  let f := min (b / 256 % w + 1) (w - pos)
  (a / 2 ^ pos % 2 ^ f, f)

/-- VBFX. -/
def semVbfx (o : VF) : OpSem :=
  vec2 o 2 (fun _ a b => plain (lowBits (signExt (vField o a b).1 (vField o a b).2) (vWidth o)))
/-- The meaning of VBFX. -/
def execVbfx (h : Hdr) (o : VF) (s : State) : Host.Outcome State Fault Refusal := issueSlot h (.vbfx h o) (semVbfx o) s
/-- VBFXZ. -/
def semVbfxz (o : VF) : OpSem := vec2 o 2 (fun _ a b => plain (vField o a b).1)
/-- The meaning of VBFXZ. -/
def execVbfxz (h : Hdr) (o : VF) (s : State) : Host.Outcome State Fault Refusal :=
  issueSlot h (.vbfxz h o) (semVbfxz o) s
/-- VFSHR. -/
def semVfshr (o : VF) : OpSem :=
  vec3 o 2 (fun _ d a b => plain ((a * 2 ^ vWidth o + b) / 2 ^ (d % vWidth o) % 2 ^ vWidth o))
/-- The meaning of VFSHR. -/
def execVfshr (h : Hdr) (o : VF) (s : State) : Host.Outcome State Fault Refusal :=
  issueSlot h (.vfshr h o) (semVfshr o) s
/-- VCLZ. -/
def semVclz (o : VF) : OpSem :=
  vec1 o 2 (fun _ a => plain ((if a = 0 then vWidth o else vWidth o - 1 - Nat.log2 a) % 2 ^ vWidth o))
/-- The meaning of VCLZ. -/
def execVclz (h : Hdr) (o : VF) (s : State) : Host.Outcome State Fault Refusal := issueSlot h (.vclz h o) (semVclz o) s
/-- VPOPC. -/
def semVpopc (o : VF) : OpSem :=
  vec1 o 2 (fun _ a => plain (((List.range (vWidth o)).filter (fun i => a.testBit i)).length % 2 ^ vWidth o))
/-- The meaning of VPOPC. -/
def execVpopc (h : Hdr) (o : VF) (s : State) : Host.Outcome State Fault Refusal :=
  issueSlot h (.vpopc h o) (semVpopc o) s

/-! ## Compares and classes (R119, R120) -/

/-- The number of a mask, predicate or scalar that stands in the destination field (R113). -/
def vDstNo (o : VF) : Nat := o.dst.toNat

/-- Land one bit for each element in the mask bits of the element's bytes. -/
def landMaskBits (o : VF) (v : Env) (rs : List (Bool × Nat)) (s : State) : State :=
  let act := vActive o v
  let n := vWidth o / 8
  let ones := 2 ^ n - 1
  let val := joinBits n ((act.zip rs).map (fun (a, r) => if a && r.1 then ones else 0))
  let en := joinBits n (act.map (fun a => if a || o.z then ones else 0))
  let fl := orAll ((act.zip rs).map (fun (a, r) => if a then r.2 else 0))
  s.land v.core (flightOf (.mask (vDstNo o) (BitVec.ofNat 512 val) (BitVec.ofNat 512 en)) 2 v.slot fl)

/-- One compare. -/
def vCmp (o : VF) (c : Cmp) (a b : Nat) : Bool × Nat :=
  if tyF o.ty then fcmp c (vVal o a) (vVal o b) else (c.holds (compare (intVal o.ty a) (intVal o.ty b)), 0)

/-- A compare of two lines into a mask. -/
def vecCmp (o : VF) (c : Cmp) : OpSem :=
  { srcs := [lineRef o.s1 (vWidth o), lineRef o.s2 (vWidth o)],
    act := fun v s => landMaskBits o v (((vSrc1 o v).zip (vSrc2 o v)).map (fun (a, b) => vCmp o c a b)) s }

/-- VCMPEQ. -/
def semVcmpeq (o : VF) : OpSem := vecCmp o .eq
/-- The meaning of VCMPEQ. -/
def execVcmpeq (h : Hdr) (o : VF) (s : State) : Host.Outcome State Fault Refusal :=
  issueSlot h (.vcmpeq h o) (semVcmpeq o) s
/-- VCMPNE. -/
def semVcmpne (o : VF) : OpSem := vecCmp o .ne
/-- The meaning of VCMPNE. -/
def execVcmpne (h : Hdr) (o : VF) (s : State) : Host.Outcome State Fault Refusal :=
  issueSlot h (.vcmpne h o) (semVcmpne o) s
/-- VCMPLT. -/
def semVcmplt (o : VF) : OpSem := vecCmp o .lt
/-- The meaning of VCMPLT. -/
def execVcmplt (h : Hdr) (o : VF) (s : State) : Host.Outcome State Fault Refusal :=
  issueSlot h (.vcmplt h o) (semVcmplt o) s
/-- VCMPLE. -/
def semVcmple (o : VF) : OpSem := vecCmp o .le
/-- The meaning of VCMPLE. -/
def execVcmple (h : Hdr) (o : VF) (s : State) : Host.Outcome State Fault Refusal :=
  issueSlot h (.vcmple h o) (semVcmple o) s
/-- VCLASS. -/
def semVclass (o : VF) : OpSem :=
  { srcs := [lineRef o.s1 (vWidth o)],
    act := fun v s => landMaskBits o v ((vSrc1 o v).map (fun a => (o.imm.testBit ((fmtOf o.ty).classBit a), 0))) s }
/-- The meaning of VCLASS. -/
def execVclass (h : Hdr) (o : VF) (s : State) : Host.Outcome State Fault Refusal :=
  issueSlot h (.vclass h o) (semVclass o) s

/-! ## Selection, moves and permutes (R121 to R123) -/

/-- A whole line without flags or mask. -/
def landWhole (o : VF) (v : Env) (l : Nat) (xs : List Nat) (s : State) : State :=
  v.landLines s o.dst fullLine [lineOf (vWidth o) xs] l 0

/-- VSEL. -/
def semVsel (o : VF) : OpSem :=
  { srcs := [lineRef o.s1 (vWidth o), lineRef o.s2 (vWidth o)], dsts := [.line o.dst 1 false], pushes := pushesOf o.dst,
    act := fun v s => landWhole o v 2
      (((vActive o v).zip ((vSrc1 o v).zip (vSrc2 o v))).map (fun (k, a, b) => if k then a else b)) s }
/-- The meaning of VSEL. -/
def execVsel (h : Hdr) (o : VF) (s : State) : Host.Outcome State Fault Refusal := issueSlot h (.vsel h o) (semVsel o) s
/-- VMOV. -/
def semVmov (o : VF) : OpSem := vec1 o 2 (fun _ a => plain a)
/-- The meaning of VMOV. -/
def execVmov (h : Hdr) (o : VF) (s : State) : Host.Outcome State Fault Refusal := issueSlot h (.vmov h o) (semVmov o) s
/-- VBCAST. -/
def semVbcast (o : VF) : OpSem :=
  vecOp o [lineRef o.s1 (vWidth o)] 3 (fun v =>
    let x := lineElem (vWidth o) (v.line o.s1 (vWidth o) 0) o.imm
    List.replicate (4096 / vWidth o) (plain x))
/-- The meaning of VBCAST. -/
def execVbcast (h : Hdr) (o : VF) (s : State) : Host.Outcome State Fault Refusal :=
  issueSlot h (.vbcast h o) (semVbcast o) s
/-- VPERM. -/
def semVperm (o : VF) : OpSem :=
  vecOp o [lineRef o.s1 (vWidth o), lineRef o.s2 (vWidth o)] 3 (fun v =>
    let l := v.line o.s1 (vWidth o) 0
    (vSrc2 o v).map (fun b => plain (lineElem (vWidth o) l (b % (4096 / vWidth o)))))
/-- The meaning of VPERM. -/
def execVperm (h : Hdr) (o : VF) (s : State) : Host.Outcome State Fault Refusal :=
  issueSlot h (.vperm h o) (semVperm o) s
/-- VROT. -/
def semVrot (o : VF) : OpSem :=
  vecOp o [lineRef o.s1 (vWidth o)] 3 (fun v =>
    let a := vSrc1 o v
    let k := o.imm % (4096 / vWidth o)
    (a.drop k ++ a.take k).map plain)
/-- The meaning of VROT. -/
def execVrot (h : Hdr) (o : VF) (s : State) : Host.Outcome State Fault Refusal := issueSlot h (.vrot h o) (semVrot o) s
/-- VIOTA. -/
def semViota (o : VF) : OpSem :=
  vecOp o [lineRef o.s1 (vWidth o)] 2 (fun v =>
    let x := lineElem (vWidth o) (v.line o.s1 (vWidth o) 0) 0
    (List.range (4096 / vWidth o)).map (fun j => plain ((x + j) % 2 ^ vWidth o)))
/-- The meaning of VIOTA. -/
def execViota (h : Hdr) (o : VF) (s : State) : Host.Outcome State Fault Refusal :=
  issueSlot h (.viota h o) (semViota o) s
/-- VEXTR. -/
def semVextr (o : VF) : OpSem :=
  { srcs := [lineRef o.s1 (vWidth o)], dsts := [.reg (vDstNo o)],
    act := fun v s =>
      let x := lineElem (vWidth o) (v.line o.s1 (vWidth o) 0) o.imm
      let y := if tyInt o.ty then lowBits (intVal o.ty x) 64 else x
      v.landReg s (BitVec.ofNat 6 (vDstNo o)) (BitVec.ofNat 64 y) 3 0 }
/-- The meaning of VEXTR. -/
def execVextr (h : Hdr) (o : VF) (s : State) : Host.Outcome State Fault Refusal :=
  issueSlot h (.vextr h o) (semVextr o) s
/-- VINS: the whole line lands, the other elements as they were read. -/
def semVins (o : VF) : OpSem :=
  { srcs := [lineRef o.s1 (vWidth o)], dsts := [.line o.dst 1 false],
    act := fun v s =>
      landWhole o v 3 ((vDest o v).set o.imm (lineElem (vWidth o) (v.line o.s1 (vWidth o) 0) o.imm)) s }
/-- The meaning of VINS. -/
def execVins (h : Hdr) (o : VF) (s : State) : Host.Outcome State Fault Refusal := issueSlot h (.vins h o) (semVins o) s

/-! ## Reductions and scans (R124, R125, R233, R234) -/

/-- A node on values with flags. -/
def withFlags (f : Nat → Nat → Nat × Nat) (a b : Nat × Nat) : Nat × Nat :=
  let r := f a.1 b.1
  (r.1, r.2 ||| a.2 ||| b.2)

/-- The tree over operands; a single NaN operand acts as a node would (R233). -/
def reduceTree (t : Fmt) (f : Nat → Nat → Nat × Nat) (xs : List Nat) : Nat × Nat :=
  match xs with
  | [x] => if (t.val x).isNan then f x x else (x, 0)
  | xs => tree (withFlags f) (0, 0) 11 (xs.map plain)

/-- An element of a floating type as an f32 pattern. -/
def widenF (ty : BitVec 4) (x : Nat) : Nat :=
  match (fmtOf ty).val x with
  | .nan true => 0x7FA00000
  | v => (f32.roundVal rne v).1

/-- An f32 pattern rounded to a floating type. -/
def narrowRoot (ty : BitVec 4) (x : Nat × Nat) : Nat × Nat :=
  if ty = 8 then x
  else
    let (y, f) := (fmtOf ty).roundVal rne (f32.val x.1)
    (y, f ||| x.2)

/-- f32 addition of patterns, to nearest even. -/
def addF32 (a b : Nat) : Nat × Nat := fadd f32 rne 0 (f32.val a) (f32.val b)

/-- VRSUM over the active elements. -/
def rsum (ty : BitVec 4) (xs : List Nat) : Nat × Nat :=
  if tyF ty then
    match xs with
    | [] => plain ((fmtOf ty).sign true 0)
    | [x] => if ((fmtOf ty).val x).isNan then narrowRoot ty (reduceTree f32 addF32 [widenF ty x]) else (x, 0)
    | xs => narrowRoot ty (reduceTree f32 addF32 (xs.map (widenF ty)))
  else plain (xs.foldl (· + ·) 0 % 2 ^ tyWidth ty)

/-- VRMAX and VRMIN. A float line with no active element lands its infinity without NF: DESIGN CHOICE (log 47), since R124
ties flags to the nodes of the tree, of which there is none, and R111 ties NF to an infinity that lands. -/
def rminmax (o : VF) (isMax : Bool) (xs : List Nat) : Nat × Nat :=
  match xs with
  | [] =>
    plain (if tyF o.ty then (fmtOf o.ty).inf isMax
           else lowBits (if isMax then intMin o.ty else intMax o.ty) (vWidth o))
  | x :: xs =>
    if tyF o.ty then reduceTree (fmtOf o.ty) (vMinMax o isMax) (x :: xs)
    else plain (xs.foldl (fun a b => (vMinMax o isMax a b).1) x)

/-- A reduction of the active elements, written to every element. -/
def vecReduce (o : VF) (f : List Nat → Nat × Nat) : OpSem :=
  { srcs := [lineRef o.s1 (vWidth o)], dsts := [.line o.dst 1 false], pushes := pushesOf o.dst,
    act := fun v s =>
      let xs := ((vActive o v).zip (vSrc1 o v)).filterMap (fun (a, x) => if a then some x else none)
      let (x, fl) := f xs
      v.landLines s o.dst fullLine [lineOf (vWidth o) (List.replicate (4096 / vWidth o) x)] 6 fl }

/-- VRSUM. -/
def semVrsum (o : VF) : OpSem := vecReduce o (rsum o.ty)
/-- The meaning of VRSUM. -/
def execVrsum (h : Hdr) (o : VF) (s : State) : Host.Outcome State Fault Refusal :=
  issueSlot h (.vrsum h o) (semVrsum o) s
/-- VRMAX. -/
def semVrmax (o : VF) : OpSem := vecReduce o (rminmax o true)
/-- The meaning of VRMAX. -/
def execVrmax (h : Hdr) (o : VF) (s : State) : Host.Outcome State Fault Refusal :=
  issueSlot h (.vrmax h o) (semVrmax o) s
/-- VRMIN. -/
def semVrmin (o : VF) : OpSem := vecReduce o (rminmax o false)
/-- The meaning of VRMIN. -/
def execVrmin (h : Hdr) (o : VF) (s : State) : Host.Outcome State Fault Refusal :=
  issueSlot h (.vrmin h o) (semVrmin o) s
/-- VROR. -/
def semVror (o : VF) : OpSem := vecReduce o (fun xs => plain (xs.foldl (· ||| ·) 0))
/-- The meaning of VROR. -/
def execVror (h : Hdr) (o : VF) (s : State) : Host.Outcome State Fault Refusal := issueSlot h (.vror h o) (semVror o) s

/-- The running sums of VSCAN, from a sum on. -/
def scanSums (ty : BitVec 4) : Nat → List (Bool × Nat) → List (Nat × Nat)
  | _, [] => []
  | acc, (a, x) :: r =>
    if tyF ty then
      let (y, f) := addF32 acc (if a then widenF ty x else 2 ^ 31)
      narrowRoot ty (y, f) :: scanSums ty y r
    else
      let y := (acc + if a then x else 0) % 2 ^ tyWidth ty
      plain y :: scanSums ty y r

/-- VSCAN. -/
def semVscan (o : VF) : OpSem :=
  vecOp o [lineRef o.s1 (vWidth o)] 6 (fun v =>
    scanSums o.ty (if tyF o.ty then 2 ^ 31 else 0) ((vActive o v).zip (vSrc1 o v)))
/-- The meaning of VSCAN. -/
def execVscan (h : Hdr) (o : VF) (s : State) : Host.Outcome State Fault Refusal :=
  issueSlot h (.vscan h o) (semVscan o) s

/-! ## Widening, narrowing, VDOT4 (R126 to R128) -/

/-- The `i`-th of `r` lines that a widened line fills: element j div r of it is source element j, j mod r = i. -/
def spreadLine (r i : Nat) (xs : List Nat) : List Nat :=
  (xs.zipIdx.filter (fun (_, j) => j % r == i)).map (·.1)

/-- The elements of `r` lines in the order of the line they are narrowed into. -/
def weave : Nat → List (List Nat) → List Nat
  | 0, _ => []
  | n + 1, ls => ls.map (·.headD 0) ++ weave n (ls.map List.tail)

/-- The `n` source lines from a specifier on, of a type of width `w`. -/
def Env.lineList (v : Env) (s : BitVec 13) (n w : Nat) : List (List Nat) :=
  if n = 1 then [lineElems w (v.line s w 0)]
  else (specLines s n).map (fun l => lineElems w (tileLine v.c.tiles l false))

/-- VWIDEN. -/
def semVwiden (o : VF) : OpSem :=
  let ws := tyWidth o.stype
  let r := vWidth o / ws
  { srcs := [lineRef o.s1 ws], dsts := [.line o.dst r false],
    act := fun v s =>
      let xs := (lineElems ws (v.line o.s1 ws 0)).map (fun x =>
        if tyInt o.stype then lowBits (intVal o.stype x) (vWidth o)
        else (f32.roundVal rne ((fmtOf o.stype).val x)).1)
      v.landLines s o.dst fullLine ((List.range r).map (fun i => lineOf (vWidth o) (spreadLine r i xs))) 3 0 }
/-- The meaning of VWIDEN. -/
def execVwiden (h : Hdr) (o : VF) (s : State) : Host.Outcome State Fault Refusal :=
  issueSlot h (.vwiden h o) (semVwiden o) s

/-- VNARROW. -/
def semVnarrow (o : VF) : OpSem :=
  let ws := tyWidth o.stype
  let r := ws / vWidth o
  { srcs := [.line o.s1 r ws false false], dsts := [.line o.dst 1 false], pushes := pushesOf o.dst,
    wait := fun v => v.x.srStall o.mode.toNat,
    act := fun v s =>
      let xs := weave (4096 / ws) (v.lineList o.s1 r ws)
      let rs := xs.zipIdx.map (fun (x, j) =>
        if tyInt o.ty then plain (fit o.ty o.sat (intVal o.stype x))
        else (fmtOf o.ty).roundVal (v.vRnd o j) ((fmtOf o.stype).val x))
      v.landLines s o.dst fullLine [lineOf (vWidth o) (rs.map (·.1))] (vLatency o 3 4) (orAll (rs.map (·.2))) }
/-- The meaning of VNARROW. -/
def execVnarrow (h : Hdr) (o : VF) (s : State) : Host.Outcome State Fault Refusal :=
  issueSlot h (.vnarrow h o) (semVnarrow o) s

/-- The sum of four byte products. -/
def dot4 (ty : BitVec 4) (a b : Nat) : Int :=
  ((splitBits 8 4 a).zip (splitBits 8 4 b)).foldl (fun s (x, y) => s + intVal ty x * intVal ty y) 0

/-- VDOT4: the mask is read with the 32-bit element size. -/
def semVdot4 (o : VF) : OpSem :=
  let acc : BitVec 4 := if tySigned o.ty then 4 else 5
  { srcs := [lineRef o.s1 8, lineRef o.s2 8], dsts := [.line o.dst 1 false],
    act := fun v s =>
      let act := maskBits (v.c.mask o.k.toNat) 32
      let a := lineElems 32 (v.line o.s1 8 0)
      let b := lineElems 32 (v.line2 o.s1 o.s2 8)
      let d := lineElems 32 (tileLine v.c.tiles o.dst false)
      let xs := (act.zip (d.zip (a.zip b))).map (fun (k, d, a, b) =>
        if k then fit acc o.sat (intVal acc d + dot4 o.ty a b) else 0)
      v.landLines s o.dst (if o.z then fullLine else enableOf 32 act) [lineOf 32 xs] 2 0 }
/-- The meaning of VDOT4. -/
def execVdot4 (h : Hdr) (o : VF) (s : State) : Host.Outcome State Fault Refusal :=
  issueSlot h (.vdot4 h o) (semVdot4 o) s

/-! ## Masks (R129) -/

/-- The masks named in the source fields. -/
def kSrc1 (o : VF) (v : Env) : Mask := v.c.mask o.s1.toNat
def kSrc2 (o : VF) (v : Env) : Mask := v.c.mask o.s2.toNat

/-- A whole mask. -/
def kOp (o : VF) (f : Mask → Mask → Mask) : OpSem :=
  { act := fun v s => s.land v.core
      (flightOf (.mask (vDstNo o) (f (kSrc1 o v) (kSrc2 o v)) (BitVec.allOnes 512)) 2 v.slot 0) }

/-- KAND. -/
def semKand (o : VF) : OpSem := kOp o (· &&& ·)
/-- The meaning of KAND. -/
def execKand (h : Hdr) (o : VF) (s : State) : Host.Outcome State Fault Refusal := issueSlot h (.kand h o) (semKand o) s
/-- KOR. -/
def semKor (o : VF) : OpSem := kOp o (· ||| ·)
/-- The meaning of KOR. -/
def execKor (h : Hdr) (o : VF) (s : State) : Host.Outcome State Fault Refusal := issueSlot h (.kor h o) (semKor o) s
/-- KXOR. -/
def semKxor (o : VF) : OpSem := kOp o (· ^^^ ·)
/-- The meaning of KXOR. -/
def execKxor (h : Hdr) (o : VF) (s : State) : Host.Outcome State Fault Refusal := issueSlot h (.kxor h o) (semKxor o) s
/-- KNOT. -/
def semKnot (o : VF) : OpSem := kOp o (fun a _ => ~~~a)
/-- The meaning of KNOT. -/
def execKnot (h : Hdr) (o : VF) (s : State) : Host.Outcome State Fault Refusal := issueSlot h (.knot h o) (semKnot o) s
/-- KPOPC. -/
def semKpopc (o : VF) : OpSem :=
  { dsts := [.reg (vDstNo o)],
    act := fun v s => v.landReg s (BitVec.ofNat 6 (vDstNo o))
      (BitVec.ofNat 64 ((List.range 512).filter (fun i => (kSrc1 o v).getLsbD i)).length) 2 0 }
/-- The meaning of KPOPC. -/
def execKpopc (h : Hdr) (o : VF) (s : State) : Host.Outcome State Fault Refusal :=
  issueSlot h (.kpopc h o) (semKpopc o) s
/-- KANY. -/
def semKany (o : VF) : OpSem :=
  { dsts := [.pred (vDstNo o % 16)],
    act := fun v s => v.landPred s (BitVec.ofNat 4 (vDstNo o)) (kSrc1 o v != 0) 2 0 }
/-- The meaning of KANY. -/
def execKany (h : Hdr) (o : VF) (s : State) : Host.Outcome State Fault Refusal := issueSlot h (.kany h o) (semKany o) s

end Sys2Proof.Machine
end

