-- ==== Sys2Proof/Machine/Special.lean ====
section
/-! DEFINITION. The X slot (R130 to R143): special functions, conversion, square-block quantisation, the stipple
instructions. -/

namespace Sys2Proof.Machine

open Sys2Proof.Num

/-- How an element rounds that is received in a column of a line (R132). -/
def Env.xRnd (v : Env) (o : XF) (line : BitVec 13) (col : Nat) : Rnd :=
  v.x.rnd o.mode.toNat (specRow line) col (o.md.toNat % 2 == 1)

/-- XNOP (R42). -/
def semXnop : OpSem := {}
/-- The meaning of XNOP. -/
def execXnop (h : Hdr) (s : State) : Host.Outcome State Fault Refusal := issueSlot h (.xnop h) semXnop s

/-! ## Special functions (R133, R134) -/

/-- Element-wise on one source. -/
def spec1 (o : XF) (f : Fmt → Rnd → FVal → Nat × Nat) : OpSem :=
  let w := tyWidth o.dt
  { srcs := [lineRef o.s1 w], dsts := [.line o.dst 1 false], pushes := pushesOf o.dst,
    wait := fun v => v.x.srStall o.mode.toNat,
    act := fun v s =>
      let rs := (lineElems w (v.line o.s1 w 0)).zipIdx.map (fun (a, j) =>
        f (fmtOf o.dt) (v.xRnd o o.dst j) ((fmtOf o.dt).val a))
      v.landLines s o.dst fullLine [lineOf w (rs.map (·.1))] 10 (orAll (rs.map (·.2))) }

/-- XRCP. -/
def semXrcp (o : XF) : OpSem := spec1 o frcp
/-- The meaning of XRCP. -/
def execXrcp (h : Hdr) (o : XF) (s : State) : Host.Outcome State Fault Refusal := issueSlot h (.xrcp h o) (semXrcp o) s
/-- XRSQ. -/
def semXrsq (o : XF) : OpSem := spec1 o frsq
/-- The meaning of XRSQ. -/
def execXrsq (h : Hdr) (o : XF) (s : State) : Host.Outcome State Fault Refusal := issueSlot h (.xrsq h o) (semXrsq o) s
/-- XSQRT. -/
def semXsqrt (o : XF) : OpSem := spec1 o fsqrt
/-- The meaning of XSQRT. -/
def execXsqrt (h : Hdr) (o : XF) (s : State) : Host.Outcome State Fault Refusal :=
  issueSlot h (.xsqrt h o) (semXsqrt o) s
/-- XEXP2. -/
def semXexp2 (o : XF) : OpSem := spec1 o fexp2
/-- The meaning of XEXP2. -/
def execXexp2 (h : Hdr) (o : XF) (s : State) : Host.Outcome State Fault Refusal :=
  issueSlot h (.xexp2 h o) (semXexp2 o) s
/-- XLOG2. -/
def semXlog2 (o : XF) : OpSem := spec1 o flog2
/-- The meaning of XLOG2. -/
def execXlog2 (h : Hdr) (o : XF) (s : State) : Host.Outcome State Fault Refusal :=
  issueSlot h (.xlog2 h o) (semXlog2 o) s
/-- XTANH. -/
def semXtanh (o : XF) : OpSem := spec1 o ftanh
/-- The meaning of XTANH. -/
def execXtanh (h : Hdr) (o : XF) (s : State) : Host.Outcome State Fault Refusal :=
  issueSlot h (.xtanh h o) (semXtanh o) s
/-- XSIG. -/
def semXsig (o : XF) : OpSem := spec1 o fsig
/-- The meaning of XSIG. -/
def execXsig (h : Hdr) (o : XF) (s : State) : Host.Outcome State Fault Refusal := issueSlot h (.xsig h o) (semXsig o) s

/-- XDIV. -/
def semXdiv (o : XF) : OpSem :=
  let w := tyWidth o.dt
  { srcs := [lineRef o.s1 w, lineRef o.s2 w], dsts := [.line o.dst 1 false], pushes := pushesOf o.dst,
    wait := fun v => v.x.srStall o.mode.toNat,
    act := fun v s =>
      let a := lineElems w (v.line o.s1 w 0)
      let b := lineElems w (v.line2 o.s1 o.s2 w)
      let rs := (a.zip b).zipIdx.map (fun ((a, b), j) =>
        fdiv (fmtOf o.dt) (v.xRnd o o.dst j) ((fmtOf o.dt).val a) ((fmtOf o.dt).val b))
      v.landLines s o.dst fullLine [lineOf w (rs.map (·.1))] 10 (orAll (rs.map (·.2))) }
/-- The meaning of XDIV. -/
def execXdiv (h : Hdr) (o : XF) (s : State) : Host.Outcome State Fault Refusal := issueSlot h (.xdiv h o) (semXdiv o) s

/-! ## Conversion (R135, R136) -/

/-- XCVT. -/
def semXcvt (o : XF) : OpSem :=
  let ws := tyWidth o.st
  let wd := tyWidth o.dt
  let nw := ws / wd
  let ww := wd / ws
  { srcs := [.line o.s1 (max 1 nw) ws false false], dsts := [.line o.dst (max 1 ww) false], pushes := pushesOf o.dst,
    wait := fun v => v.x.srStall o.mode.toNat,
    act := fun v s =>
      if ws < wd then
        let rs := (lineElems ws (v.line o.s1 ws 0)).zipIdx.map (fun (x, j) =>
          convert o.dt o.st (v.xRnd o (specAdvance o.dst (j % ww)) (j / ww)) x)
        v.landLines s o.dst fullLine ((List.range ww).map (fun i => lineOf wd (spreadLine ww i (rs.map (·.1))))) 4
          (orAll (rs.map (·.2)))
      else
        let xs := weave (4096 / ws) (v.lineList o.s1 (max 1 nw) ws)
        let rs := xs.zipIdx.map (fun (x, j) => convert o.dt o.st (v.xRnd o o.dst j) x)
        v.landLines s o.dst fullLine [lineOf wd (rs.map (·.1))] 4 (orAll (rs.map (·.2))) }
/-- The meaning of XCVT. -/
def execXcvt (h : Hdr) (o : XF) (s : State) : Host.Outcome State Fault Refusal := issueSlot h (.xcvt h o) (semXcvt o) s

/-! ## Square blocks (R137 to R141) -/

/-- The block row of a wide group. -/
def blockRow (s : BitVec 13) : Nat := specIndex s / 16

/-- The columns of a block. -/
def blockOf (b : Nat) (row : List Nat) : List Nat := (row.drop (16 * b)).take 16

/-- The largest magnitude of a block as an f32 pattern (R138). -/
def blockAmax (t : Fmt) (xs : List Nat) : Nat :=
  if xs.any (fun x => (t.val x).isNan) then f32.nan
  else
    match t.val (xs.foldl (fun m x => max m (x % 2 ^ (t.w - 1))) 0) with
    | .inf _ => f32.inf false
    | v => (f32.roundVal rne v).1

/-- XAMAX. -/
def semXamax (o : XF) : OpSem :=
  let w := tyWidth o.st
  let nb := 4096 / w / 16
  { srcs := [.line o.s1 16 w false false], dsts := [.line o.dst 1 false], pushes := pushesOf o.dst,
    act := fun v s =>
      let rows := v.lineList o.s1 16 w
      let g := blockRow o.s1
      let ms := (List.range nb).map (fun b => blockAmax (fmtOf o.st) (rows.flatMap (blockOf b)))
      let pad := List.replicate (16 * g) 0
      v.landLines s o.dst (lineOf 32 (pad ++ ms.map (fun _ => 2 ^ 32 - 1))) [lineOf 32 (pad ++ ms)] 3 0 }
/-- The meaning of XAMAX. -/
def execXamax (h : Hdr) (o : XF) (s : State) : Host.Outcome State Fault Refusal :=
  issueSlot h (.xamax h o) (semXamax o) s

/-- emax of a scale target (R139, R228). -/
def targetEmax (target : Nat) : Int :=
  match target with
  | 0 => 8
  | 1 => 15
  | _ => 2

/-- The scale code of an amax pattern (R139). -/
def scaleCode (emax : Int) (a : Nat) : Nat :=
  match f32.val a with
  | .num _ m e => if m = 0 then 0x7F else (min (max ((Nat.log2 m : Int) + e - emax) (-127)) 127 + 127).toNat
  | _ => 0xFF

/-- XSCALE. -/
def semXscale (o : XF) : OpSem :=
  { srcs := [lineRef o.s1 32], dsts := [.line o.dst 1 false], pushes := pushesOf o.dst,
    act := fun v s =>
      let cs := (lineElems 32 (v.line o.s1 32 0)).map (scaleCode (targetEmax o.md.toNat))
      v.landLines s o.dst (BitVec.ofNat 4096 (2 ^ 1024 - 1)) [lineOf 8 cs] 3 0 }
/-- The meaning of XSCALE. -/
def execXscale (h : Hdr) (o : XF) (s : State) : Host.Outcome State Fault Refusal :=
  issueSlot h (.xscale h o) (semXscale o) s

/-- A finite value times 2^k. -/
def shiftVal (v : FVal) (k : Int) : FVal :=
  match v with
  | .num n m e => .num n m (e + k)
  | x => x

/-- One element quantised under a scale code (R140, R228). -/
def quantise (dt st : BitVec 4) (r : Rnd) (c x : Nat) : Nat × Nat :=
  if c = 0xFF then (0, NV)
  else toFloat dt r ((fmtOf st).negBit x) (shiftVal ((fmtOf st).val x) (127 - c))

/-- One element dequantised under a scale code (R141). -/
def dequantise (dt st : BitVec 4) (r : Rnd) (c x : Nat) : Nat × Nat :=
  (fmtOf dt).roundVal r (match scaled ((fmtOf st).val x) c with
    | .nan _ => .nan false
    | v => v)

/-- XQNT. -/
def semXqnt (o : XF) : OpSem :=
  let ws := tyWidth o.st
  let wd := tyWidth o.dt
  let r := ws / wd
  { srcs := [.line o.s1 16 ws false false, lineRef o.s2 8], dsts := [.line o.dst (16 / r) false],
    wait := fun v => v.x.srStall o.mode.toNat,
    act := fun v s =>
      let rows := v.lineList o.s1 16 ws
      let sc := v.line o.s2 8 0
      let g := blockRow o.s1
      let lines := (List.range (16 / r)).map (fun q =>
        let line := specAdvance o.dst q
        (weave (4096 / ws) ((rows.drop (r * q)).take r)).zipIdx.map (fun (x, p) =>
          quantise o.dt o.st (v.xRnd o line p) (lineElem 8 sc (16 * g + p / r / 16)) x))
      v.landLines s o.dst fullLine (lines.map (fun l => lineOf wd (l.map (·.1)))) 4
        (orAll (lines.flatMap (fun l => l.map (·.2)))) }
/-- The meaning of XQNT. -/
def execXqnt (h : Hdr) (o : XF) (s : State) : Host.Outcome State Fault Refusal := issueSlot h (.xqnt h o) (semXqnt o) s

/-- XDQNT. -/
def semXdqnt (o : XF) : OpSem :=
  let ws := tyWidth o.st
  let wd := tyWidth o.dt
  let r := wd / ws
  { srcs := [.line o.s1 (16 / r) ws false false, lineRef o.s2 8], dsts := [.line o.dst 16 false],
    wait := fun v => v.x.srStall o.mode.toNat,
    act := fun v s =>
      let narrow := v.lineList o.s1 (16 / r) ws
      let sc := v.line o.s2 8 0
      let g := blockRow o.dst
      let lines := (List.range 16).map (fun t =>
        let line := specAdvance o.dst t
        (spreadLine r (t % r) (narrow.getD (t / r) [])).zipIdx.map (fun (x, e) =>
          dequantise o.dt o.st (v.xRnd o line e) (lineElem 8 sc (16 * g + e / 16)) x))
      v.landLines s o.dst fullLine (lines.map (fun l => lineOf wd (l.map (·.1)))) 4
        (orAll (lines.flatMap (fun l => l.map (·.2)))) }
/-- The meaning of XDQNT. -/
def execXdqnt (h : Hdr) (o : XF) (s : State) : Host.Outcome State Fault Refusal :=
  issueSlot h (.xdqnt h o) (semXdqnt o) s

/-! ## Stipple (R142, R143) -/

/-- XSEED. -/
def semXseed (o : XF) : OpSem :=
  { srcs := [lineRef o.s1 64],
    act := fun v s =>
      let x := v.x.sreg ((specBroadcast o.s1).getD 0)
      s.land v.core (flightOf (.special (if o.md.toNat % 2 = 1 then SR.stipstream else SR.stipseed) x) 1 v.slot 0) }
/-- The meaning of XSEED. -/
def execXseed (h : Hdr) (o : XF) (s : State) : Host.Outcome State Fault Refusal :=
  issueSlot h (.xseed h o) (semXseed o) s

/-- One lane of XRAND. -/
def randLane (ty : BitVec 4) (z : W64) : Nat :=
  if ty = 8 then (f32.round rne false (z.toNat / 2 ^ 40) (-24) false).1 else z.toNat / 2 ^ 32

/-- XRAND. -/
def semXrand (o : XF) : OpSem :=
  { dsts := [.line o.dst 1 false], pushes := pushesOf o.dst, wait := fun v => v.x.stepOutstanding,
    act := fun v s =>
      v.landLines s o.dst fullLine [lineOf 32 (lanes.map (fun i => randLane o.dt (v.x.stip (specRow o.dst) i)))] 4 0 }
/-- The meaning of XRAND. -/
def execXrand (h : Hdr) (o : XF) (s : State) : Host.Outcome State Fault Refusal :=
  issueSlot h (.xrand h o) (semXrand o) s

end Sys2Proof.Machine
end

