-- ==== Sys2Proof/Machine/System.lean ====
section
/-! DEFINITION. The system instructions of the C slot (R80 to R83). -/

namespace Sys2Proof.Machine

open Sys2Proof.Num

/-- TRAP: taken at the boundary after the repetition that holds it. -/
def semTrap (o : TrapOp) : OpSem := { flow := .trap o.num.toNat }
/-- The meaning of TRAP. -/
def execTrap (h : Hdr) (o : TrapOp) (s : State) : Host.Outcome State Fault Refusal :=
  issueSlot h (.trap h o) (semTrap o) s

/-- Whether the repetition at hand is the last of its bundle. -/
def Env.lastRep (v : Env) : Bool := v.x.cur.all (fun b => b.rep ≤ v.x.rep)

/-- RETI: in supervisor mode it waits for every SVLOAD; in program mode without an occupied bank it is a privilege
trap. -/
def semReti : OpSem :=
  { flow := .reti,
    wait := fun v => v.c.inSup && v.lastRep && v.c.svCmds.any (fun k => !k.save),
    check := fun v => if !v.c.inSup && v.lastRep && v.c.progBank.isNone then some (privFault 3) else none }
/-- The meaning of RETI. -/
def execReti (h : Hdr) (s : State) : Host.Outcome State Fault Refusal := issueSlot h (.reti h) semReti s

/-! ## The loop-stack image (R82) -/

/-- The registers of the image in its order. -/
def loopImageRegs : List Nat :=
  (List.range 6).map SR.lc ++ (List.range 6).map SR.ls ++ (List.range 6).map SR.le ++ [SR.ldepth]

/-- The address of an image. -/
def loopAddr (o : LoopMem) (v : Env) : W64 := v.src o.base + offset o.off

/-- Where an image lies. -/
def loopTarget (o : LoopMem) (v : Env) : Except Nat Target := resolveAccess v.c v.core true (loopAddr o v) 160 8

/-- The image of a context's loop stack. -/
def loopImage (x : Ctx) : Nat := joinBits 64 (loopImageRegs.map (fun r => (x.spec r).toNat))

/-- The words of an image in memory. -/
def loopWords (o : LoopMem) (v : Env) : List W64 :=
  match loopTarget o v with
  | .ok t => (splitBits 64 19 (v.s.read t.key 152)).map (BitVec.ofNat 64)
  | .error _ => []

/-- LSAVE. -/
def semLsave (o : LoopMem) : OpSem :=
  { srcs := [srcRef o.base], wait := fun v => localWait (loopTarget o v) v.c false true,
    check := fun v => accessTrap (loopAddr o v) (loopTarget o v),
    store := fun v s => match loopTarget o v with
      | .ok t => s.write t.key 160 (loopImage v.x)
      | .error _ => s }
/-- The meaning of LSAVE. -/
def execLsave (h : Hdr) (o : LoopMem) (s : State) : Host.Outcome State Fault Refusal :=
  issueSlot h (.lsave h o) (semLsave o) s

/-- LLOAD. -/
def semLload (o : LoopMem) : OpSem :=
  { srcs := [srcRef o.base], wait := fun v => localWait (loopTarget o v) v.c false false,
    check := fun v => match accessTrap (loopAddr o v) (loopTarget o v) with
      | some t => some t
      | none => if 6 < ((loopWords o v).getD 18 0).toNat then some (lovf 2) else none,
    act := fun v s => ((loopImageRegs.zip (loopWords o v)).foldl (fun s (r, w) =>
      s.land v.core (flightOf (.special r w) 1 v.slot 0)) s) }
/-- The meaning of LLOAD. -/
def execLload (h : Hdr) (o : LoopMem) (s : State) : Host.Outcome State Fault Refusal :=
  issueSlot h (.lload h o) (semLload o) s

/-! ## Supervisor commands (R83) -/

/-- Where a part's image lies: spaces 0x00 to 0x03, 512-byte aligned. -/
def svTarget (o : SvOp) (v : Env) : Except Nat Target :=
  if 3 < (v.src o.base).toNat >>> 56 then .error 1
  else resolveAccess v.c v.core false (v.src o.base) (partSize o.part.toNat) 512

/-- The checks of SVSAVE and SVLOAD. -/
def svCheck (o : SvOp) (v : Env) : Option Trap :=
  if v.c.inSup then accessTrap (v.src o.base) (svTarget o v) else some (privFault 2)

/-- A supervisor command is handed over: its tag counts as a copy's. -/
def svIssue (o : SvOp) (save : Bool) (v : Env) (s : State) : State :=
  let (acq, rel) := (ordAcq o.ord, ordRel o.ord)
  let (_, ww) := v.c.commandWaits acq rel
  let s := fenceAct v acq rel s
  s.modCore v.core (fun c =>
    let k : SvCmd := { id := c.sup.nextId, save := save, part := o.part.toNat, tag := o.tag.toNat, addr := v.src o.base,
                       waits := ww, failed := save && !contextFits v.s v.core o.part.toNat, image := if save then contextImage v.s v.core o.part.toNat else [],
                       earlier := if rel && save then (v.s.copiesBy v.core).map (·.id) else [] }
    { c with svCmds := c.svCmds ++ [k], sup := { (c.sup.tagAccept c.sup.nextId o.tag.toNat) with nextId := c.sup.nextId + 1 } })

/-- SVSAVE. A save of part 0 waits until every copy of the program has completed or parked (R171). -/
def semSvsave (o : SvOp) : OpSem :=
  { srcs := [srcRef o.base],
    wait := fun v => v.c.inSup && o.part == 0 && !(v.s.copiesOf v.core false).all Copy.rests,
    check := svCheck o, act := svIssue o true }
/-- The meaning of SVSAVE. -/
def execSvsave (h : Hdr) (o : SvOp) (s : State) : Host.Outcome State Fault Refusal :=
  issueSlot h (.svsave h o) (semSvsave o) s
/-- SVLOAD. -/
def semSvload (o : SvOp) : OpSem :=
  { srcs := [srcRef o.base], check := svCheck o, act := svIssue o false }
/-- The meaning of SVLOAD. -/
def execSvload (h : Hdr) (o : SvOp) (s : State) : Host.Outcome State Fault Refusal :=
  issueSlot h (.svload h o) (semSvload o) s

end Sys2Proof.Machine
end

