-- ==== Sys2Proof/Machine/Bundle.lean ====
section
/-! DEFINITION. Whole bundles (R20 to R24, R75, R189 to R193): what each operation does, by instruction; the start of an
issue, with the traps due at the boundary, the fetch and the resumption of a repetition; the events BUNDLE_ISSUE,
NULLIFIER_SKIP and RESULT_LANDING. -/

namespace Sys2Proof.Machine

open Sys2Proof.Num

/-- What a slot operation does; nothing for the others. -/
def semOf (i : Instr) : OpSem :=
  match i with
  | .snop _ => semSnop
  | .add _ o => semAdd o
  | .addImm _ o => semAddImm o
  | .sub _ o => semSub o
  | .subImm _ o => semSubImm o
  | .mul _ o => semMul o
  | .mulImm _ o => semMulImm o
  | .mulh _ o => semMulh o
  | .mulhImm _ o => semMulhImm o
  | .mulhz _ o => semMulhz o
  | .mulhzImm _ o => semMulhzImm o
  | .div _ o => semDiv o
  | .divImm _ o => semDivImm o
  | .divz _ o => semDivz o
  | .divzImm _ o => semDivzImm o
  | .rem _ o => semRem o
  | .remImm _ o => semRemImm o
  | .remz _ o => semRemz o
  | .remzImm _ o => semRemzImm o
  | .and _ o => semAnd o
  | .andImm _ o => semAndImm o
  | .or _ o => semOr o
  | .orImm _ o => semOrImm o
  | .xor _ o => semXor o
  | .xorImm _ o => semXorImm o
  | .andn _ o => semAndn o
  | .andnImm _ o => semAndnImm o
  | .shl _ o => semShl o
  | .shlImm _ o => semShlImm o
  | .shr _ o => semShr o
  | .shrImm _ o => semShrImm o
  | .sar _ o => semSar o
  | .sarImm _ o => semSarImm o
  | .rol _ o => semRol o
  | .rolImm _ o => semRolImm o
  | .min _ o => semMin o
  | .minImm _ o => semMinImm o
  | .max _ o => semMax o
  | .maxImm _ o => semMaxImm o
  | .minz _ o => semMinz o
  | .minzImm _ o => semMinzImm o
  | .maxz _ o => semMaxz o
  | .maxzImm _ o => semMaxzImm o
  | .clz _ o => semClz o
  | .ctz _ o => semCtz o
  | .popc _ o => semPopc o
  | .bfx _ o => semBfx o
  | .bfxz _ o => semBfxz o
  | .bfi _ o => semBfi o
  | .fshl _ o => semFshl o
  | .fshr _ o => semFshr o
  | .sel _ o => semSel o
  | .selImm _ o => semSelImm o
  | .movi _ o => semMovi o
  | .movhi _ o => semMovhi o
  | .cmpeq _ o => semCmpeq o
  | .cmpeqImm _ o => semCmpeqImm o
  | .cmpne _ o => semCmpne o
  | .cmpneImm _ o => semCmpneImm o
  | .cmplt _ o => semCmplt o
  | .cmpltImm _ o => semCmpltImm o
  | .cmple _ o => semCmple o
  | .cmpleImm _ o => semCmpleImm o
  | .cmpltz _ o => semCmpltz o
  | .cmpltzImm _ o => semCmpltzImm o
  | .cmplez _ o => semCmplez o
  | .cmplezImm _ o => semCmplezImm o
  | .pand _ o => semPand o
  | .por _ o => semPor o
  | .pxor _ o => semPxor o
  | .pandn _ o => semPandn o
  | .pset _ o => semPset o
  | .fadd _ o => semFadd o
  | .faddImm _ o => semFaddImm o
  | .fsub _ o => semFsub o
  | .fsubImm _ o => semFsubImm o
  | .fmul _ o => semFmul o
  | .fmulImm _ o => semFmulImm o
  | .fma _ o => semFma o
  | .fmin _ o => semFmin o
  | .fminImm _ o => semFminImm o
  | .fmax _ o => semFmax o
  | .fmaxImm _ o => semFmaxImm o
  | .fcmpeq _ o => semFcmpeq o
  | .fcmpeqImm _ o => semFcmpeqImm o
  | .fcmplt _ o => semFcmplt o
  | .fcmpltImm _ o => semFcmpltImm o
  | .fcmple _ o => semFcmple o
  | .fcmpleImm _ o => semFcmpleImm o
  | .fcvti _ o => semFcvti o
  | .fcvtf _ o => semFcvtf o
  | .rdsr _ o => semRdsr o
  | .wrsr _ o => semWrsr o
  | .lnop _ => semLnop
  | .ld _ o => semLd o
  | .ldIndexed _ o => semLdIndexed o
  | .ldPostinc _ o => semLdPostinc o
  | .st _ o => semSt o
  | .stIndexed _ o => semStIndexed o
  | .stPostinc _ o => semStPostinc o
  | .ldl _ o => semLdl o
  | .ldlPostinc _ o => semLdlPostinc o
  | .stl _ o => semStl o
  | .stlPostinc _ o => semStlPostinc o
  | .ldx _ o => semLdx o
  | .stx _ o => semStx o
  | .gld _ o => semGld o
  | .glds _ o => semGlds o
  | .amo _ o => semAmo o
  | .cas _ o => semCas o
  | .amol _ o => semAmol o
  | .pcfg _ o => semPcfg o
  | .prst _ o => semPrst o
  | .hgive _ o => semHgive o
  | .htake _ o => semHtake o
  | .hback _ o => semHback o
  | .vnop _ => semVnop
  | .vadd _ o => semVadd o
  | .vsub _ o => semVsub o
  | .vmul _ o => semVmul o
  | .vfma _ o => semVfma o
  | .vmin _ o => semVmin o
  | .vmax _ o => semVmax o
  | .vabs _ o => semVabs o
  | .vneg _ o => semVneg o
  | .vadds _ o => semVadds o
  | .vsubs _ o => semVsubs o
  | .vmulh _ o => semVmulh o
  | .vand _ o => semVand o
  | .vor _ o => semVor o
  | .vxor _ o => semVxor o
  | .vshl _ o => semVshl o
  | .vshr _ o => semVshr o
  | .vsar _ o => semVsar o
  | .vbfx _ o => semVbfx o
  | .vbfxz _ o => semVbfxz o
  | .vfshr _ o => semVfshr o
  | .vclz _ o => semVclz o
  | .vpopc _ o => semVpopc o
  | .vcmpeq _ o => semVcmpeq o
  | .vcmpne _ o => semVcmpne o
  | .vcmplt _ o => semVcmplt o
  | .vcmple _ o => semVcmple o
  | .vclass _ o => semVclass o
  | .vsel _ o => semVsel o
  | .vmov _ o => semVmov o
  | .vbcast _ o => semVbcast o
  | .vperm _ o => semVperm o
  | .vrot _ o => semVrot o
  | .viota _ o => semViota o
  | .vextr _ o => semVextr o
  | .vins _ o => semVins o
  | .vrsum _ o => semVrsum o
  | .vrmax _ o => semVrmax o
  | .vrmin _ o => semVrmin o
  | .vror _ o => semVror o
  | .vscan _ o => semVscan o
  | .vwiden _ o => semVwiden o
  | .vnarrow _ o => semVnarrow o
  | .vdot4 _ o => semVdot4 o
  | .kand _ o => semKand o
  | .kor _ o => semKor o
  | .kxor _ o => semKxor o
  | .knot _ o => semKnot o
  | .kpopc _ o => semKpopc o
  | .kany _ o => semKany o
  | .xnop _ => semXnop
  | .xrcp _ o => semXrcp o
  | .xrsq _ o => semXrsq o
  | .xsqrt _ o => semXsqrt o
  | .xexp2 _ o => semXexp2 o
  | .xlog2 _ o => semXlog2 o
  | .xtanh _ o => semXtanh o
  | .xsig _ o => semXsig o
  | .xdiv _ o => semXdiv o
  | .xcvt _ o => semXcvt o
  | .xamax _ o => semXamax o
  | .xscale _ o => semXscale o
  | .xqnt _ o => semXqnt o
  | .xdqnt _ o => semXdqnt o
  | .xseed _ o => semXseed o
  | .xrand _ o => semXrand o
  | .mnop _ => semMnop
  | .mwld _ o => semMwld o
  | .mswap _ o => semMswap o
  | .mshf _ o => semMshf o
  | .macc _ o => semMacc o
  | .maccz _ o => semMaccz o
  | .mdrn _ o => semMdrn o
  | .mzero _ o => semMzero o
  | .manch _ o => semManch o
  | .mscl _ o => semMscl o
  | .mxsc _ o => semMxsc o
  | .cnop _ => semCnop
  | .copy _ o => semCopy o
  | .copynb _ o => semCopynb o
  | .twany _ o => semTwany o
  | .twall _ o => semTwall o
  | .tfind _ o => semTfind o
  | .tclr _ o => semTclr o
  | .fence _ o => semFence o
  | .fenceInstr _ => semFenceInstr
  | .drain _ o => semDrain o
  | .barrive _ o => semBarrive o
  | .bwait _ o => semBwait o
  | .btest _ o => semBtest o
  | .step _ o => semStep o
  | .trigger _ o => semTrigger o
  | .exit _ => semExit
  | .submit _ o => semSubmit o
  | .skim _ o => semSkim o
  | .evadd _ o => semEvadd o
  | .evwait _ o => semEvwait o
  | .trap _ o => semTrap o
  | .reti _ => semReti
  | .lsave _ o => semLsave o
  | .lload _ o => semLload o
  | .svsave _ o => semSvsave o
  | .svload _ o => semSvload o
  | _ => {}

/-- What a branch operation does; nothing for the others. -/
def branchSemOf (i : Instr) : BranchSem :=
  match i with
  | .brc neg pred tgt => semBrc neg pred tgt
  | .jmp tgt => semJmp tgt
  | .call tgt link => semCall tgt link
  | .ret reg => semRet reg
  | .jmpi tgt reg => semJmpi tgt reg
  | .calli tgt link reg => semCalli tgt link reg
  | .loop endOff reg => semLoop endOff reg
  | .loopImm endOff count => semLoopImm endOff count
  | .lpop n => semLpop n
  | .brt o => semBrt o
  | _ => {}

/-- The operations of a repetition: every present slot's word and every held slot's sticky word, as advanced (R21 to
R24). -/
def bundleActives (b : Bundle) (x : Ctx) : List Active :=
  let st := stickyAt b x.rep x.sticky
  (Bundle.activeSlots b).map (fun i =>
    let w := st.look 0 i.val
    ⟨i, w, ((parse i w).map semOf).getD {}⟩)

/-- The branch operation of a bundle. -/
def bundleBranch (b : Bundle) : BranchSem := (b.branch.map branchSemOf).getD noBranch

/-- The bundle that core `n` has under way, or fetches now: a repetition above REP resumes at the following bundle
(R193), so at most two are fetched. An illegal bundle is recorded at repetition 0, a fetch fault at the repetition at which
the bundle would have resumed (R192). -/
def fetchNext (n : Nat) : Nat → State → State × Option Bundle
  | 0, s => (s, none)
  | k + 1, s =>
    let x := s.ctx n
    match x.cur with
    | some b => (s, some b)
    | none =>
      match fetchBundle s n x.pc (x.sticky.look 0 6) with
      | (s, .error t) => (s.trap n t x.pc (if t.cls = 16 then 0 else x.rep), none)
      | (s, .ok b) =>
        if b.rep < x.rep then
          fetchNext n k (s.modCtx n (fun x => { x with pc := x.pc + BitVec.ofNat 64 (8 * b.len), rep := 0 }))
        else (s.modCtx n (fun x => { x with cur := some b }), some b)

/-- The start of an issue on core `n`: a cycle passes; a trap that is due at the boundary is taken; otherwise the bundle
under way or fetched. The cycle of an issue is counted ahead of it, so a read of cycles counts that of the reading issue, and
the first issue of a launch reads 1: DESIGN CHOICE (log 44), since R72 says only 'since the core started the launch'. -/
def startIssue (n : Nat) (s : State) : State × Option Bundle :=
  if (s.core n).runs then
    let s := s.modCore n Core.countCycle
    match (s.core n).dueTrap with
    | some t => (s.takeDue n t, none)
    | none => fetchNext n 2 s
  else (s, none)

/-- Issue the next repetition of a bundle on core `n`. -/
def issueWhole (n : Nat) (b : Bundle) (s : State) : State :=
  issueBundle n b (bundleActives b (s.ctx n)) (bundleBranch b) s

/-- One cycle of core `n`: the start of an issue and the issue. -/
def cycle (n : Nat) (s : State) : State :=
  match startIssue n s with
  | (s, some b) => issueWhole n b s
  | (s, none) => s

/-! ## The look-ahead nullifier (R191) -/

/-- The guard predicates of a bundle's active slots. -/
def bundleGuards (b : Bundle) (x : Ctx) : List Nat := (bundleActives b x).map (fun a => (fld 4 a.word 52).toNat)

/-- Whether the nullifier skips a bundle: no branch word, every guard false, and no write to a guard predicate lands at
one of the bundle's issues or at the issue before it, nor is one awaited of a group load. -/
def Ctx.nullified (x : Ctx) (b : Bundle) : Bool :=
  b.branch.isNone && (bundleActives b x).all (fun a => !guardTrue x a.word) &&
  (bundleGuards b x).all (fun p =>
    p == 0 || !x.landed.getLsbD p && !x.lately.getLsbD p && !x.predPending p &&
    x.flight.all (fun f => match f.eff with
      | .pred q _ => q != p || b.rep < f.remain
      | _ => true))

/-- Every repetition of a skipped bundle: as an issue in which no operation takes part. -/
def skipReps (n : Nat) (b : Bundle) : Nat → State → State
  | 0, s => s
  | k + 1, s => skipReps n b k (issueBundle n b [] noBranch s)

/-- The nullifier at a bundle that core `n` is about to fetch. -/
def nullify (n : Nat) (s : State) : State :=
  let c := s.core n
  if c.runs ∧ c.dueTrap = none ∧ c.ctx.cur = none ∧ c.ctx.rep = 0 then
    match fetchBundle s n c.ctx.pc (c.ctx.sticky.look 0 6) with
    | (t, .ok b) => if c.ctx.nullified b then skipReps n b (b.rep + 1) t else s
    | (_, .error _) => s
  else s

/-! ## The events -/

/-- Whether a move is answered when the package has halted (R372): the boot and security block, the sideband, a reset. -/
def Move.whenHalted : Move → Bool
  | .resetRelease _ | .powerCycle | .mboxAttest | .mboxImageChunk | .mboxImageEnd _ _ | .mboxImageReset
  | .mboxUnknownCommand | .secPolicyWrite _ | .sensorAlarm _ | .registerWrite .. | .i3cTelemetryRead _ | .i3cCapWrite ..
  | .i3cStatusRead _ | .i3cFenceMapRead _ | .i3cUnknownCommand .. | .entdaa _ => true
  | _ => false

/-- The next move, when it is one of a row, is worked by `f` and consumed; otherwise nothing changes. In a package that has
halted a move that nothing answers is consumed without effect. -/
def onMove (f : Move → State → Option State) (s : State) : Host.Outcome State Fault Refusal :=
  match s.agenda with
  | m :: rest =>
    (match f m { s with agenda := rest } with
      | some t => .next (if s.sec.halted && !m.whenHalted then { s with agenda := rest } else t)
      | none => .next s)
  | [] => .next s

/-- BUNDLE_ISSUE (R189). -/
def execBundleIssue (s : State) : Host.Outcome State Fault Refusal :=
  onMove (fun m s => match m with
    | .bundleIssue n => some (cycle n s)
    | _ => none) s

/-- NULLIFIER_SKIP (R191). -/
def execNullifierSkip (s : State) : Host.Outcome State Fault Refusal :=
  onMove (fun m s => match m with
    | .nullifierSkip n => some (nullify n s)
    | _ => none) s

/-- RESULT_LANDING (R7, R179): what lands at the next issue of a core whose EXIT is running, as under an empty bundle, which
stalls as any other while the queue of a push that is due has no room. On a core that issues, results land inside the issue
itself, at which no stop can fall between the two (R203). -/
def execResultLanding (s : State) : Host.Outcome State Fault Refusal :=
  onMove (fun m s => match m with
    | .resultLanding n =>
      some (s.modCore n (fun c => if c.mode = .exiting then
        (if c.landFull then c.landRoom.landClears
         else
           let d := c.landDue
           d.setCtx d.ctx.countDown) else c))
    | _ => none) s

end Sys2Proof.Machine
end

