-- ==== Sys2Proof/Machine/CoreEvents.lean ====
section
/-! DEFINITION. What happens at a core beside its issues: accesses that perform, results and statuses that arrive, traps
taken at a boundary, the entry into supervisor mode, ports, group loads, handles, the end of EXIT, supervisor commands
(R87, R97, R100, R105, R106, R166, R176, R179, R181, R187, R192, R199, R202, R269, R283). -/

namespace Sys2Proof.Machine

open Sys2Proof.Num

/-- Whether an agent of the core works for its program now: it runs, waits to enter supervisor mode, or exits. -/
def Core.works (c : Core) : Bool := c.mode == .program || c.mode == .trapping || c.mode == .exiting

/-! ## Accesses -/

/-- Replace a cell of an access; an access with no destination is over once every cell has performed. -/
def Ctx.putCell (x : Ctx) (id cell : Nat) (k : RCell) : Ctx :=
  let all := x.racc.map (fun q => if q.id == id then { q with cells := q.cells.set cell k } else q)
  { x with racc := all.filter (fun q => q.pending || q.dst != .none) }

/-- One cell of an access of core `n` performs, when every access that it follows has (R269, R272). -/
def performAccess (s : State) (n id cell : Nat) : State :=
  let x := (s.core n).side (supId id)
  match x.racc.find? (fun r => r.id == id) with
  | none => s
  | some r =>
    match r.cells[cell]? with
    | none => s
    | some k =>
      if k.done || !(s.core n).performed r.waits then s
      else
        let (s, k) := s.performCell r.kind k
        s.modCore n (fun c => c.modSide (supId id) (fun x => x.putCell id cell k))

/-- A result that was awaited is no longer. -/
def Ctx.dropVar (x : Ctx) (id : Nat) : Ctx := { x with vars := x.vars.filter (fun v => v.id != id) }

/-- A status or value arrives in a register of core `n` and its result is no longer awaited. -/
def State.answerVar (s : State) (n : Nat) (v : Var) (dest : Nat) (val : W64) : State :=
  s.modCore n (fun c => (c.modSide (supId v.id) (·.dropVar v.id)).arriveReg (supId v.id) v.handler dest val)

/-- An awaited result of core `n`. -/
def State.findVar (s : State) (n id : Nat) : Option Var :=
  ((s.core n).side (supId id)).vars.find? (fun v => v.id == id)

/-- A result that is ready arrives: an access that has performed, or a TFIND behind no earlier COPYNB (R168, R187). -/
def arriveVariable (s : State) (n id : Nat) : State :=
  let x := (s.core n).side (supId id)
  match x.racc.find? (fun r => r.id == id) with
  | some r =>
    if r.pending || !(match r.dst with
      | .line spec _ _ _ _ _ => (s.core n).lineRoom spec
      | _ => true) then s
    else s.modCore n (fun c => c.arriveAccess (supId id) r)
  | none =>
    match s.findVar n id with
    | some v =>
      (match v.kind with
        | .tfind d m seen err =>
          if m != 0 && x.vars.any (fun w => w.id < id && (match w.kind with
            | .copynb .. => true
            | _ => false)) then s
          else s.answerVar n v d (tfindValue (x.spec SR.tagmap ||| seen) (x.spec SR.tagerr ||| err) m)
        | _ => s)
    | none => s

/-- VARIABLE_RESULT_ARRIVAL (R187). -/
def execVariableResultArrival (s : State) : Host.Outcome State Fault Refusal :=
  onMove (fun m s => match m with
    | .variableResultArrival n id => some (arriveVariable s n id)
    | _ => none) s

/-! ## Traps at a boundary (R192, R199) -/

/-- Take the trap that is due at a core, when it is one of those asked for. -/
def takeBoundary (s : State) (n : Nat) (want : Core → Trap → Bool) : State :=
  let c := s.core n
  if c.mode = .program then
    match c.dueTrap with
    | some t => if want c t then s.takeDue n t else s
    | none => s
  else s

/-- DEFERRED_LOAD_ERROR_TRAP (R87). -/
def execDeferredLoadErrorTrap (s : State) : Host.Outcome State Fault Refusal :=
  onMove (fun m s => match m with
    | .deferredLoadErrorTrap n => some (takeBoundary s n (fun _ t => t.cls == 4))
    | _ => none) s

/-- MACHINE_ERROR_TRAP (R361). -/
def execMachineErrorTrap (s : State) : Host.Outcome State Fault Refusal :=
  onMove (fun m s => match m with
    | .machineErrorTrap n => some (takeBoundary s n (fun _ t => t.cls == 20))
    | _ => none) s

/-- A pre-emption stops the core (R177, R192): at once for a bundle-boundary request; for a step-boundary request when the
next issue is that of a STEP. -/
def stopForPreemption (s : State) (n : Nat) : State :=
  if (s.core n).preempt = some false then
    let t := cycle n s
    if (t.core n).mode = .trapping ∧ (t.core n).preempt = none then t else s
  else takeBoundary s n (fun c t => t.cls == 19 && c.progBank.isNone)

/-- PREEMPTION_STOP (R192). -/
def execPreemptionStop (s : State) : Host.Outcome State Fault Refusal :=
  onMove (fun m s => match m with
    | .preemptionStop n => some (stopForPreemption s n)
    | _ => none) s

/-- PREEMPT_HELD_TIMEOUT (R199). -/
def execPreemptHeldTimeout (s : State) : Host.Outcome State Fault Refusal :=
  onMove (fun m s => match m with
    | .preemptHeldTimeout n => some (takeBoundary s n (fun c t => t.cls == 19 && c.progBank.isSome))
    | _ => none) s

/-- Whether a stopped core has nothing outstanding that its entry into supervisor mode waits for (R171, R202). -/
def State.entryReady (s : State) (n : Nat) : Bool :=
  let c := s.core n
  c.prog.racc.isEmpty &&
  c.prog.vars.all (fun v => match v.kind with
    | .step .. | .htake .. => true
    | _ => false) &&
  c.lent.all (fun r => r.status.isNone) &&
  (s.copiesOf n false).all Copy.rests

/-- SYSTEM_TRAP_ENTRY (R200, R202). -/
def execSystemTrapEntry (s : State) : Host.Outcome State Fault Refusal :=
  onMove (fun m s => match m with
    | .systemTrapEntry n =>
      some (if (s.core n).mode = .trapping ∧ s.entryReady n then
        s.modCore n (fun c => { c with mode := .supervisor, sup := { c.sup with pc := c.svEntry, rep := 0, cur := none } })
      else s)
    | _ => none) s

/-! ## Statuses -/

/-- The registers of a STEP are filled together (R176): coordinates, status and stepidx. -/
def deliverStep (s : State) (n : Nat) (v : Var) (d : Nat) (i : Option Nat) : State :=
  let slate := (((s.core n).launch.bind s.launch).map (·.slate)).getD 0
  let vals := match i with
    | some i => (coords slate i).map (BitVec.ofNat 64) ++ [0]
    | none => List.replicate 6 0 ++ [1]
  s.modCore n (fun c =>
    let c := { c with prog := c.prog.dropVar v.id }
    let c := (vals.zipIdx).foldl (fun c (w, j) => c.arriveReg false v.handler (d + j) w) c
    match i with
    | some i => { c with prog := c.prog.putSpec SR.stepidx (BitVec.ofNat 64 i) }
    | none => c)

/-- STEP_DELIVERY (R176): not while the program is frozen (R177). -/
def execStepDelivery (s : State) : Host.Outcome State Fault Refusal :=
  onMove (fun m s => match m with
    | .stepDelivery n =>
      let c := s.core n
      let w := c.prog.vars.findSome? (fun v => match v.kind with
        | .step d (some i) => some (v, d, i)
        | _ => none)
      some (match w with
        | some (v, d, i) => if c.works then deliverStep s n v d i else s
        | none => s)
    | _ => none) s

/-- The status of a COPYNB, in the order of its context's commands (R166): accepted with 0, or refused with 1. -/
def copynbStatus (s : State) (n id : Nat) : State :=
  let first := ((s.core n).side (supId id)).vars.findSome? (fun v => match v.kind with
    | .copynb d r rw w => some (v, d, r, rw, w)
    | _ => none)
  match first with
  | some (v, d, r, rw, w) =>
    if v.id ≠ id then s
    else if s.copyRoom n (supId id) then (s.acceptCopy n (supId id) id r rw w).answerVar n v d 0
    else s.answerVar n v d 1
  | none => s

/-- COPYNB_STATUS (R166). -/
def execCopynbStatus (s : State) : Host.Outcome State Fault Refusal :=
  onMove (fun m s => match m with
    | .copynbStatus n id => some (copynbStatus s n id)
    | _ => none) s

/-- SKIM_STATUS (R181). -/
def execSkimStatus (s : State) : Host.Outcome State Fault Refusal :=
  onMove (fun m s => match m with
    | .skimStatus n id =>
      some (match s.findVar n id with
        | some v => (match v.kind with
            | .skim d st => s.answerVar n v d (BitVec.ofNat 64 st)
            | _ => s)
        | none => s)
    | _ => none) s

/-! ## Ports (R100, R101) -/

/-- READ_PORT_FILL (R100). -/
def execReadPortFill (s : State) : Host.Outcome State Fault Refusal :=
  onMove (fun m s => match m with
    | .readPortFill n p => some (if (s.core n).works then fillPort s n p else s)
    | _ => none) s

/-- WRITE_PORT_WRITE (R100). -/
def execWritePortWrite (s : State) : Host.Outcome State Fault Refusal :=
  onMove (fun m s => match m with
    | .writePortWrite n p => some (if (s.core n).works then drainPort s n p else s)
    | _ => none) s

/-! ## Group loads (R95 to R98, R283 to R285) -/

/-- The identity that a fenced member contributes (R97). -/
def groupIdentity (op : Nat) (ty : BitVec 4) : Nat :=
  match op with
  | 0 => if tyF ty then (fmtOf ty).sign true 0 else 0
  | 1 => if tyF ty then (fmtOf ty).inf true else lowBits (intMin ty) 32
  | 2 => if tyF ty then (fmtOf ty).inf false else lowBits (intMax ty) 32
  | 3 => 2 ^ 32 - 1
  | _ => 0

/-- The combination of one element over the members in ascending order (R96, R233). -/
def groupElement (op : Nat) (ty : BitVec 4) (xs : List Nat) : Nat × Nat :=
  if tyF ty then
    if op = 0 then rsum ty xs else reduceTree (fmtOf ty) (fminmax (fmtOf ty) (op == 1)) xs
  else tree (withFlags (combine op ty)) (0, 0) 11 (xs.map plain)

/-- Whether a cell that a group load is to read is one that an access which it follows has still to perform at (R272). -/
def State.cellHeld (s : State) (n : Nat) (waits : List Nat) (k : RCell) : Bool :=
  let c := s.core n
  (c.prog.racc ++ c.sup.racc).any (fun r => waits.contains r.id && r.cells.any (fun q => !q.done && q.overlaps k)) ||
  c.prog.vars.any (fun v => waits.contains v.id && (s.unread v).any k.overlaps)

/-- Cells of a group load are read at a member, each when the accesses to it that come before the load have performed; a fenced
member of which nothing was read gives its identity. -/
def memberRead (s : State) (n id m : Nat) (cells : BitVec 128) : State :=
  match s.findVar n id with
  | some { kind := .gload g op ty off line dest cp members fenced acq waits, .. } =>
    let put (got : Option (FMap W32)) (f : Bool) (s : State) : State :=
      let ms := members.map (fun (k, o) => if k == m then (k, got) else (k, o))
      let kind := VarKind.gload g op ty off line dest cp ms f acq waits
      s.modCore n (fun c =>
        let vars := c.prog.vars.map (fun v => if v.id == id then { v with kind := kind } else v)
        { c with prog := { c.prog with vars := vars } })
    (match members.find? (fun p => p.1 == m), s.groups.find g with
      | some (_, some got), some grp =>
        if (s.coreFenced m || grp.absent.contains m) && got.isEmpty then
          let s := if fenced then s
            else { s with groups := s.groups.put g { grp with degraded := saturate32 (grp.degraded + 1) } }
          put none true s
        else
          let place (i : Nat) := groupPlace grp off m + 4 * i
          let bytes := groupBytes ty line
          let got := (List.range (groupCells line)).foldl (fun (got : FMap W32) i =>
            if cells.getLsbD i && (got.find i).isNone && !s.cellHeld n waits (newCell (place i) bytes 0 0 0) then
              got.put i (BitVec.ofNat 32 (s.read (place i) bytes)) else got) got
          put (some got) fenced s
      | _, _ => s)
  | _ => s

/-- GROUP_LOAD_MEMBER_READ (R283). -/
def execGroupLoadMemberRead (s : State) : Host.Outcome State Fault Refusal :=
  onMove (fun m s => match m with
    | .groupLoadMemberRead n id k cells => some (memberRead s n id k cells)
    | _ => none) s

/-- The operands of element `j` in the members' order. -/
def groupOperands (op : Nat) (ty : BitVec 4) (line : Option (BitVec 13)) (members : List (Nat × Option (FMap W32)))
    (j : Nat) : List Nat :=
  let w := if line.isNone && ty == 9 then 16 else tyWidth ty
  members.map (fun p => match p.2 with
    | some got => (got.look 0 (j * w / 32)).toNat >>> (j * w % 32) % 2 ^ w
    | none => groupIdentity op ty)

/-- The combined result of a group load reaches core `n` (R97): the flags, the destination and its completeness
predicate. -/
def groupComplete (s : State) (n id : Nat) : State :=
  match s.findVar n id with
  | some { kind := .gload _ op ty _ line dest cp members _ _ _, handler := handler, .. } =>
    if members.any (fun p => p.2.any (fun got => got.length < groupCells line)) || !line.all (s.core n).lineRoom then s
    else
      let w := tyWidth ty
      let count := if line.isSome then 4096 / w else 1
      let rs : List (Nat × Nat) := (List.range count).map (fun j => groupElement op ty (groupOperands op ty line members j))
      let vs := rs.map Prod.fst
      let whole := members.all (fun p => p.2.isSome)
      let fl := rs.foldl (fun f (r : Nat × Nat) => f ||| r.2) 0
      s.modCore n (fun c =>
        let c := { c with prog := (c.prog.dropVar id).orFlags fl }
        let c := match line with
          | some spec => c.arriveLine handler spec false
              (lanes.zip (splitBits 32 128 (joinBits w vs)))
          | none => c.arriveReg false handler dest
              (BitVec.ofNat 64 (extend (ty == 4) w (vs.headD 0) 64))
        c.arrivePred false handler cp whole)
  | _ => s

/-- GROUP_LOAD_COMPLETE (R97). -/
def execGroupLoadComplete (s : State) : Host.Outcome State Fault Refusal :=
  onMove (fun m s => match m with
    | .groupLoadComplete n id => some (groupComplete s n id)
    | _ => none) s

/-! ## Handles (R105, R106) -/

/-- HTAKE_OFFER_ACCEPT (R105). -/
def execHtakeOfferAccept (s : State) : Host.Outcome State Fault Refusal :=
  onMove (fun m s => match m with
    | .htakeOfferAccept n => some (takeOffer s n)
    | _ => none) s

/-- HANDLE_RETURN_COMPLETE (R106): once the holder's accesses through the slot have performed. -/
def execHandleReturnComplete (s : State) : Host.Outcome State Fault Refusal :=
  onMove (fun m s => match m with
    | .handleReturnComplete n region =>
      some (match (s.core n).lent.find? (fun r => r.id == region) with
        | some r =>
          if r.taken && (s.core (peerOf n r.peer)).handleBusy r.slot then s else finishReturn s n region
        | none => s)
    | _ => none) s

/-! ## The end of EXIT (R179) -/

/-- Whether nothing holds an EXIT any longer: neither what the program has issued nor what the supervisor has left outstanding
at its RETI. -/
def State.exitReady (s : State) (n : Nat) : Bool :=
  let c := s.core n
  c.prog.flight.isEmpty && c.prog.racc.isEmpty && c.sup.racc.isEmpty && c.svCmds.isEmpty && (s.copiesBy n).all (·.orphan) &&
  (c.prog.vars ++ c.sup.vars).all (fun v => match v.kind with
    | .htake .. => true
    | _ => false) &&
  [8, 9, 10, 11].all (fun p => !c.portBusy p) && s.nt.all (fun w => w.core != n)

/-- The end of a core's part by EXIT: the step retires unless a failed copy settles it, when it bears the triggered mark from
now on (R252); handles, barriers, the report. -/
def State.finishExit (s : State) (n : Nat) : State :=
  let c := s.core n
  let bad := c.prog.spec SR.tagerr != 0
  let s := if bad && c.claim.isSome then s.markTriggered n else s.retireStep n
  let s := (s.settleHandles n 2).leaveGroups n
  let s := s.modCore n (fun c => { c with mode := .exited, prog := { c.prog with vars := [] } })
  let s := s.markOver n
  (if bad then s.stepFailure n else s).consider

/-- The end of a core's part by END (R360): as by EXIT with no drain; its claim has failed already. -/
def State.finishEnd (s : State) (n : Nat) : State :=
  let s := (s.settleHandles n 2).leaveGroups n
  let s := s.modCore n (fun c => { c with mode := .exited, ending := false, prog := { c.prog with vars := [] } })
  (s.markOver n).consider

/-- EXIT_COMPLETE (R179, R360). -/
def execExitComplete (s : State) : Host.Outcome State Fault Refusal :=
  onMove (fun m s => match m with
    | .exitComplete n =>
      let c := s.core n
      some (if c.mode ≠ .exiting then s
        else if c.ending then (if (s.copiesOf n false).isEmpty then s.finishEnd n else s)
        else if s.exitReady n then s.finishExit n else s)
    | _ => none) s

/-! ## Supervisor commands (R83, R206) -/

/-- A supervisor command completes: its save is written, or its load is taken; its tag is set in the supervisor's tag
state. -/
def svComplete (s : State) (n id : Nat) : State :=
  let c := s.core n
  match c.svCmds.find? (fun k => k.id == id) with
  | none => s
  | some k =>
    if !c.performed k.waits || k.earlier.any (fun i => s.copies.any (fun q => q.id == i)) then s
    else
      let finish (s : State) (failed : Bool) : State :=
        s.modCore n (fun c => { c with svCmds := c.svCmds.filter (fun q => q.id != id), sup := c.sup.tagComplete k.tag failed })
      if k.failed then finish s true
      else match resolveAccess { c with mode := .supervisor } n false k.addr (partSize k.part) 512 with
        | .error _ => finish s true
        | .ok t =>
          if k.save then finish (s.writeImage t.key (partSize k.part) k.image) false
          else match loadPart s n k.part (s.reader t.key) with
            | some s => finish s false
            | none => finish s true

/-- SV_COMMAND_COMPLETE (R83). -/
def execSvCommandComplete (s : State) : Host.Outcome State Fault Refusal :=
  onMove (fun m s => match m with
    | .svCommandComplete n id => some (svComplete s n id)
    | _ => none) s

end Sys2Proof.Machine
end

