-- ==== Sys2Proof/Machine/DeviceAccess.lean ====
section
/-! DEFINITION. Accesses of the package's agents to device memory by virtual address: a range is translated page by page
(R323 to R326), then read, written, cleared, or copied. -/

namespace Sys2Proof.Machine

open Sys2Proof.Num

/-- A failed translation: its reason (R326) and the address that failed. -/
structure XFail where
  reason : Nat
  va     : Nat
  deriving DecidableEq, Repr

/-- Consecutive pieces of a range: offset, physical address, length; no piece crosses a 64 KiB page. By fuel. -/
def piecesFrom (write : Bool) (va : Nat) : Nat → State → Nat → Nat → State × Except XFail (List (Nat × Nat × Nat))
  | 0, s, _, _ => (s, .ok [])
  | k + 1, s, off, n =>
    if n = 0 then (s, .ok [])
    else
      let m := min n (65536 - (va + off) % 65536)
      match s.translate (va + off) write with
      | (s, .error r) => (s, .error ⟨r, va + off⟩)
      | (s, .ok pa) =>
        match piecesFrom write va k s (off + m) (n - m) with
        | (s, .error e) => (s, .error e)
        | (s, .ok ps) => (s, .ok ((off, pa, m) :: ps))

/-- The pieces of `n` bytes at a virtual address. -/
def State.pieces (s : State) (va n : Nat) (write : Bool) : State × Except XFail (List (Nat × Nat × Nat)) :=
  piecesFrom write va (n / 65536 + 2) s 0 n

/-- What pieces hold, as a little-endian number. -/
def State.readPieces (s : State) (ps : List (Nat × Nat × Nat)) : Nat :=
  ps.foldl (fun a (off, pa, m) => a + s.read pa m <<< (8 * off)) 0

/-- Write a little-endian number over pieces. -/
def State.writePieces (s : State) (ps : List (Nat × Nat × Nat)) (v : Nat) : State :=
  ps.foldl (fun s (off, pa, m) => s.deviceWrite pa m (v >>> (8 * off) % 2 ^ (8 * m))) s

/-- Make pieces read as zero. -/
def State.clearPieces (s : State) (ps : List (Nat × Nat × Nat)) : State :=
  ps.foldl (fun s (_, pa, m) => { s with mem := memClear s.mem pa m }.noteWritten pa m) s

/-- Read `n` bytes at a virtual address. -/
def State.vaRead (s : State) (va n : Nat) : State × Except XFail Nat :=
  match s.pieces va n false with
  | (s, .error e) => (s, .error e)
  | (s, .ok ps) => (ps.foldl (fun s (_, pa, m) => s.wakeRead pa m) s, .ok (s.readPieces ps))

/-- Write `n` bytes at a virtual address. -/
def State.vaWrite (s : State) (va n v : Nat) : State × Except XFail Unit :=
  match s.pieces va n true with
  | (s, .error e) => (s, .error e)
  | (s, .ok ps) => (s.writePieces ps v, .ok ())

/-- The part of a range's pieces that `n` bytes from an offset take up. -/
def subPieces (ps : List (Nat × Nat × Nat)) (from_ n : Nat) : List (Nat × Nat × Nat) :=
  ps.filterMap (fun (off, pa, m) =>
    let lo := max off from_
    let hi := min (off + m) (from_ + n)
    if lo < hi then some (lo - from_, pa + (lo - off), hi - lo) else none)

/-- The bytes listed in a range of keys, as offsets into it. -/
def listedBytes (m : List Host.Cell) (key n : Nat) : List (Nat × Byte) :=
  (m.filter (fun c => key ≤ c.1 && c.1 < key + n)).map (fun c => (c.1 - key, c.2))

/-- Copy on-chip bytes to pieces that read as zero. -/
def State.copyOut (s : State) (key n : Nat) (ps : List (Nat × Nat × Nat)) : State :=
  (listedBytes s.mem key n).foldl (fun s (o, b) => s.writePieces (subPieces ps o 1) b.toNat) s

/-- Copy pieces to on-chip bytes. -/
def State.copyIn (s : State) (key n : Nat) (ps : List (Nat × Nat × Nat)) : State :=
  let listed := ps.flatMap (fun (off, pa, m) => (listedBytes s.mem pa m).map (fun (o, b) => (off + o, b)))
  listed.foldl (fun s (o, b) => s.write (key + o) 1 b.toNat) { s with mem := memClear s.mem key n }

/-- The fault record's request of a failed translation (R328). -/
def XFail.request (e : XFail) (kind : ReqKind) (ident : Nat) (space : Nat) (write : Bool) (unit : Nat) (place : W64) :
    Request :=
  { kind := kind, ident := ident, reason := BitVec.ofNat 8 e.reason, space := BitVec.ofNat 8 space,
    va := BitVec.ofNat 48 e.va, write := write, unit := BitVec.ofNat 10 unit, place := place }

end Sys2Proof.Machine
end

