-- ==== Sys2Proof/Machine/Launch.lean ====
section
/-! DEFINITION. Launch entries, admission, steps, completion, pre-emption and resumption (R241 to R261): what the scheduler
and the walkers do. Queue control and submissions of every kind are in Machine/Queues.lean. -/

namespace Sys2Proof.Machine

open Sys2Proof.Num

/-! ## Continuity entries (R242, R243) -/

/-- A dword of an entry. -/
def entryDword (e : Entry) (i : Nat) : Nat := recField e (8 * i) 0 64

/-- KIND and MASK. -/
def entryKind (e : Entry) : Nat := recField e 0 32 3
def entryMask (e : Entry) : Nat := recField e 0 0 32

/-- Replace the present field groups of a slate by the dwords of an entry from `from_` on, in ascending group. -/
def applyGroups (e : Entry) (from_ : Nat) (x : BitVec 2048) : BitVec 2048 :=
  ((bitsOf 32 (entryMask e)).zipIdx).foldl (fun x (g, k) =>
    let old := x.toNat >>> (64 * g) % 2 ^ 64
    BitVec.ofNat 2048 (x.toNat - old <<< (64 * g) + entryDword e (from_ + k) <<< (64 * g))) x

/-- Whether the dwords after the present groups are zero, and no more groups are present than there is room for. -/
def groupsFit (e : Entry) (from_ : Nat) : Bool :=
  let k := (bitsOf 32 (entryMask e)).length
  from_ + k ≤ 8 && (List.range 8).all (fun i => i < from_ + k || entryDword e i == 0)

/-- The candidate slate of a launch entry, if one can be formed (R243). -/
def State.candidate (s : State) (q : Nat) (e : Entry) : State × Option (BitVec 2048) :=
  if entryKind e = 0 then
    (s, if groupsFit e 1 then some (applyGroups e 1 (s.queue q).kept) else none)
  else
    let p := entryDword e 1
    if 2 ^ 48 ≤ p ∨ p % 256 ≠ 0 ∨ !groupsFit e 2 then (s, none)
    else match s.vaRead p 256 with
      | (s, .ok v) => (s, some (applyGroups e 2 (BitVec.ofNat 2048 v)))
      | (s, .error _) => (s, none)

/-- A launch as it is queued. -/
def newLaunch (id q : Nat) (x : BitVec 2048) : Launch :=
  { id := id, queue := q, slate := x, launchid := 0, phase := .queued, groups := none, clusters := [], held := [],
    walkers := [], restart := [], triggered := 0, retired := 0, early := false, started := [], finished := [],
    since := none, admitted := 0, deadline := none, savedAt := 0, savedHeld := [], saved := [] }

/-- Whether a queue takes no launch and no storyboard entry: it is disabled, boot is not over, or the package has halted
(R243, R366, R372). -/
def State.closed (s : State) (q : Nat) : Bool :=
  (s.queue q).disabled || s.sec.phase != .ready || s.sec.halted

/-- A launch entry reaches a launch queue: the status (R180, R241, R243). -/
def State.submitLaunch (s : State) (q : Nat) (e : Entry) : State × Nat :=
  let u := s.queue q
  if s.closed q then (s, 3)
  else if 64 ≤ u.launches.length then (s, 1)
  else match s.candidate q e with
    | (s, none) => (s, 2)
    | (s, some x) =>
      if slateMalformed x then (s, 2)
      else
        let id := s.sched.nextLaunch
        let s := s.setQueue q { s.queue q with kept := x, launches := (s.queue q).launches ++ [id] }
        let s := { s with sched := { s.sched with nextLaunch := id + 1 } }
        ((s.setLaunch (newLaunch id q x)).consider, 0)

/-! ## Group lists (R245, R246) -/

/-- Whether an entry alone is invalid for a slate. -/
def groupEntryInvalid (x : BitVec 2048) (e : BitVec 1280) : Bool :=
  recField e 144 0 128 != 0 || recField e 136 22 42 != 0 || recField e 128 37 27 != 0 || recField e 128 8 8 != 0 ||
  groupSize e % 64 != 0 || groupSize e < 64 || unitSize < groupSize e || groupOff e % 64 != 0 ||
  unitSize < groupOff e + groupSize e || (groupMembers e).isEmpty ||
  (groupMembers e).any (fun n => !(slCmask x).testBit (clusterOf n))

/-- The number of installed groups that name a core. -/
def State.groupsOf (s : State) (n : Nat) : Nat :=
  (s.groups.filter (fun (_, g) => recField g.entry 0 n 1 == 1)).length

/-- Whether a list is invalid at admission. -/
def State.groupsInvalid (s : State) (x : BitVec 2048) (gs : List (BitVec 1280)) : Bool :=
  gs.any (groupEntryInvalid x) || !(decide ((gs.map groupNumber).Nodup)) ||
  (List.range coreCount).any (fun n =>
    let k := (gs.filter (fun e => recField e 0 n 1 == 1)).length
    k != 0 && 4 < k + s.groupsOf n)

/-- Read the entries of a list, by number of entries. -/
def readGroups (va : Nat) : Nat → State → State × Except XFail (List (BitVec 1280))
  | 0, s => (s, .ok [])
  | k + 1, s =>
    match s.vaRead va 160 with
    | (s, .error e) => (s, .error e)
    | (s, .ok v) =>
      match readGroups (va + 160) k s with
      | (s, .error e) => (s, .error e)
      | (s, .ok gs) => (s, .ok (BitVec.ofNat 1280 v :: gs))

/-- The scheduler reads a launch's group list once (R246). -/
def groupListRead (s : State) (i : Nat) : State :=
  match s.launch i with
  | some l =>
    if l.phase = .queued ∧ slGcount l.slate ≠ 0 ∧ l.groups = none ∧ s.readyButGroups l then
      (match readGroups (slGlist l.slate) (slGcount l.slate) s with
        | (s, .error _) => s.abortLaunch l
        | (s, .ok gs) => (s.setLaunch { l with groups := some gs }).consider)
    else s
  | none => s

/-- GROUP_LIST_READ (R246). -/
def execGroupListRead (s : State) : Host.Outcome State Fault Refusal :=
  onMove (fun m s => match m with
    | .groupListRead l => some (groupListRead s l)
    | _ => none) s

/-! ## Admission (R249, R209) -/

/-- The core state in which a launch starts (R209). -/
def Core.launched (c : Core) (l : Launch) : Core :=
  let args := (List.range 16).map (fun i => (48 + i, BitVec.ofNat 64 (sl l.slate (128 + 8 * i) 0 64)))
  { Core.start with
    mode := .program, sup := c.sup, svEntry := c.svEntry, ceRate := c.ceRate, svCmds := c.svCmds, nextLent := c.nextLent,
    launch := some l.id,
    prog := { Ctx.start with
      s := args, pc := BitVec.ofNat 64 (sl l.slate 0 0 48), nextId := c.prog.nextId, racc := c.prog.racc,
      sr := [(SR.stipseed, BitVec.ofNat 64 (sl l.slate 96 0 64)), (SR.launchid, l.launchid)] } }

/-- The cores of clusters that can start. -/
def State.startable (s : State) (clusters : List Nat) : List Nat :=
  (clusters.flatMap coresOf).filter (fun n => !s.coreFenced n)

/-- Start cores of a launch. -/
def State.startCores (s : State) (l : Launch) (cores : List Nat) : State :=
  cores.foldl (fun s n => s.modCore n (fun c => c.launched l)) s

/-- The walkers of a launch over its participating clusters, of which some are taken. -/
def partition (x : BitVec 2048) (clusters taken : List Nat) : List Walker :=
  let n := slSteps x
  let g := slGrain x
  let u := (n + g - 1) / g
  let c := clusters.length
  if slOrdered x then [{ cluster := clusters.headD 0, owned := true, next := 0, stop := n }]
  else clusters.zipIdx.map (fun (k, w) =>
    { cluster := k, owned := taken.contains k, next := min n (g * (w * u / c)), stop := min n (g * ((w + 1) * u / c)) })

/-- Install groups. -/
def State.installGroups (s : State) (l : Nat) (gs : List Group) : State :=
  { s with groups := gs.foldl (fun m g => m.put (groupNumber g.entry) { g with launch := l }) s.groups }

/-- What admission and resumption leave in the scheduler: the queue served, the reservations gone. -/
def State.noteServed (s : State) (l : Launch) : State :=
  { s with sched := { s.sched with admissions := s.sched.admissions + 1,
                                   served := s.sched.served.put (s.effective l) l.queue,
                                   reserved := s.sched.reserved.filter (fun (_, r) => r != l.id) } }

/-- Admit a launch. -/
def State.startLaunch (s : State) (l : Launch) : State :=
  let clusters := s.usable l
  let taken := s.takable l
  let id := Config.launchId s.free
  let cores := s.startable taken
  let new : Launch :=
    { l with launchid := id, phase := .running, clusters := clusters, held := taken, walkers := partition l.slate clusters taken,
             started := cores, admitted := s.sched.admissions, since := none }
  let s := ({ s with free := s.free + 1 }).noteServed l
  let gs := (l.groups.getD []).map (fun e => (⟨e, l.id, [], 0, [], []⟩ : Group))
  (((s.installGroups l.id gs).setLaunch new).startCores new cores).consider

/-- Admit the launch that the scheduler chooses; an invalid group list aborts it (R246, R249). -/
def launchAdmission (s : State) (i : Nat) : State :=
  match s.chosen with
  | some l =>
    if l.id = i ∧ l.phase = .queued then
      (if (l.groups.any (s.groupsInvalid l.slate)) then s.abortLaunch l else s.startLaunch l)
    else s
  | none => s

/-- LAUNCH_ADMISSION (R249). -/
def execLaunchAdmission (s : State) : Host.Outcome State Fault Refusal :=
  onMove (fun m s => match m with
    | .launchAdmission l => some (launchAdmission s l)
    | _ => none) s

/-- Whether a running launch may take a cluster that has become free: it is not reserved by one that goes before it. -/
def State.mayJoin (s : State) (l : Launch) (k : Nat) : Bool :=
  l.phase == .running && l.clusters.contains k && !l.held.contains k && s.clusterFree k && !s.clusterFenced k &&
  (match (s.sched.reserved.find k).bind s.launch with
    | some r => s.effective r ≤ slPrio l.slate
    | none => true)

/-- A participating cluster joins a launch (R249). -/
def clusterJoin (s : State) (i k : Nat) : State :=
  match s.launch i with
  | some l =>
    if s.mayJoin l k then
      let cores := s.startable [k]
      let new := { l with
        held := (List.range 64).filter (fun c => l.held.contains c || c == k), started := l.started ++ cores,
        walkers := l.walkers.map (fun w => if w.cluster == k then { w with owned := true } else w) }
      ((s.setLaunch new).startCores new cores).consider
    else s
  | none => s

/-- CLUSTER_JOIN (R249). -/
def execClusterJoin (s : State) : Host.Outcome State Fault Refusal :=
  onMove (fun m s => match m with
    | .clusterJoin l k => some (clusterJoin s l k)
    | _ => none) s

/-! ## Steps (R250, R251) -/

/-- The STEP of a core that no walker has served. -/
def Ctx.openStep (x : Ctx) : Option Nat :=
  x.vars.findSome? (fun v => match v.kind with
    | .step _ none => some v.id
    | _ => none)

/-- A walker serves a core's STEP. The step that an earlier STEP has claimed since this one issued is retired first (R176,
R250). -/
def stepService (s : State) (n : Nat) : State :=
  let s := if (s.core n).prog.openStep.isSome && !s.coreFenced n && (s.core n).launch.any (fun i => (s.launch i).any (·.active))
    then s.retireStep n else s
  match (s.core n).prog.openStep, (s.core n).launch.bind s.launch with
  | some id, some l =>
    if l.active && !s.coreFenced n then
      let (l, r) := l.serve (clusterOf n)
      (s.setLaunch l).modCore n (fun c =>
        let vars := c.prog.vars.map (fun v => match v.kind with
          | .step d none => if v.id == id then { v with kind := .step d (some (r.map (·.1))) } else v
          | _ => v)
        { c with claim := r, prog := { c.prog with vars := vars } })
    else s
  | _, _ => s

/-- STEP_SERVICE (R250). -/
def execStepService (s : State) : Host.Outcome State Fault Refusal :=
  onMove (fun m s => match m with
    | .stepService n => some (stepService s n)
    | _ => none) s

/-! ## Triggers and completion (R253) -/

/-- Whether the early add is to be made: every index triggered, every walker empty. -/
def Launch.earlyDue (l : Launch) : Bool :=
  l.active && !l.early && l.triggered == slSteps l.slate && l.walkers.all (fun w => w.stop ≤ w.next)

/-- Make the early add. -/
def earlyAdd (s : State) (i : Nat) : State :=
  match s.launch i with
  | some l => if l.earlyDue then (s.setLaunch { l with early := true }).slateAdd l.slate 88 else s
  | none => s

/-- EARLY_TRIGGER_ADD (R253). -/
def execEarlyTriggerAdd (s : State) : Host.Outcome State Fault Refusal :=
  onMove (fun m s => match m with
    | .earlyTriggerAdd l => some (earlyAdd s l)
    | _ => none) s

/-- Whether a launch is complete: every index retired, every started core's part over. -/
def Launch.complete (l : Launch) : Bool :=
  l.active && l.retired == slSteps l.slate && l.started.all l.finished.contains

/-- Complete a launch: the early add comes first if it has not been made. -/
def launchCompletion (s : State) (i : Nat) : State :=
  match s.launch i with
  | some l =>
    if l.complete then
      let s := earlyAdd s i
      ((s.dropLaunch l).slateAdd l.slate 80).consider
    else s
  | none => s

/-- LAUNCH_COMPLETION (R253). -/
def execLaunchCompletion (s : State) : Host.Outcome State Fault Refusal :=
  onMove (fun m s => match m with
    | .launchCompletion l => some (launchCompletion s l)
    | _ => none) s

/-! ## Pre-emption (R257 to R259) -/

/-- PREEMPTION_DEADLINE_EXPIRY (R257). -/
def execPreemptionDeadlineExpiry (s : State) : Host.Outcome State Fault Refusal :=
  onMove (fun m s => match m with
    | .preemptionDeadlineExpiry i =>
      some (match s.launch i with
        | some l =>
          if l.phase = .stopping false ∧ l.deadline.any (· ≤ s.time) then
            (s.setLaunch { l with phase := .stopping true, deadline := none }).requestStop l.live true
          else s
        | none => s)
    | _ => none) s

/-- The cores of the positions of held clusters, in order (R258). -/
def positionCores (held : List Nat) : List Nat := held.flatMap coresOf

/-- Whether a core that is stopped saves part 0 alone (R259): it stopped at a step boundary of a STEPCLEAN launch. -/
def Core.savesClean (c : Core) (x : BitVec 2048) : Bool :=
  slStepclean x && (c.sup.spec SR.trapcause).toNat % 2 ^ 15 == 0x1300

/-- What is saved of each position that has started. -/
def State.savedPositions (s : State) (l : Launch) : List SavedPos :=
  ((positionCores l.held).zipIdx.filter (fun (n, _) => l.started.contains n)).map (fun (n, h) =>
    { pos := h, ended := l.finished.contains n, fenced := s.coreFenced n,
      clean := !l.finished.contains n && (s.core n).savesClean l.slate,
      steps := (s.core n).prog.vars.filter (fun v => match v.kind with
        | .step .. => true
        | _ => false) })

/-- The size of what is saved of a position (R259). -/
def SavedPos.size (p : SavedPos) : Nat :=
  if p.clean then partSize 0 else partSize 0 + partSize 1 + partSize 2 + unitSize

/-- The offset of the per-core part of a save area. -/
def saveCores : Nat := 0x15000

/-- The held cluster index of a walker's owner, or 0x7F (R258). ORDERED's one walker belongs to every cluster that has joined:
where the first that takes part has not, the index is that of the first held one. -/
def Launch.ownerIndex (l : Launch) (w : Walker) : Nat :=
  if !w.owned then 0x7F else if l.held.contains w.cluster then l.held.idxOf w.cluster else 0

/-- The record of a launch (R258). -/
def State.launchImage (s : State) (l : Launch) : Image :=
  let claims := ((positionCores l.held).zipIdx).filterMap (fun (n, h) => (s.core n).claim.bind (fun (i, t) =>
    if (s.core n).launch = some l.id then some (0x600 + 8 * h, 8, i + t.toNat * 2 ^ 62 + 2 ^ 63) else none))
  let groups := (l.groups.getD []).zipIdx.flatMap (fun (e, k) =>
    let o := 0x4600 + 4256 * k
    (o, 160, e.toNat) ::
      (match s.groups.find (groupNumber e) with
        | some g => ((positionCores l.held).zipIdx).map (fun (n, h) => (o + 160 + 4 * h, 4, (g.arrivals.look 0 n).toNat))
        | none => []))
  [(0, 256, l.slate.toNat), (0x100, 8, l.launchid.toNat), (0x108, 8, l.walkers.length + l.held.length * 2 ^ 8),
   (0x110, 8, l.triggered % 2 ^ 48 + l.early.toNat * 2 ^ 48), (0x118, 8, l.retired), (0x120, 8, l.restart.length)] ++
  (l.walkers.zipIdx.flatMap (fun (w, k) =>
    [(0x200 + 16 * k, 8, w.next),
     (0x208 + 16 * k, 8, w.stop % 2 ^ 48 + l.ownerIndex w % 2 ^ 7 * 2 ^ 56)])) ++
  claims ++ (l.restart.zipIdx.map (fun ((i, _), k) => (0x2600 + 8 * k, 8, i))) ++ groups

/-- Write an image over pieces that read as zero. -/
def State.imageOut (s : State) (ps : List (Nat × Nat × Nat)) (im : Image) : State :=
  im.foldl (fun s (o, n, v) => s.writePieces (subPieces ps o n) v) s

/-- Save a position from an offset on: its parts, and its unit scratchpad unless it saves part 0 alone. -/
def State.savePosition (s : State) (ps : List (Nat × Nat × Nat)) (n off : Nat) (p : SavedPos) : State :=
  let s := s.imageOut ps (Image.at_ (contextImage s n 0) off)
  if p.clean then s
  else
    let s := s.imageOut ps (Image.at_ (contextImage s n 1) (off + partSize 0))
    let s := s.imageOut ps (Image.at_ (contextImage s n 2) (off + partSize 0 + partSize 1))
    s.copyOut (unitKey n) unitSize (subPieces ps (off + partSize 0 + partSize 1 + partSize 2) unitSize)

/-- Save positions one after another. -/
def savePositions (held : List Nat) (ps : List (Nat × Nat × Nat)) : List SavedPos → Nat → State → State
  | [], _, s => s
  | p :: r, off, s =>
    savePositions held ps r (off + p.size) (s.savePosition ps ((positionCores held).getD p.pos 0) off p)

/-- Whether every core of a launch that is being pre-empted has stopped or exited, with no region on its way back to one of
them, for whose status the saved context has no place (R289). -/
def State.allStopped (s : State) (l : Launch) : Bool :=
  (match l.phase with
    | .stopping _ => true
    | _ => false) &&
  l.live.all (fun n => (s.core n).mode == .supervisor && (s.core n).stoppedByRequest &&
    (s.core n).lent.all (·.status.isNone))

/-- A launch is pre-empted: its record and contexts are saved, its groups are removed, its clusters are free. -/
def launchPreempted (s : State) (i : Nat) : State :=
  match s.launch i with
  | some l =>
    if s.allStopped l then
      let saved := s.savedPositions l
      let size := saveCores + (saved.map SavedPos.size).foldl (· + ·) 0
      let va := (s.queue l.queue).saveBase.toNat
      (match s.pieces va size true with
        | (s, .error _) => s
        | (s, .ok ps) =>
          let s := (s.clearPieces ps).imageOut ps (s.launchImage l)
          let s := savePositions l.held ps saved saveCores s
          let s := l.live.foldl State.dropParked s
          let new : Launch :=
            { l with phase := .preempted, deadline := none, savedAt := va, savedHeld := l.held, saved := saved, held := [],
                     started := [], finished := [], since := none }
          let s := { s.releaseCores l with groups := s.groups.filter (fun (_, g) => g.launch != l.id) }
          (s.setLaunch new).consider)
    else s
  | none => s

/-- LAUNCH_PREEMPTED (R258). -/
def execLaunchPreempted (s : State) : Host.Outcome State Fault Refusal :=
  onMove (fun m s => match m with
    | .launchPreempted l => some (launchPreempted s l)
    | _ => none) s

/-! ## Resumption (R260) -/

/-- Where a participating cluster of a launch lies after its resumption: a held one at the new cluster of its index; one that
has not joined where it lay, or, where that is a new cluster now, at a cluster that the launch has left. As many clusters
are left as are new, so no two lie at one. -/
def newCluster (l : Launch) (new : List Nat) (k : Nat) : Nat :=
  match l.savedHeld.idxOf? k with
  | some x => new.getD x k
  | none =>
    match ((l.clusters.filter (fun c => !l.savedHeld.contains c && new.contains c)).idxOf? k) with
    | some j => (l.savedHeld.filter (fun c => !new.contains c)).getD j k
    | none => k

/-- The walkers as the record holds them, with held cluster indices mapped to new clusters. -/
def readWalkers (rd : Nat → Nat → Nat) (l : Launch) (new : List Nat) : List Walker :=
  l.walkers.zipIdx.map (fun (w, k) =>
    let hi := rd (0x208 + 16 * k) 8
    let x := hi >>> 56 % 2 ^ 7
    { next := rd (0x200 + 16 * k) 8 % 2 ^ 48, stop := hi % 2 ^ 48, owned := x != 0x7F,
      cluster := if x = 0x7F then newCluster l new w.cluster else new.getD x (newCluster l new w.cluster) })

/-- A core's new number. -/
def newPlace (old new : List Nat) (n : Nat) : Nat :=
  match old.idxOf? (clusterOf n) with
  | some x => 16 * new.getD x 0 + n % 16
  | none => n

/-- A group of the record at its new place: the member mask and the arrival counts by core number. -/
def readGroup (rd : Nat → Nat → Nat) (l : Launch) (new : List Nat) (k : Nat) : Group :=
  let o := 0x4600 + 4256 * k
  let e := BitVec.ofNat 1280 (rd o 160)
  let ms := (groupMembers e).map (newPlace l.savedHeld new)
  let mask := ms.foldl (fun m n => m + 2 ^ n) 0
  let cores := positionCores new
  { entry := BitVec.ofNat 1280 (e.toNat / 2 ^ 1024 * 2 ^ 1024 + mask), launch := l.id, degraded := 0,
    arrivals := cores.zipIdx.foldl (fun m (n, h) => m.put n (BitVec.ofNat 32 (rd (o + 160 + 4 * h) 4))) [],
    left := (l.saved.filter (·.ended)).map (fun p => cores.getD p.pos 0),
    absent := (l.saved.filter (·.fenced)).map (fun p => cores.getD p.pos 0) }

/-- A resumed core: from the state of a launch start, its context is loaded part by part, and its scratchpad. One whose part
was over gets them too, so that its group windows read as before (R260), and runs nothing. A STEP that is saved with the
launch (R177) is awaited under a number of the new core's own. -/
def State.resumePosition (s : State) (l : Launch) (ps : List (Nat × Nat × Nat)) (n off : Nat) (p : SavedPos)
    (claim : Option (Nat × Bool)) : State :=
  let base := s.modCore n (fun c => c.launched l)
  let rd (o : Nat) : Nat → Nat → Nat := fun a k => s.readPieces (subPieces ps (off + o + a) k)
  let load (k o : Nat) (s : State) : State := (loadPart s n k (rd o)).getD s
  let s := load 0 0 base
  let s :=
    if p.clean then
      { s.modCore n (fun c => { c with ports := [] }) with mem := memClear s.mem (unitKey n) unitSize }
    else
      let s := load 2 (partSize 0 + partSize 1) (load 1 (partSize 0) s)
      s.copyIn (unitKey n) unitSize (subPieces ps (off + partSize 0 + partSize 1 + partSize 2) unitSize)
  s.modCore n (fun c =>
    let fl := c.sysBank.elim [] Bank.reinject
    { c with sysBank := none, reloaded := false, loadedBeats := none, claim := claim,
             mode := if p.ended then .exited else c.mode,
             prog := { c.prog with
               flight := fl, nextId := c.prog.nextId + p.steps.length,
               vars := c.prog.vars ++ p.steps.zipIdx.map (fun (v, i) => { v with id := c.prog.nextId + i }) } })

/-- A position whose new core is fenced: its claim joins the restart set, or fails (R255). -/
def State.lostPosition (s : State) (i n : Nat) (claim : Option (Nat × Bool)) : State :=
  match s.launch i, claim with
  | some l, some (j, t) =>
    if slRestartable l.slate then s.setLaunch { l with restart := insertIndex j t l.restart }
    else (s.modCore n (fun c => { c with launch := some i, claim := claim })).stepFailure n
  | _, _ => s

/-- Resume positions one after another, as long as the launch has not been aborted for a claim that is lost with its core
(R254 to R256). -/
def resumePositions (l : Launch) (new : List Nat) (ps : List (Nat × Nat × Nat)) : List SavedPos → Nat → State → State
  | [], _, s => s
  | p :: r, off, s =>
    if (s.launch l.id).isNone then s else
    let n := (positionCores new).getD p.pos 0
    let d := s.readPieces (subPieces ps (0x600 + 8 * p.pos) 8)
    let claim := if d >>> 63 % 2 = 1 then some (d % 2 ^ 48, d >>> 62 % 2 == 1) else none
    let s := if !s.coreFenced n then s.resumePosition l ps n off p claim
      else if p.ended then s
      else s.lostPosition l.id n claim
    resumePositions l new ps r (off + p.size) s

/-- Resume the pre-empted launch that the scheduler chooses on the lowest free clusters. -/
def State.resume (s : State) (l : Launch) : State :=
  let new := (s.takable l).take l.savedHeld.length
  let size := saveCores + (l.saved.map SavedPos.size).foldl (· + ·) 0
  match s.pieces l.savedAt size false with
  | (s, .error _) => s
  | (s, .ok ps) =>
    let rd (o n : Nat) : Nat := s.readPieces (subPieces ps o n)
    let flags := rd 0x110 8
    let cores := (l.saved.map (fun p => (positionCores new).getD p.pos 0))
    let over_ := (l.saved.filter (fun p => p.ended)).map (fun p => (positionCores new).getD p.pos 0)
    let lost := cores.filter s.coreFenced
    let walkers := readWalkers rd l new
    let restart := (List.range (min 1024 (rd 0x120 8))).map (fun k =>
      let i := rd (0x2600 + 8 * k) 8
      (i, l.restart.any (fun (j, t) => j == i && t)))
    let gs := (List.range (slGcount l.slate)).map (readGroup rd l new)
    let v : Launch :=
      { l with phase := .running, held := new, walkers := walkers, restart := restart,
               clusters := (List.range 64).filter (fun k => (l.clusters.map (newCluster l new)).contains k),
               triggered := flags % 2 ^ 48, early := flags >>> 48 % 2 == 1, retired := rd 0x118 8, started := cores,
               finished := (over_ ++ lost).dedup, since := none, admitted := s.sched.admissions, saved := [],
               groups := if slGcount l.slate = 0 then l.groups else some (gs.map (·.entry)) }
    let s := ((s.noteServed l).installGroups l.id gs).setLaunch v
    (resumePositions v new ps l.saved saveCores s).consider

/-- LAUNCH_RESUME (R260). -/
def execLaunchResume (s : State) : Host.Outcome State Fault Refusal :=
  onMove (fun m s => match m with
    | .launchResume i =>
      some (match s.chosen with
        | some l => if l.id = i ∧ l.phase = .preempted then s.resume l else s
        | none => s)
    | _ => none) s

/-- PRIORITY_AGEING (R261): the scheduler considers the ready launches at their effective priorities of now. -/
def execPriorityAgeing (s : State) : Host.Outcome State Fault Refusal :=
  onMove (fun m s => match m with
    | .priorityAgeing _ => some s.consider
    | _ => none) s

end Sys2Proof.Machine
end

