-- ==== Sys2Proof/Machine/Collective.lean ====
section
/-! DEFINITION. The collective sequencer (R293 to R316): storyboards, loads and runs, arming, entries, the handshake of
notices and pulls, room, the fixed tree, reductions, copies and deliveries, failures. The submissions of its queues are in
Machine/Queues.lean. -/

namespace Sys2Proof.Machine

open Sys2Proof.Num

/-! ## Entries (R298 to R301) -/

def eKind (e : BitVec 256) : Nat := eField e 0 61 3
def eDctr (e : BitVec 256) : Nat := eField e 0 29 12
def eLen (e : BitVec 256) : Nat := eField e 0 16 13
def eDfmt (e : BitVec 256) : Nat := eField e 0 12 4
def eRm (e : BitVec 256) : Nat := eField e 0 9 3
def eSat (e : BitVec 256) : Bool := eField e 0 8 1 == 1
def eDinc (e : BitVec 256) : Nat := eField e 0 0 8
def ePeer (e : BitVec 256) : Nat := eField e 1 16 16
def eKey (e : BitVec 256) : Nat := eField e 1 8 8
def eCidx (e : BitVec 256) : Nat := eField e 1 8 24
def eWfmt (e : BitVec 256) : Nat := eField e 1 4 4
def eOp (e : BitVec 256) : Nat := eField e 1 2 2
def eSrc (e : BitVec 256) : Nat := eField e 2 0 64
def eDst (e : BitVec 256) : Nat := eField e 3 0 64

/-- No peer. -/
def noPeer : Nat := 0xFFFF

/-- A field that may take a base-table slot (R298): its bit of dword 0, its dword, lowest bit and width. -/
structure SlotField where
  bit : Nat
  dw  : Nat
  lo  : Nat
  n   : Nat
  deriving DecidableEq, Repr

def sfWctr : SlotField := ⟨60, 0, 41, 12⟩
def sfWthr : SlotField := ⟨59, 1, 32, 32⟩
def sfPeer : SlotField := ⟨58, 1, 16, 16⟩
def sfSrc : SlotField := ⟨57, 2, 0, 64⟩
def sfDst : SlotField := ⟨56, 3, 0, 64⟩
def sfLen : SlotField := ⟨55, 0, 16, 13⟩
def sfDctr : SlotField := ⟨54, 0, 29, 12⟩
def sfDinc : SlotField := ⟨53, 0, 0, 8⟩

/-- The fields that may take a slot. -/
def slotFields : List SlotField := [sfWctr, sfWthr, sfPeer, sfSrc, sfDst, sfLen, sfDctr, sfDinc]

/-- Whether a field of an entry still stands for a slot. -/
def SlotField.open_ (f : SlotField) (e : BitVec 256) : Bool := eField e 0 f.bit 1 == 1

/-- The slot fields that a kind uses beside WCTR, WTHR, DCTR and DINC (R300). -/
def kindSlots (k : Nat) : List SlotField :=
  match k with
  | 0 => [sfPeer, sfLen, sfSrc]
  | 1 => [sfPeer, sfLen, sfDst]
  | 2 => [sfPeer, sfLen, sfSrc, sfDst]
  | 3 | 4 => [sfLen, sfSrc, sfDst]
  | _ => []

/-- The spaces of an entry's address (R300). -/
inductive ESpace where
  | device | chunk | bad
  deriving DecidableEq, Repr

/-- The end of the part of the chunk buffers that regions may use (R300). -/
def chunkTop : Nat := 0x3800000

/-- The space of an address of a region of `len` units, with the limits of R300. -/
def eSpace (a len : Nat) : ESpace :=
  if a % 256 ≠ 0 then .bad
  else if (a / 2 ^ 56 = 0x10 ∨ a / 2 ^ 56 = 0x11) ∧ a / 2 ^ 48 % 256 = 0 then .device
  else if a / 2 ^ 56 = 0x18 ∧ a / 2 ^ 26 % 2 ^ 30 = 0 ∧ a % 2 ^ 26 + 256 * len ≤ chunkTop then .chunk
  else .bad

/-- Whether a format code names an MX format. -/
def mxFmt (f : Nat) : Bool := f == 11 || f == 12

/-- Whether a WFMT is listed (R298). -/
def wfmtOk (f : Nat) : Bool := f == 0 || (8 ≤ f && f ≤ 12)

/-- Whether the formats and modes of an entry break R300, R301 or R310; an address that still stands for a slot is not
looked at. A raw source (WFMT 0) in device memory of a local copy into the chunk buffer, or of a reduce-into, counts as
malformed: DESIGN CHOICE (log 27), since the spec gives neither a meaning for it nor its refusal. -/
def formsBad (e : BitVec 256) (src dst : Option ESpace) : Bool :=
  let w := eWfmt e
  let d := eDfmt e
  match eKind e with
  | 0 => (src == some .chunk && w != 8) || eOp e != 0
  | 1 => w != 0 || eOp e != 0
  | 2 => (src == some .chunk && w != 8) || (src == some .device && w == 0) || dst == some .device || eOp e == 3
  | 3 => w != 0 || eOp e != 0 || src == some .device || dst == some .chunk
  | 4 =>
    eOp e != 0 || (src == some .chunk && w != 8) || (eSat e && d != 12) || eRm e == 6 ||
    (src == some .device && dst == some .device && (w != 0 || d != 0 || eRm e != 0 || eSat e)) ||
    (dst == some .chunk && (!(d == 8 || d == 0) || eRm e != 0 || eSat e || (src == some .device && w == 0))) ||
    (src == some .chunk && dst == some .device && !(8 ≤ d && d ≤ 12))
  | _ => w != 0 || eOp e != 0

/-- Whether an entry breaks the rules of R298 to R301 and R310. A field that stands for a slot keeps to R299, and the
limits of its value are tested at arming. -/
def entryBad (e : BitVec 256) : Bool :=
  let k := eKind e
  let uses := kindSlots k
  let known (f : SlotField) := uses.contains f && !f.open_ e
  let len := if known sfLen then eLen e else 1
  let space (f : SlotField) : Option ESpace := if known f then some (eSpace (eField e f.dw f.lo f.n) len) else none
  let src := space sfSrc
  let dst := space sfDst
  let zeroKeys := if k = 3 then false else if k = 4 ∨ k = 5 then eCidx e != 0 else false
  6 ≤ k || eField e 1 0 2 != 0 || !wfmtOk (eWfmt e) || zeroKeys ||
  (k != 4 && (eDfmt e != 0 || eRm e != 0 || eSat e)) ||
  slotFields.any (fun f => f.open_ e && 16 ≤ eField e f.dw f.lo f.n) ||
  [sfPeer, sfSrc, sfDst, sfLen].any (fun f => !uses.contains f &&
    (f.open_ e || (eField e f.dw f.lo f.n != 0 && !(k == 3 && f == sfPeer)))) ||
  (known sfLen && (eLen e == 0 || 4096 < eLen e)) ||
  (known sfLen && (mxFmt (eWfmt e) || mxFmt (eDfmt e)) && eLen e % 4 != 0) ||
  (known sfPeer && ePeer e != noPeer && 4096 ≤ ePeer e) ||
  src == some .bad || dst == some .bad || formsBad e src dst

/-- Put a field of an entry. -/
def ePut (e : BitVec 256) (dw lo n v : Nat) : BitVec 256 :=
  BitVec.ofNat 256 (e.toNat - eField e dw lo n <<< (64 * dw + lo) + v <<< (64 * dw + lo))

/-- One field takes its slot (R299); none when the value does not fit. -/
def substField (slots : List Nat) (e : BitVec 256) (f : SlotField) : Option (BitVec 256) :=
  if f.open_ e then
    let v := slots.getD (eField e f.dw f.lo f.n) 0
    let u := if f == sfLen then v / 256 else v
    if (f == sfLen && v % 256 != 0) || 2 ^ f.n ≤ u then none
    else some (ePut (ePut e f.dw f.lo f.n u) 0 f.bit 1 0)
  else some e

/-- An entry with its slots filled in; none for BTRANGE (R299). -/
def substEntry (slots : List Nat) (e : BitVec 256) : Option (BitVec 256) :=
  (slotFields.foldl (fun o f => o.bind (fun e => substField slots e f)) (some e)).bind (fun e =>
    if entryBad e then none else some e)

/-- The width in bytes of an element of a format. -/
def fmtBytes (f : Nat) : Nat :=
  match f with
  | 8 => 4
  | 9 | 10 => 2
  | _ => 1

/-- The bytes of a chunk of `len` units in a format (R301). -/
def wireBytes (len f : Nat) : Nat :=
  if f = 0 then 256 * len else 64 * len * fmtBytes f + if mxFmt f then 64 * len / 256 else 0

/-! ## Member tables and the fixed tree (R304, R307) -/

/-- A member of 4 bytes: pkgid and node; none when other bits are set. -/
def memberOf (w : Nat) : Option (Nat × Nat) :=
  if w / 2 ^ 12 % 16 ≠ 0 ∨ w / 2 ^ 28 % 16 ≠ 0 then none else some (w % 2 ^ 12, w / 2 ^ 16 % 2 ^ 12)

/-- Whether a member table breaks R304. -/
def membersBad (ms : List (Nat × Nat)) : Bool :=
  !decide ((ms.map Prod.fst).Nodup) || ms.any (fun m => 8 < (ms.filter (fun k => k.2 == m.2)).length)

/-- The nodes of a member table, ascending. -/
def memberNodes (ms : List (Nat × Nat)) : List Nat := (List.range 4096).filter (fun k => ms.any (fun m => m.2 == k))

/-- The members in leaf order. -/
def leafOrder (ms : List (Nat × Nat)) : List Nat :=
  (memberNodes ms).flatMap (fun k => (ms.filter (fun m => m.2 == k)).map Prod.fst)

/-- The leaf of a package. -/
def leafOf (ms : List (Nat × Nat)) (pkg : Nat) : Option Nat := (leafOrder ms).idxOf? pkg

/-- A subtree: its span and its inner nodes, each as the spans' bounds. -/
abbrev SubTree := Nat × Nat × List (Nat × Nat × Nat)

/-- Join two subtrees. -/
def joinTree (a b : SubTree) : SubTree := (a.1, b.2.1, a.2.2 ++ b.2.2 ++ [(a.1, a.2.1, b.2.1)])

/-- The inner nodes of the fixed tree (R233, R307): per node of the table, then over the node results. -/
def treeNodes (ms : List (Nat × Nat)) : List (Nat × Nat × Nat) :=
  let sizes := (memberNodes ms).map (fun k => (ms.filter (fun m => m.2 == k)).length)
  let step := fun (p : Nat × List SubTree) (k : Nat) =>
    (p.1 + k, p.2 ++ [tree joinTree (0, 0, []) 13 ((List.range k).map (fun i => (p.1 + i, p.1 + i + 1, [])))])
  let tops := (sizes.foldl step (0, [])).2
  if tops.isEmpty then [] else (tree joinTree (0, 0, []) 13 tops).2.2

/-! ## Chunk-buffer regions (R300, R305) -/

/-- The parts of a region outside a range. -/
def Region.without (r : Region) (off len : Nat) : List Region :=
  if r.off + r.len ≤ off ∨ off + len ≤ r.off then [r]
  else
    (if r.off < off then [{ r with len := off - r.off }] else []) ++
    (if off + len < r.off + r.len then [{ r with off := off + len, len := r.off + r.len - (off + len) }] else [])

/-- A range of the chunk buffers holds a span from now on; an empty span is none. -/
def State.putRegion (s : State) (off len lo hi : Nat) : State :=
  { s with coll := { s.coll with
    regions := s.coll.regions.flatMap (fun r => r.without off len) ++ if lo < hi then [⟨off, len, lo, hi⟩] else [] } }

/-- The span of a range: that of the regions that cover it whole, or the empty span. -/
def State.spanAt (s : State) (off len : Nat) : Nat × Nat :=
  let rs := s.coll.regions.filter (fun r => r.off < off + len && off < r.off + r.len)
  match rs with
  | [] => (0, 0)
  | r :: _ =>
    let covered := (rs.map (fun q => min (q.off + q.len) (off + len) - max q.off off)).foldl (· + ·) 0
    if covered = len ∧ rs.all (fun q => q.lo == r.lo && q.hi == r.hi) then (r.lo, r.hi) else (0, 0)

/-- Whether two ranges meet. -/
def meets (a n b m : Nat) : Bool := a < b + m && b < a + n

/-! ## Elements of chunks (R301, R305, R308, R310) -/

/-- The elements of a chunk in a wire format as f32, exact (R141). -/
def dequantised (len f v : Nat) : List Nat :=
  let e := 64 * len
  let w := 8 * fmtBytes f
  (List.range e).map (fun i =>
    let x := v >>> (w * i) % 2 ^ w
    if f = 8 then x
    else
      let code := if mxFmt f then v >>> (8 * (e + i / 256)) % 256 else 127
      (dequantise 8 (BitVec.ofNat 4 f) rne code x).1)

/-- Elements as the bytes of a chunk of f32. -/
def f32Bytes (xs : List Nat) : Nat := joinBits 32 xs

/-- How element `i` of a chunk rounds in a local copy (R310): in SR keyed with RUNSEQ, the element and the entry. -/
def copyRnd (rm seq entry : Nat) (sat : Bool) (i : Nat) : Rnd :=
  let m := if rm = 7 then 0 else rm
  ⟨m, if m = 5 then rnd16 (stipple 0 (BitVec.ofNat 64 seq) 0 i entry) else 0, sat⟩

/-- The 256 elements of a block and its code, with flags (R228). -/
def quantiseBlock (fmt : Nat) (rnd : Nat → Rnd) (base : Nat) (xs : List Nat) : List Nat × Nat × Nat :=
  let ty := BitVec.ofNat 4 fmt
  let emax := if fmt = 11 then targetEmax 0 else targetEmax 1
  let c := scaleCode emax (blockAmax f32 xs)
  let rs := xs.zipIdx.map (fun (x, i) => quantise ty 8 (rnd (base + i)) c x)
  (rs.map Prod.fst, c, orAll (rs.map Prod.snd))

/-- The bytes of f32 elements converted to a format, with flags (R310). -/
def converted (fmt : Nat) (rnd : Nat → Rnd) (xs : List Nat) : Nat × Nat :=
  if fmt = 8 then (f32Bytes xs, 0)
  else if mxFmt fmt then
    let blocks := (List.range (xs.length / 256)).map (fun b => quantiseBlock fmt rnd (256 * b) ((xs.drop (256 * b)).take 256))
    (joinBits 8 (blocks.flatMap (fun b => b.1) ++ blocks.map (fun b => b.2.1)), orAll (blocks.map (fun b => b.2.2)))
  else
    let rs := xs.zipIdx.map (fun (x, i) => convert (BitVec.ofNat 4 fmt) 8 (rnd i) x)
    (joinBits 16 (rs.map Prod.fst), orAll (rs.map Prod.snd))

/-- The combination of two operands (R308): the values and the flags. -/
def reduced (op : Nat) (ls rs : List Nat) : List Nat × Nat :=
  let vs := (ls.zip rs).map (fun (l, r) => if op = 0 then fadd f32 rne 0 (f32.val l) (f32.val r) else fminmax f32 (op == 1) l r)
  (vs.map Prod.fst, orAll (vs.map Prod.snd))

/-- Bytes as a little-endian number. -/
def ofBytes : List Byte → Nat
  | [] => 0
  | b :: bs => b.toNat + 256 * ofBytes bs

/-! ## Boards, runs and CQ_STATUS (R293 to R295, R313) -/

/-- A board. -/
def State.board (s : State) (b : Nat) : Board := s.coll.boards.look Board.start b

/-- Replace a board. -/
def State.setBoard (s : State) (b : Nat) (v : Board) : State :=
  { s with coll := { s.coll with boards := s.coll.boards.put b v } }

/-- A run. -/
def State.run (s : State) (i : Nat) : Option Run := s.coll.runs.find i

/-- Replace a run. -/
def State.setRun (s : State) (r : Run) : State := { s with coll := { s.coll with runs := s.coll.runs.put r.id r } }

/-- An entry of a run. -/
def State.entryOf (s : State) (i x : Nat) : Option (Run × EntryState) :=
  (s.run i).bind (fun r => (r.entries[x]?).map (fun e => (r, e)))

/-- Put the phase of an entry. -/
def State.setPhase (s : State) (i x : Nat) (p : EntryPhase) : State :=
  match s.entryOf i x with
  | some (r, e) => s.setRun { r with entries := r.entries.set x { e with phase := p } }
  | none => s

/-- Put a field of a queue's CQ_STATUS. -/
def State.cqPut (s : State) (q lo n v : Nat) : State :=
  let old := (s.coll.status.look 0 q).toNat
  let new := old - (old >>> lo % 2 ^ n) <<< lo + (v % 2 ^ n) <<< lo
  { s with coll := { s.coll with status := s.coll.status.put q (BitVec.ofNat 64 new) } }

/-- OR flags into CQ_STATUS. -/
def State.cqFlags (s : State) (q f : Nat) : State :=
  { s with coll := { s.coll with
    status := s.coll.status.put q (s.coll.status.look 0 q ||| BitVec.ofNat 64 (f % 64)) } }

/-- Whether a run is not complete. -/
def Run.live (r : Run) : Bool := r.phase != .completed

/-- Whether a run has begun to arm and is not complete. -/
def Run.active (r : Run) : Bool := r.live && (r.phase != .waiting || r.seq != 0)

/-- Whether a run is armed and not complete (R313: ACTIVE): its entries stand armed, or it has failed and its transfers
finish. A run whose base table's read is parked is not armed yet. -/
def Run.isArmed (r : Run) : Bool :=
  match r.phase with
  | .armed | .failed .. => true
  | _ => false

/-- ACTIVE of CQ_STATUS follows the runs of its queue. -/
def State.cqActive (s : State) (q : Nat) : State :=
  s.cqPut q 16 1 (s.coll.runs.any (fun (_, r) => r.queue == q && r.isArmed)).toNat

/-- The number of acceptance of a queue's entry. -/
def CollItem.id : CollItem → Nat
  | .load i _ _ _ => i
  | .run i => i

/-- Whether a load entry of a board, accepted before `i`, is held. -/
def State.loadBefore (s : State) (b i : Nat) : Bool :=
  s.sched.queues.any (fun (_, q) => q.items.any (fun it => match it with
    | .load j c _ _ => c == b && j < i
    | .run _ => false))

/-- Whether a load of a board is held. -/
def State.loadHeld (s : State) (b : Nat) : Bool := s.loadBefore b s.coll.nextRun

/-- Whether an entry of a collective queue can take effect (R294, R295): the queue's order, a load held before it in its
queue, the runs and the loads of its board accepted before it. -/
def State.itemReady (s : State) (q : Nat) (it : CollItem) : Bool :=
  let u := s.queue q
  let before := u.items.takeWhile (fun k => k.id != it.id)
  (if u.concurrent then before.all (fun k => match k with
    | .load .. => false
    | .run _ => true) else before.isEmpty) &&
  (match it with
    | .load i b _ _ => !s.loadBefore b i && s.coll.runs.all (fun (_, r) => !(r.board == b && r.live && r.id < i))
    | .run i => match s.run i with
      | some r => !s.loadBefore r.board i
      | none => false)

/-- A load takes effect: the board's contents are replaced, its RUNSEQ is 0, and its queue owns it (R294, R304). -/
def State.takeLoad (s : State) (q i b : Nat) (image : List (BitVec 256)) (members : List (Nat × Nat)) : State :=
  let u := s.queue q
  (s.setQueue q { u with items := u.items.filter (fun k => k.id != i) }).setBoard b
    { loaded := true, entries := image, members := members, runseq := 0, owner := some q, consumed := [] }

/-- The first held load that can take effect. -/
def State.nextLoad (s : State) : Option (Nat × Nat × Nat × List (BitVec 256) × List (Nat × Nat)) :=
  s.sched.queues.findSome? (fun (q, u) => u.items.findSome? (fun it => match it with
    | .load i b im ms => if s.itemReady q it then some (q, i, b, im, ms) else none
    | .run _ => none))

/-- Every load that can take effect does, by fuel. -/
def State.takeLoads (s : State) : Nat → State
  | 0 => s
  | k + 1 =>
    match s.nextLoad with
    | some (q, i, b, im, ms) => (s.takeLoad q i b im ms).takeLoads k
    | none => s

/-- Fuel for every entry that the collective queues may hold. -/
def heldLoads : Nat := 16 * 64

/-! ## The end of a run (R295, R313) -/

/-- Whether an entry has begun its transfer and not ended it. -/
def EntryState.transferring (e : EntryState) : Bool :=
  match e.phase with
  | .reading .. | .landing .. | .delivering _ | .moved => eKind e.entry != 0
  | .parked _ => eKind e.entry != 0
  | _ => false

/-- Whether a notice's record is posted and its source not yet read. -/
def EntryState.isPosted (e : EntryState) : Bool :=
  match e.phase with
  | .posted _ => true
  | .parked _ => eKind e.entry == 0
  | _ => false

/-- A run leaves its queue; it is kept while a notice of it is posted. -/
def State.leaveQueue (s : State) (r : Run) : State :=
  let u := s.queue r.queue
  let s := s.setQueue r.queue { u with items := u.items.filter (fun k => k.id != r.id) }
  if r.entries.any EntryState.isPosted then s.setRun { r with phase := .completed }
  else { s with coll := { s.coll with runs := s.coll.runs.drop r.id } }

/-- A run ends when its entries have: complete, or failed once its transfers under way have finished. -/
def State.settleRun (s : State) (i : Nat) : State :=
  match s.run i with
  | none => s
  | some r =>
    match r.phase with
    | .armed =>
      if r.entries.all (fun e => e.phase == .completed) then
        (((s.leaveQueue r).cqPut r.queue 17 1 0).cqActive r.queue).takeLoads heldLoads
      else s
    | .failed cls _ =>
      if r.entries.any EntryState.transferring then s
      else
        let s := ((s.leaveQueue r).cqPut r.queue 17 1 1).cqActive r.queue
        let s := s.queueRecord r.queue 5 cls false (s.coll.status.look 0 r.queue)
        (s.setQueue r.queue { s.queue r.queue with disabled := true }).takeLoads heldLoads
    | .completed =>
      if r.entries.any EntryState.isPosted then s else { s with coll := { s.coll with runs := s.coll.runs.drop i } }
    | _ => s

/-- What becomes of an entry when its run fails: what is transferring or posted stands, the rest is over. An entry that has
fired and not yet acted is over too: DESIGN CHOICE (log 27), since R313 names only those that wait for a notice or for
room. -/
def EntryState.onFailure (e : EntryState) : EntryState :=
  if e.transferring || e.isPosted || e.phase == .completed then e else { e with phase := .abandoned }

/-- A run fails with a class; the failing entry, if it is one, writes nothing more (R313). -/
def State.failRun (s : State) (i cls : Nat) (entry : Option Nat) : State :=
  match s.run i with
  | none => s
  | some r =>
    let s := match entry with
      | some x => s.setPhase i x .abandoned
      | none => s
    match s.run i, r.phase with
    | some r, .waiting | some r, .armed | some r, .armingParked _ =>
      let x := entry.getD 0
      let s := s.setRun { r with phase := .failed cls x, entries := r.entries.map EntryState.onFailure }
      ((s.cqPut r.queue 40 8 cls).cqPut r.queue 28 12 x).settleRun i
    | _, _ => s.settleRun i

/-! ## Room (R306) -/

/-- Whether an address of an entry lies in the chunk buffers. -/
def inChunk (a : Nat) : Bool := a / 2 ^ 56 == 0x18

/-- The offset of a chunk-buffer address. -/
def chunkOff (a : Nat) : Nat := a % 2 ^ 26

/-- Whether an entry reads a range of the chunk buffers as its source. -/
def sourceMeets (e : BitVec 256) (off len : Nat) : Bool :=
  eKind e != 1 && eKind e != 5 && inChunk (eSrc e) && meets (chunkOff (eSrc e)) (256 * eLen e) off len

/-- Whether an entry writes a range of the chunk buffers. -/
def destMeets (e : BitVec 256) (off len : Nat) : Bool :=
  (eKind e == 1 || eKind e == 2 || eKind e == 4) && inChunk (eDst e) && meets (chunkOff (eDst e)) (256 * eLen e) off len

/-- Whether an entry that has fired has yet to finish reading its source. -/
def EntryState.toRead (e : EntryState) : Bool :=
  match e.phase with
  | .armed | .moved | .completed | .abandoned => false
  | _ => true

/-- Whether an entry holds its room: it has taken it and has not finished writing. -/
def EntryState.holdsRoom (e : EntryState) : Bool :=
  match e.phase with
  | .reading .. | .landing .. => true
  | .parked _ => eKind e.entry == 4
  | _ => false

/-- Whether an entry that has fired has room still to take (R306): it waits for it, or is a local copy that has fired and
not been performed. -/
def EntryState.awaitsRoom (e : EntryState) : Bool :=
  match e.phase with
  | .waiting _ => true
  | .due => eKind e.entry == 4
  | _ => false

/-- The destination of entry `x` of run `i` is free: no other entry that has fired writes it or has yet to read it, and
none that fired earlier waits for it. Of two entries that write their own source, the one that fired first goes first. -/
def State.regionFree (s : State) (i x : Nat) (me : EntryState) (off len : Nat) : Bool :=
  s.coll.runs.all (fun (_, r) => r.entries.zipIdx.all (fun (e, y) =>
    (r.id == i && y == x) ||
    (let inPlace := destMeets e.entry (chunkOff (eSrc e.entry)) (256 * eLen e.entry) && !e.holdsRoom
     !(e.holdsRoom && destMeets e.entry off len) &&
     !(e.toRead && sourceMeets e.entry off len && !(inPlace && me.fired < e.fired)) &&
     !(e.awaitsRoom && e.fired < me.fired && destMeets e.entry off len))))

/-- Staging bytes that pulls into device memory hold. -/
def State.staged (s : State) : Nat :=
  (s.coll.runs.flatMap (fun (_, r) => r.entries.map (fun e =>
    if eKind e.entry == 1 && !inChunk (eDst e.entry) && e.holdsRoom then 256 * eLen e.entry else 0))).foldl (· + ·) 0

/-- Whether there is room for an entry that waits for it. -/
def State.roomFor (s : State) (i x : Nat) (e : EntryState) : Bool :=
  if inChunk (eDst e.entry) then s.regionFree i x e (chunkOff (eDst e.entry)) (256 * eLen e.entry)
  else s.staged + 256 * eLen e.entry ≤ 2 ^ 23

/-! ## Routes (R316) -/

/-- The coordinates of a pkgid. -/
def coordsOf (p : Nat) : List Nat := [p % 16, p / 16 % 16, p / 256 % 16]

/-- The own pkgid. -/
def State.self (s : State) : Nat := s.coll.pkgid.toNat

/-- The extents of the torus. -/
def State.extents (s : State) : List Nat := (coordsOf s.coll.dims.toNat).map (· + 1)

/-- Whether a pkgid lies outside the torus. -/
def State.outside (s : State) (p : Nat) : Bool := ((coordsOf p).zip s.extents).any (fun (c, d) => d ≤ c)

/-- The other port of a port's dimension. -/
def otherPort (port : Nat) : Nat := if port % 2 = 0 then port + 1 else port - 1

/-- The first dimension in which a package differs from this one, with the distance in the + direction and the extent. -/
def State.firstDim (s : State) (p : Nat) : Option (Nat × Nat × Nat) :=
  let steps := (((coordsOf p).zip (coordsOf s.self)).zip s.extents).map (fun ((c, o), d) => ((c + d - o % d) % d, d))
  (steps.findIdx? (fun (k, _) => k != 0)).map (fun j => (j, steps.getD j (0, 1)))

/-- The port by which a packet for a package leaves this one: in the shorter direction, reversed if so asked (R312); one
that came in by a port of the same dimension goes on in its direction. A fenced port is avoided; none when both are. -/
def State.hop (s : State) (p : Nat) (came : Option Nat) (reversed : Bool) : Option Nat :=
  match s.firstDim p with
  | none => none
  | some (j, k, d) =>
    let short := 2 * j + if 2 * k ≤ d then 0 else 1
    let port := match came with
      | some c => if c / 2 = j then otherPort c else short
      | none => if reversed then otherPort short else short
    let other := otherPort port
    if !s.err.ports.getLsbD port then some port
    else if !s.err.ports.getLsbD other then some other
    else none

/-- The port by which a packet of this package leaves it; none when both directions of the first dimension that differs are
fenced here. -/
def State.route (s : State) (p : Nat) : Option Nat := s.hop p none false

/-- Whether the hop by a port crosses the wrap link of its dimension, between the last coordinate and 0. -/
def State.wraps (s : State) (port : Nat) : Bool :=
  let d := s.extents.getD (port / 2) 1
  let o := (coordsOf s.self).getD (port / 2) 0 % d
  if port % 2 = 0 then o + 1 == d else o == 0

/-- The virtual channel of a packet after the hop by a port (R316): 0 or 2, for requests and responses; 1 or 3 from the
wrap link of a dimension on, to the end of that dimension. -/
def State.hopChannel (s : State) (channel : Nat) (came : Option Nat) (port : Nat) : Nat :=
  let base := if came.any (fun c => c / 2 == port / 2) then channel else channel / 2 * 2
  if s.wraps port then base / 2 * 2 + 1 else base

/-- Whether another package can be reached. -/
def State.reachable (s : State) (p : Nat) : Bool := p == s.self || (!s.outside p && (s.route p).isSome)

/-! ## The sending side of the links (R315, R316) -/

/-- A port's link. -/
def State.link (s : State) (p : Nat) : Link := s.coll.links.look Link.start p

/-- Replace a link. -/
def State.setLink (s : State) (p : Nat) (v : Link) : State :=
  { s with coll := { s.coll with links := s.coll.links.put p v } }

/-- The packets that a port's replay buffer holds. -/
def replayRoom : Nat := 1024

/-- Whether a port sends: it is up, and its replay buffer has room. -/
def Link.ready (l : Link) : Bool := !l.down && l.buffer.length < replayRoom

/-- A port sends a packet under its next sequence number and keeps it in the replay buffer. -/
def State.transmit (s : State) (p : Nat) (k : Packet) : State :=
  let l := s.link p
  (s.setLink p { l with buffer := l.buffer ++ [(l.next, k)], next := (l.next + 1) % 4096 }).send (.packet p l.next k)

/-- A packet is handed to a port: it is sent, or waits behind those that wait. -/
def State.handPort (s : State) (p : Nat) (k : Packet) : State :=
  let l := s.link p
  if l.ready && l.waiting.isEmpty then s.transmit p k else s.setLink p { l with waiting := l.waiting ++ [k] }

/-- The packets that wait at a port are sent as long as there is room, by fuel. -/
def State.drainPort (s : State) (p : Nat) : Nat → State
  | 0 => s
  | n + 1 =>
    let l := s.link p
    match l.waiting with
    | [] => s
    | k :: ks => if l.ready then ((s.setLink p { l with waiting := ks }).transmit p k).drainPort p n else s

/-- A packet goes on its way from this package (R316); one that cannot leave it is lost. -/
def State.forward (s : State) (k : Packet) (came : Option Nat) (reversed : Bool) : State :=
  match s.hop k.dst came reversed with
  | some p => s.handPort p { k with channel := s.hopChannel k.channel came p }
  | none => s

/-- Send a packet to another package: a request on channel 0, a response on channel 2. -/
def State.sendPacket (s : State) (peer : Nat) (response : Bool) (m : FabricMsg) (reversed : Bool := false) : State :=
  s.forward ⟨if response then 2 else 0, s.self, peer, m⟩ none reversed

/-- The other end has taken every flit before a sequence number: the replay buffer lets go of them (R315). -/
def flitAck (s : State) (p n : Nat) : State :=
  let l := s.link p
  if 6 ≤ p then s
  else if l.buffer.any (fun e => e.1 == n) || n == l.next then
    (s.setLink p { l with buffer := l.buffer.dropWhile (fun e => e.1 != n) }).drainPort p l.waiting.length
  else s

/-- The other end asks for a replay from a sequence number: it and everything after it is sent again (R315: go-back-N). -/
def flitReplay (s : State) (p n : Nat) : State :=
  let l := s.link p
  if 6 ≤ p ∨ l.down then s
  else (l.buffer.dropWhile (fun e => e.1 != n)).foldl (fun s e => s.send (.packet p e.1 e.2)) s

/-- A packet of two other packages passes through (R316). -/
def transit (s : State) (p : Nat) (k : Packet) : State := if 6 ≤ p then s else s.forward k (some p) false

/-- Fence a port (R316, R364): what it has not handed over travels in the other direction. A packet that has crossed the
wrap link of the dimension before keeps its channel for the rest of it; one that was to cross it by this port has not. -/
def State.fencePort (s : State) (p : Nat) : State :=
  let l := s.link p
  let s := { s with err := { s.err with ports := s.err.ports ||| BitVec.ofNat 6 (2 ^ p) } }
  let back (k : Packet) : Packet := if s.wraps p then { k with channel := k.channel / 2 * 2 } else k
  (l.buffer.map Prod.snd ++ l.waiting).foldl (fun s k => s.forward (back k) (some p) false)
    (s.setLink p { l with buffer := [], waiting := [] })

/-! ## Notices (R303, R304) -/

/-- Whether a record is that of a board, RUNSEQ, sender and KEY. -/
def NoticeRec.is (r : NoticeRec) (board seq sender key : Nat) : Bool :=
  r.board == board && r.runseq == seq && r.sender == sender && r.key == key

/-- A notice table. -/
def State.noticeTable (s : State) (port : Nat) : List Notice := s.coll.tables.look [] port

/-- Replace a notice table. -/
def State.setTable (s : State) (port : Nat) (t : List Notice) : State :=
  { s with coll := { s.coll with tables := s.coll.tables.put port t } }

/-- Every record held. -/
def State.notices (s : State) : List Notice := s.coll.tables.flatMap Prod.snd

/-- A record arrives at the table of a port, 6 for the own package's: whether it is taken or refused (R304). -/
def State.noticeArrives (s : State) (port : Nat) (r : NoticeRec) : State × Bool :=
  let dup := s.notices.any (fun n => n.r.is r.board r.runseq r.sender r.key) ||
    (s.board r.board).consumed.contains (r.runseq, r.sender, r.key)
  let armed := s.coll.runs.find? (fun (_, q) => q.board == r.board && q.seq == r.runseq && q.phase == .armed)
  match dup, armed with
  | true, some (i, _) => (s.failRun i 5 none, true)
  | _, _ =>
    let t := s.noticeTable port
    if 256 ≤ t.length then
      ({ s with coll := { s.coll with
        refused := s.coll.refused.put port (saturate32 (s.coll.refused.look 0 port + 1)) } }, false)
    else (s.setTable port (t ++ [⟨r, dup⟩]), true)

/-- The package clock in MHz by step (R373). -/
def clockMHz (step : Nat) : Nat := [2250, 2100, 1950, 1800, 1650, 1500, 1200, 900].getD step 900

/-- The time of a number of cycles in nanoseconds, at the clock step of now. -/
def State.cyclesNs (s : State) (c : Nat) : Nat := (c * 1000 + clockMHz s.pow.step - 1) / clockMHz s.pow.step

/-- A record of a notice has been refused for the `n`-th time: it is posted again after a backoff. -/
def State.backOff (s : State) (i x n : Nat) : State :=
  s.setPhase i x (.backoff n (s.time + s.cyclesNs (64 * 2 ^ min n 12)))

/-- The record of a notice entry. -/
def State.recordOf (s : State) (r : Run) (e : BitVec 256) : NoticeRec :=
  let span := if inChunk (eSrc e) then s.spanAt (chunkOff (eSrc e)) (256 * eLen e) else (0, 0)
  { board := r.board, runseq := r.seq, key := eKey e, sender := s.self, len := eLen e, wfmt := eWfmt e,
    addrA := BitVec.ofNat 64 (eSrc e), spanLo := span.1, spanHi := span.2 }

/-- Post a notice's record that has been refused `n` times. -/
def State.postNotice (s : State) (i x n : Nat) : State :=
  match s.entryOf i x with
  | none => s
  | some (r, e) =>
    let p := ePeer e.entry
    let rec_ := s.recordOf r e.entry
    if !s.reachable p then s.failRun i 8 (some x)
    else if p = s.self then
      match (s.setPhase i x (.posted n)).noticeArrives 6 rec_ with
      | (s, true) => s
      | (s, false) => s.backOff i x (n + 1)
    else (s.setPhase i x (.posted n)).sendPacket p false (.notice rec_)

/-! ## Parking of the sequencer's requests (R326, R328) -/

/-- Park a request of an entry; what it does with the identity, when there is one. -/
def State.parkEntry (s : State) (i x : Nat) (space : Nat) (write : Bool) (f : XFail) (board : Nat)
    (k : State → BitVec 16 → State) : State :=
  match s.park (f.request .sequencer i space write 0 (BitVec.ofNat 64 (board + x * 2 ^ 16))) with
  | (s, some id) => k s id
  | (s, none) => s

/-! ## Local copies and deliveries (R310, R311) -/

/-- The own leaf's span on a board; empty without a member table or outside it. -/
def State.ownSpan (s : State) (b : Nat) : Nat × Nat :=
  match leafOf (s.board b).members s.self with
  | some l => (l, l + 1)
  | none => (0, 0)

/-- Whether a span is the whole tree of a board. -/
def State.wholeTree (s : State) (b : Nat) (sp : Nat × Nat) : Bool :=
  sp.1 == 0 && sp.2 != 0 && sp.2 == (s.board b).members.length

/-- Perform a local copy (R310). -/
def State.localCopy (s : State) (i x : Nat) : State :=
  match s.entryOf i x with
  | none => s
  | some (r, e) =>
    let n := eLen e.entry
    let src := eSrc e.entry
    let dst := eDst e.entry
    let park (s : State) (a : Nat) (w : Bool) (f : XFail) :=
      s.parkEntry i x (a / 2 ^ 56) w f r.board (fun s id => s.setPhase i x (.parked id))
    let bytes := wireBytes n (if inChunk dst then eWfmt e.entry else 0)
    let (s, got) : State × Except XFail Nat :=
      if inChunk src then (s, .ok (s.read (chunkKey + chunkOff src) (256 * n))) else s.vaRead (src % 2 ^ 48) bytes
    match got with
    | .error f => park s src false f
    | .ok v =>
      if inChunk dst then
        let xs := if inChunk src then v else f32Bytes (dequantised n (eWfmt e.entry) v)
        let sp := if inChunk src then s.spanAt (chunkOff src) (256 * n) else s.ownSpan r.board
        ((s.write (chunkKey + chunkOff dst) (256 * n) xs).putRegion (chunkOff dst) (256 * n) sp.1 sp.2).setPhase i x .moved
      else
        let f := eDfmt e.entry
        if inChunk src && f != 8 && !s.wholeTree r.board (s.spanAt (chunkOff src) (256 * n)) then s.failRun i 4 (some x)
        else
          let (out, fl) := if inChunk src then
              converted f (copyRnd (eRm e.entry) r.seq x (eSat e.entry)) (dequantised n 8 v) else (v, 0)
          let size := if inChunk src then wireBytes n f else bytes
          match s.vaWrite (dst % 2 ^ 48) size out with
          | (s, .error f) => park s dst true f
          | (s, .ok ()) => (s.cqFlags r.queue fl).setPhase i x .moved

/-- Hand a region to the skim engines (R311). -/
def State.deliver (s : State) (i x : Nat) : State :=
  match s.entryOf i x with
  | none => s
  | some (r, e) =>
    let n := eLen e.entry
    let off := chunkOff (eSrc e.entry)
    if !s.wholeTree r.board (s.spanAt off (256 * n)) then s.failRun i 4 (some x)
    else match s.vaRead (eDst e.entry % 2 ^ 48) 128 with
      | (s, .error f) =>
        s.parkEntry i x (eDst e.entry / 2 ^ 56) false f r.board (fun s id => s.setPhase i x (.parked id))
      | (s, .ok v) =>
        let k := BitVec.ofNat 1024 v
        let first := eCidx e.entry * (64 * n)
        if skimMalformed k || !skStream k || skCount k < first + 64 * n ||
            (skWkind k == 2 && (first % (16 * skCols k) != 0 || 64 * n % (16 * skCols k) != 0)) then
          s.failRun i 0xA (some x)
        else (s.addSkim k (some (i, x, first, 64 * n, off)) [] 0).setPhase i x (.delivering s.skim.next)

/-! ## Firing (R296) -/

/-- An entry that is due fires. -/
def entryFire (s : State) (i x : Nat) : State :=
  match s.entryOf i x with
  | none => s
  | some (r, e) =>
    if r.phase ≠ .armed ∨ e.phase ≠ .due then s
    else
      let lost := ePeer e.entry != s.self && s.outside (ePeer e.entry)
      match eKind e.entry with
      | 0 => if lost then s.failRun i 8 (some x) else s.postNotice i x 0
      | 1 | 2 => if lost then s.failRun i 8 (some x) else s.setPhase i x .matching
      | 3 => s.deliver i x
      | 4 =>
        if inChunk (eDst e.entry) && !s.roomFor i x e then s.setPhase i x (.waiting none) else s.localCopy i x
      | _ => s.setPhase i x .moved

/-- ENTRY_FIRE (R296). -/
def execEntryFire (s : State) : Host.Outcome State Fault Refusal :=
  onMove (fun m s => match m with
    | .entryFire i x => some (entryFire s i x)
    | _ => none) s

/-! ## Completion of entries (R297, R303) -/

/-- An entry whose transfer is made completes: its add, and the end of its run, if it was the last. -/
def State.finishEntry (s : State) (i x : Nat) : State :=
  match s.entryOf i x with
  | none => s
  | some (r, e) =>
    let s := s.setPhase i x .completed
    let s := if r.phase = .armed then s.addCounter (eDctr e.entry) (BitVec.ofNat 64 (eDinc e.entry)) else s
    s.settleRun i

/-- ENTRY_COMPLETE (R297). -/
def execEntryComplete (s : State) : Host.Outcome State Fault Refusal :=
  onMove (fun m s => match m with
    | .entryComplete i x =>
      some (match s.entryOf i x with
        | some (_, e) => if e.phase = .moved ∧ eKind e.entry ≠ 0 then s.finishEntry i x else s
        | none => s)
    | _ => none) s

/-- NOTICE_COMPLETE (R303): the peer has finished reading the source. -/
def execNoticeComplete (s : State) : Host.Outcome State Fault Refusal :=
  onMove (fun m s => match m with
    | .noticeComplete i x =>
      some (match s.entryOf i x with
        | some (_, e) =>
          (match e.phase with
            | .moved => if eKind e.entry = 0 then s.finishEntry i x else s
            | .posted _ => if ePeer e.entry ≠ s.self then s.finishEntry i x else s
            | _ => s)
        | none => s)
    | _ => none) s

/-- NOTICE_RECEIVE (R304). -/
def execNoticeReceive (s : State) : Host.Outcome State Fault Refusal :=
  onMove (fun m s => match m with
    | .noticeReceive port r =>
      some (if 6 ≤ port ∨ 64 ≤ r.board then s
        else match s.noticeArrives port r with
          | (s, true) => s
          | (s, false) => s.sendPacket r.sender true (.noticeRefused r))
    | _ => none) s

/-- NOTICE_REPOST (R304). -/
def execNoticeRepost (s : State) : Host.Outcome State Fault Refusal :=
  onMove (fun m s => match m with
    | .noticeRepost i x =>
      some (match s.entryOf i x with
        | some (r, e) =>
          (match e.phase with
            | .backoff n t => if t ≤ s.time ∧ r.phase = .armed then s.postNotice i x n else s
            | _ => s)
        | none => s)
    | _ => none) s

/-! ## Pulls and reductions (R305, R308, R312) -/

/-- A notice of this package whose record a local entry has read, or has met with another length. -/
def State.ownNotice (s : State) (r : NoticeRec) : Option (Nat × Nat) :=
  s.coll.runs.findSome? (fun (i, q) =>
    if q.board == r.board && q.seq == r.runseq && r.sender == s.self then
      (q.entries.zipIdx.find? (fun (e, _) => eKind e.entry == 0 && eKey e.entry == r.key && e.isPosted &&
        ePeer e.entry == s.self)).map (fun (_, x) => (i, x))
    else none)

/-- An entry that waits for a record takes it (R305). -/
def pullMatch (s : State) (i x : Nat) : State :=
  match s.entryOf i x with
  | none => s
  | some (r, e) =>
    if e.phase ≠ .matching then s
    else
      let good (n : Notice) : Bool := !n.dup && n.r.is r.board r.seq (ePeer e.entry) (eKey e.entry)
      match s.coll.tables.findSome? (fun (p, t) => (t.find? good).map (fun n => (p, n))) with
      | none => s
      | some (p, n) =>
        let s := s.setTable p ((s.noticeTable p).filter (fun m => m != n))
        let b := s.board r.board
        let s := s.setBoard r.board { b with consumed := b.consumed ++ [(n.r.runseq, n.r.sender, n.r.key)] }
        if n.r.len ≠ eLen e.entry then
          let s := match s.ownNotice n.r with
            | some (j, y) => s.failRun j 3 (some y)
            | none => s.sendPacket n.r.sender true (.noticeLength n.r)
          s.failRun i 3 (some x)
        else if inChunk (eDst e.entry) && n.r.wfmt == 0 then s.failRun i 3 (some x)
        else s.setPhase i x (.waiting (some n.r))

/-- PULL_NOTICE_MATCH (R305). -/
def execPullNoticeMatch (s : State) : Host.Outcome State Fault Refusal :=
  onMove (fun m s => match m with
    | .pullNoticeMatch i x => some (pullMatch s i x)
    | _ => none) s

/-- Ask for a sender's source; once more when it is checked, with the direction of the first dimension reversed (R305,
R312). -/
def State.askFor (s : State) (r : NoticeRec) (checked : Bool) : State :=
  if r.sender = s.self then s
  else
    let n := wireBytes r.len r.wfmt
    let s := s.sendPacket r.sender false (.pull r.addrA n false)
    if checked then s.sendPacket r.sender false (.pull r.addrA n true) true else s

/-- An entry that waits for room takes it, and issues its read or makes its copy (R306). A reduce-into takes its number
(R312) here, so that one that fails before it has none: DESIGN CHOICE (log 27), since R312 does not say when. -/
def roomAcquire (s : State) (i x : Nat) : State :=
  match s.entryOf i x with
  | none => s
  | some (r, e) =>
    match e.phase with
    | .waiting none => if r.phase = .armed ∧ s.roomFor i x e then s.localCopy i x else s
    | .waiting (some n) =>
      if r.phase ≠ .armed ∨ !s.roomFor i x e then s
      else if !s.reachable n.sender then s.failRun i 8 (some x)
      else if eKind e.entry = 2 then
        let k := s.coll.reduces
        let checked := s.coll.checkEn && k % 2 ^ s.coll.checkK == 0
        let s := { s with coll := { s.coll with reduces := k + 1 } }
        (s.setPhase i x (.reading n checked false)).askFor n checked
      else (s.setPhase i x (.reading n false false)).askFor n false
    | _ => s

/-- ROOM_ACQUIRE (R306). -/
def execRoomAcquire (s : State) : Host.Outcome State Fault Refusal :=
  onMove (fun m s => match m with
    | .roomAcquire i x => some (roomAcquire s i x)
    | _ => none) s

/-- The span of a record (R305): the region's, or the sender's leaf when the source is device memory. -/
def State.recordSpan (s : State) (r : NoticeRec) : Nat × Nat :=
  if inChunk r.addrA.toNat then (r.spanLo, r.spanHi)
  else match leafOf (s.board r.board).members r.sender with
    | some l => (l, l + 1)
    | none => (0, 0)

/-- The working ALUs 0 to 7. -/
def State.workingAlus (s : State) : List Nat := (List.range 8).filter (fun a => !s.err.alus.getLsbD a)

/-- The ALU on which a check recomputes: 8, or the lowest other one that works (R312). -/
def State.checkAlu (s : State) (first : Nat) : Option Nat :=
  if !s.err.alus.getLsbD 8 then some 8 else s.workingAlus.find? (· != first)

/-- Fence an ALU that a check has caught (R312, R361). -/
def State.fenceAlu (s : State) (a : Nat) : State :=
  let (s, cnt, lasting) := s.classify 0x26 .alu a
  let s := { s with err := { s.err with alus := s.err.alus ||| BitVec.ofNat 9 (2 ^ a) } }
  s.errorRecord 0x26 .alu a 0 cnt 3 lasting

/-- Combine the operands of a reduce-into and write the result (R308, R312): `v` and `w` are the remote operand and what
the check fetched. -/
def State.reduceInto (s : State) (i x : Nat) (n : NoticeRec) (checked again : Bool) (data second : List Byte) (local_ : Nat) :
    State :=
  match s.entryOf i x with
  | none => s
  | some (r, e) =>
    let len := eLen e.entry
    let b := s.board r.board
    let mine := if inChunk (eSrc e.entry) then s.spanAt (chunkOff (eSrc e.entry)) (256 * len) else s.ownSpan r.board
    let theirs := s.recordSpan n
    let own := dequantised len (if inChunk (eSrc e.entry) then 8 else eWfmt e.entry) local_
    let lower := mine.1 < theirs.1
    let (lo, mid, hi) := if lower then (mine.1, mine.2, theirs.2) else (theirs.1, theirs.2, mine.2)
    let joined := (if lower then mine.2 == theirs.1 else theirs.2 == mine.1) && (treeNodes b.members).contains (lo, mid, hi)
    let alus := s.workingAlus
    if alus.isEmpty then s.failRun i 6 (some x)
    else if b.members.isEmpty || (leafOf b.members s.self).isNone || !joined then s.failRun i 4 (some x)
    else
      let pick := alus.getD (Config.staleChoice s.free % max 1 alus.length) 0
      let s := { s with free := s.free + 1 }
      let result (d : List Byte) : List Nat × Nat :=
        let them := dequantised len n.wfmt (ofBytes d)
        if lower then reduced (eOp e.entry) own them else reduced (eOp e.entry) them own
      if checked && (s.checkAlu pick).isNone then s.failRun i 6 (some x)
      else if checked && (result data).1 != (result second).1 then
        if again then (s.fenceAlu pick).failRun i 6 (some x)
        else (s.setPhase i x (.reading n true true)).askFor n true
      else
        let (out, fl) := result data
        let off := chunkOff (eDst e.entry)
        let s := (s.write (chunkKey + off) (256 * len) (f32Bytes out)).putRegion off (256 * len) lo hi
        (s.cqFlags r.queue fl).setPhase i x .moved

/-- The data of a pull or a reduce-into are here: the destination is written, or a translation parks. -/
def State.landData (s : State) (i x : Nat) (n : NoticeRec) (checked again : Bool) (data second : List Byte) : State :=
  match s.entryOf i x with
  | none => s
  | some (r, e) =>
    let len := eLen e.entry
    let park (s : State) (a : Nat) (w : Bool) (f : XFail) :=
      s.parkEntry i x (a / 2 ^ 56) w f r.board (fun s id => s.setPhase i x (.landing n checked again data second id))
    if eKind e.entry = 2 then
      let src := eSrc e.entry
      if inChunk src then s.reduceInto i x n checked again data second (s.read (chunkKey + chunkOff src) (256 * len))
      else match s.vaRead (src % 2 ^ 48) (wireBytes len (eWfmt e.entry)) with
        | (s, .error f) => park s src false f
        | (s, .ok v) => s.reduceInto i x n checked again data second v
    else if inChunk (eDst e.entry) then
      let off := chunkOff (eDst e.entry)
      let sp := s.recordSpan n
      let s := s.write (chunkKey + off) (256 * len) (f32Bytes (dequantised len n.wfmt (ofBytes data)))
      (s.putRegion off (256 * len) sp.1 sp.2).setPhase i x .moved
    else match s.vaWrite (eDst e.entry % 2 ^ 48) (wireBytes len n.wfmt) (ofBytes data) with
      | (s, .error f) => park s (eDst e.entry) true f
      | (s, .ok ()) => s.setPhase i x .moved

/-- Bytes of a number, least significant first. -/
def toBytes (n v : Nat) : List Byte := (List.range n).map (fun i => BitVec.ofNat 8 (v >>> (8 * i)))

/-- A source of this package's as a record names it. -/
def State.readSource (s : State) (a n : Nat) : State × Except XFail Nat :=
  if inChunk a then (s, .ok (s.read (chunkKey + chunkOff a) n)) else s.vaRead (a % 2 ^ 48) n

/-- A notice whose source did not translate parks (R303, R326). -/
def State.parkNotice (s : State) (i x : Nat) (f : XFail) : State :=
  match s.entryOf i x with
  | some (r, e) =>
    s.parkEntry i x (eSrc e.entry / 2 ^ 56) false f r.board (fun s id => s.setPhase i x (.parked id))
  | none => s

/-- The sender's data arrive (R305): from another package as the move gives them, from this one as its memory holds them.
A source of this package that does not translate parks its notice. -/
def pullArrives (s : State) (i x : Nat) (data second : List Byte) : State :=
  match s.entryOf i x with
  | none => s
  | some (_, e) =>
    match e.phase with
    | .reading n checked again =>
      let k := wireBytes n.len n.wfmt
      if n.sender ≠ s.self then
        let fit (d : List Byte) := d.take k ++ List.replicate (k - d.length) 0
        s.landData i x n checked again (fit data) (fit second)
      else
        (match s.ownNotice n with
          | some (j, y) =>
            (match s.entryOf j y with
              | some (_, src) =>
                if src.phase = .moved then s
                else match src.phase, s.readSource n.addrA.toNat k with
                  | .parked _, _ => s
                  | _, (s, .error f) => s.parkNotice j y f
                  | _, (s, .ok v) => (s.setPhase j y .moved).landData i x n checked again (toBytes k v) (toBytes k v)
              | none => s)
          | none =>
            (match s.readSource n.addrA.toNat k with
              | (s, .ok v) => s.landData i x n checked again (toBytes k v) (toBytes k v)
              | (s, .error _) => s))
    | _ => s

/-- PULL_DATA_ARRIVAL (R305). -/
def execPullDataArrival (s : State) : Host.Outcome State Fault Refusal :=
  onMove (fun m s => match m with
    | .pullDataArrival i x d a => some (pullArrives s i x d a)
    | _ => none) s

/-! ## Accesses of other packages (R304, R305, R316 to R319, R326) -/

/-- The notice whose source another package reads. -/
def State.noticeOf (s : State) (q : FabricReq) : Option (Nat × Nat) :=
  s.coll.runs.findSome? (fun (i, r) =>
    (r.entries.zipIdx.find? (fun (e, _) => eKind e.entry == 0 && e.isPosted && ePeer e.entry == q.peer &&
      eSrc e.entry == q.space * 2 ^ 56 + q.addr)).map (fun (_, x) => (i, x)))

/-- Whether a notice is parked. -/
def State.noticeParked (s : State) (i x : Nat) : Bool :=
  match s.entryOf i x with
  | some (_, e) => eKind e.entry == 0 && (match e.phase with
      | .parked _ => true
      | _ => false)
  | none => false

/-- Keep an access of another package until it can be made. -/
def State.holdFabric (s : State) (id : Nat) (q : FabricReq) : State :=
  { s with coll := { s.coll with fabric := s.coll.fabric.put id q } }

/-- Whether an access that is kept waits for the settling of a parked request: its own, or its notice's. -/
def State.fabricParked (s : State) (id : Nat) (q : FabricReq) : Bool :=
  s.xl.parked.any (fun p => p.2.kind == .fabric && p.2.ident == id) ||
  (q.data.isNone && (s.noticeOf q).any (fun n => s.noticeParked n.1 n.2))

/-- An access of another package whose translation fails parks, and is kept. -/
def State.parkFabric (s : State) (id : Nat) (q : FabricReq) (f : XFail) : State :=
  ((s.holdFabric id q).park (f.request .fabric id q.space q.data.isSome 0 0)).1

/-- An access of another package is made (R316 to R319): of a pull's source, or of one side of a copy. A translation that
fails parks the notice that named the address, and without one the access itself; the access is kept until it can be
answered (R329). The answer takes the ordinary route, that to a second fetch (R312) too: DESIGN CHOICE (log 27), since R312
reverses the direction of the fetch and does not speak of the data that answer it. -/
def State.fabricAccess (s : State) (id : Nat) (q : FabricReq) : State :=
  let s := { s with coll := { s.coll with fabric := s.coll.fabric.drop id } }
  match q.data with
  | some d =>
    (match s.vaWrite (q.addr % 2 ^ 48) d.length (ofBytes d) with
      | (s, .ok ()) => s.sendPacket q.peer true .written
      | (s, .error f) => s.parkFabric id q f)
  | none =>
    if q.space = 0x18 then s.sendPacket q.peer true (.data (toBytes q.count (s.read (chunkKey + q.addr % 2 ^ 26) q.count)))
    else match s.vaRead (q.addr % 2 ^ 48) q.count with
      | (s, .ok v) => s.sendPacket q.peer true (.data (toBytes q.count v))
      | (s, .error f) =>
        match s.noticeOf q with
        | some (i, x) =>
          let s := s.holdFabric id q
          if s.noticeParked i x then s else s.parkNotice i x f
        | none => s.parkFabric id q f

/-- Another package's access reaches this one. -/
def fabricArrives (s : State) (q : FabricReq) : State :=
  { s with coll := { s.coll with nextFabric := s.coll.nextFabric + 1 } }.fabricAccess s.coll.nextFabric q

/-- The accesses that are kept and wait for no parked request are made: one whose request has been settled, and one that
found no room to park (R329). -/
def State.retryFabric (s : State) : State :=
  s.coll.fabric.foldl (fun s p => if s.fabricParked p.1 p.2 then s else s.fabricAccess p.1 p.2) s

/-- A kept access of another package is answered as failed. -/
def State.abortFabric (s : State) (id : Nat) : State :=
  match s.coll.fabric.find id with
  | some q => { s with coll := { s.coll with fabric := s.coll.fabric.drop id } }.sendPacket q.peer true .failed
  | none => s

/-- The entry of this package that reads the source of a notice of its own. -/
def State.readerOf (s : State) (n : Nat × Nat) : Option (Nat × Nat) :=
  s.coll.runs.findSome? (fun (i, r) =>
    (r.entries.zipIdx.find? (fun (e, _) => match e.phase with
      | .reading k _ _ => s.ownNotice k == some n
      | _ => false)).map (fun (_, x) => (i, x)))

/-- A parked notice is posted again, and an entry of this package that reads its source retranslates; the accesses of
another package follow (`retryFabric`). -/
def State.resumeNotice (s : State) (i x : Nat) : State :=
  let s := s.setPhase i x (.posted 0)
  match s.readerOf (i, x) with
  | some (j, y) => pullArrives s j y [] []
  | none => s

/-- The reads of a parked notice's source end as failed: those of another package are answered so, and the run of an entry
of this package that reads it fails with class XLATE. -/
def State.abortNotice (s : State) (i x : Nat) : State :=
  let mine (s : State) (q : FabricReq) : Bool := q.data.isNone && s.noticeOf q == some (i, x)
  let s := s.coll.fabric.foldl (fun s p => if mine s p.2 then s.abortFabric p.1 else s) s
  match s.readerOf (i, x) with
  | some (j, y) => s.failRun j 9 (some y)
  | none => s

/-- Another package answers that the read of an entry's source failed: the entry's run fails with class XLATE. -/
def pullFailed (s : State) (i x : Nat) : State :=
  match s.entryOf i x with
  | some (_, e) =>
    (match e.phase with
      | .reading n _ _ => if n.sender = s.self then s else s.failRun i 9 (some x)
      | _ => s)
  | none => s

/-! ## Arming (R295, R296, R299) -/

/-- An entry as it stands at arming: over already, when its PEER is none (R303). -/
def armedEntry (e : BitVec 256) : EntryState :=
  { entry := e, phase := if eKind e ≤ 2 ∧ ePeer e = noPeer then .completed else .armed, fired := 0 }

/-- The base table is read and every entry is armed at one instant. -/
def State.armTable (s : State) (i : Nat) : State :=
  match s.run i with
  | none => s
  | some r =>
    if s.notices.any (fun n => n.dup && n.r.board == r.board && n.r.runseq == r.seq) then s.failRun i 5 none
    else match s.vaRead (r.base.toNat % 2 ^ 48) 128 with
      | (s, .error f) =>
        (match s.park (f.request .sequencer i (r.base.toNat / 2 ^ 56) false 0 (BitVec.ofNat 64 (r.board + 2 ^ 32))) with
          | (s, some id) => s.setRun { r with phase := .armingParked id }
          | (s, none) => s)
      | (s, .ok v) =>
        let slots := (List.range 16).map (fun k => v >>> (64 * k) % 2 ^ 64)
        let es := (s.board r.board).entries.map (substEntry slots)
        match es.findIdx? (fun e => e.isNone) with
        | some x => s.failRun i 2 (some x)
        | none =>
          let s := s.setRun { r with phase := .armed, entries := (es.filterMap id).map armedEntry }
          ((s.cqActive r.queue).dueEntries).settleRun i

/-- A run whose turn has come arms. -/
def State.armRun (s : State) (i : Nat) : State :=
  match s.run i with
  | none => s
  | some r =>
    if r.phase ≠ .waiting ∨ !s.itemReady r.queue (.run i) then s
    else if r.seq ≠ 0 then s.armTable i
    else
      let s := (s.cqPut r.queue 22 6 r.board).cqPut r.queue 0 6 0
      let b := s.board r.board
      if !b.loaded then s.failRun i 1 none
      else ((s.setBoard r.board { b with runseq := b.runseq + 1 }).setRun { r with seq := b.runseq + 1 }).armTable i

/-- RUN_ARMING (R295). -/
def execRunArming (s : State) : Host.Outcome State Fault Refusal :=
  onMove (fun m s => match m with
    | .runArming i => some (s.armRun i)
    | _ => none) s

/-! ## Resolution of parked requests (R329) -/

/-- A parked request of the sequencer retranslates. -/
def State.resumeSequencer (s : State) (q : Request) : State :=
  let i := q.ident
  let x := (fld 12 q.place 16).toNat
  if bit q.place 32 then
    (match s.run i with
      | some r => (s.setRun { r with phase := .waiting }).armTable i
      | none => s)
  else match s.entryOf i x with
    | none => s
    | some (_, e) =>
      (match e.phase with
        | .landing n c a d w _ => s.landData i x n c a d w
        | .parked _ =>
          (match eKind e.entry with
            | 0 => s.resumeNotice i x
            | 3 => s.deliver i x
            | _ => s.localCopy i x)
        | _ => s)

/-- A parked request of the sequencer is aborted: its run fails with class XLATE. -/
def State.abortSequencer (s : State) (q : Request) : State :=
  let x := (fld 12 q.place 16).toNat
  if bit q.place 32 then s.failRun q.ident 9 none
  else (if s.noticeParked q.ident x then s.abortNotice q.ident x else s).failRun q.ident 9 (some x)

/-! ## The links (R315) -/

/-- What a flit that is taken may bring (R303 to R305, R315, R316, R319). -/
def Move.isArrival : Move → Bool
  | .noticeReceive .. | .pullDataArrival .. | .noticeComplete .. | .noticeRefused .. | .noticeLength .. | .fabricRead ..
  | .pullFailed .. | .fabricWrite .. | .copyRemoteRead .. | .copyRemoteAnswer .. | .transit .. | .flitAck .. | .flitReplay .. => true
  | _ => false

/-- The header and the payload of a flit that is taken have their effect: what they bring comes next (R315). -/
def State.takeFlit (s : State) (p : Nat) (flit : List Byte) : State :=
  match Config.flitBrings p flit with
  | some m => if m.isArrival then { s with agenda := m :: s.agenda } else s
  | none => s

/-- A flit arrives (R315): it is taken when its CRC holds after correction and it is the next of its sequence; otherwise
it is replayed, with long replays counted, and at 16 attempts the port goes down for retraining. -/
def flitArrives (s : State) (p : Nat) (flit : List Byte) : State :=
  let l := s.link p
  if 6 ≤ p ∨ l.down ∨ s.err.ports.getLsbD p then s
  else if flit.length = 256 ∧ Config.flitGood flit then
    if Config.flitSequence flit % 4096 = l.expected then
      (s.setLink p { l with attempts := 0, expected := (l.expected + 1) % 4096 }).takeFlit p flit
    else s
  else
    let k := l.attempts + 1
    if 16 ≤ k then s.setLink p { l with attempts := 0, down := true }
    else (s.setLink p { l with attempts := k, replays := if 2 ≤ k then saturate32 (l.replays + 1) else l.replays }).send (.replay p)

/-- FLIT_RECEIVE (R315). -/
def execFlitReceive (s : State) : Host.Outcome State Fault Refusal :=
  onMove (fun m s => match m with
    | .flitReceive p f => some (flitArrives s p f)
    | _ => none) s

end Sys2Proof.Machine
end

