-- ==== Sys2Proof/Machine/Queues.lean ====
section
/-! DEFINITION. Submissions to the launch queues and the collective queues, from cores and from the host, and queue
control (R180, R241 to R244, R293 to R295, R359). -/

namespace Sys2Proof.Machine

open Sys2Proof.Num

/-- Who submits an entry. -/
inductive Submitter where
  | host
  | core (sup : Bool)
  deriving DecidableEq, Repr

/-- Whether a queue is a launch queue. -/
def launchQueue (q : Nat) : Bool := q < 64

/-- Whether dword 0 of an entry is malformed for a queue and a submitter (R180, R242, R243, R293). -/
def headerMalformed (q : Nat) (e : Entry) (from_ : Submitter) : Bool :=
  let k := entryKind e
  entryDword e 0 / 2 ^ 35 != 0 ||
  (if launchQueue q then !(k ≤ 1 || k == 4) else !(2 ≤ k && k ≤ 4)) ||
  (k == 4 && from_ != .host) || (2 ≤ k && entryMask e != 0)

/-! ## Queue control (R242, R243) -/

/-- Whether the payload of a queue-control entry is malformed. -/
def controlMalformed (e : Entry) : Bool :=
  4 < entryDword e 1 || (List.range 8).any (fun i => 2 ≤ i && entryDword e i != 0)

/-- Reset of a launch queue: the kept slate is zero, entries not admitted are gone; pre-empted launches stay. -/
def State.resetLaunches (s : State) (q : Nat) : State :=
  let u := s.queue q
  let gone := u.launches.filter (fun i => (s.launch i).any (fun l => l.phase == .queued))
  let s := s.setQueue q { u with kept := 0, launches := u.launches.filter (fun i => !gone.contains i) }
  { s with sched := { s.sched with launches := s.sched.launches.filter (fun (i, _) => !gone.contains i) } }.consider

/-- Reset of a collective queue: the kept slate is zero, held loads and runs that have not begun to arm are gone; the
unmatched notice records of its boards, and of boards that belong to no queue, are removed (R295, R304). -/
def State.resetCollective (s : State) (q : Nat) : State :=
  let u := s.queue q
  let waiting (i : Nat) : Bool := (s.run i).any (fun r => r.phase == .waiting && r.seq == 0)
  let s := s.setQueue q { u with kept := 0, items := u.items.filter (fun it => match it with
    | .load .. => false
    | .run i => !waiting i) }
  let mine (b : Nat) : Bool := match (s.board b).owner with
    | some o => o == q
    | none => true
  let coll := { s.coll with
    runs := s.coll.runs.filter (fun (i, r) => !(r.queue == q && waiting i)),
    tables := s.coll.tables.map (fun (p, t) => (p, t.filter (fun n => !mine n.r.board))) }
  { s with coll := coll }.takeLoads heldLoads

/-- Queue control takes effect. -/
def State.control (s : State) (q op : Nat) : State :=
  match op with
  | 0 => if launchQueue q then s.resetLaunches q else s.resetCollective q
  | 1 | 2 =>
    let s := s.setQueue q { s.queue q with concurrent := op == 2 }
    if launchQueue q then s.consider else s.takeLoads heldLoads
  | _ => s.setQueue q { s.queue q with disabled := op == 3 }

/-! ## Storyboard entries (R293 to R295) -/

/-- Whether an address is one of device memory with an alignment, in one of the given spaces. -/
def deviceAddress (a align : Nat) (spaces : List Nat) : Bool :=
  spaces.contains (a / 2 ^ 56) && a / 2 ^ 48 % 256 == 0 && a % align == 0

/-- Whether the payload of a load entry is malformed (R293). -/
def loadMalformed (e : Entry) : Bool :=
  let d1 := entryDword e 1
  let count := d1 / 2 ^ 16 % 2 ^ 16
  let mtab := entryDword e 3
  let mcount := entryDword e 4
  d1 / 2 ^ 32 != 0 || d1 % 2 ^ 16 / 2 ^ 6 != 0 || count == 0 || 4096 < count ||
  !deviceAddress (entryDword e 2) 32 [0x10] || !(mtab == 0 || deviceAddress mtab 8 [0x10, 0x11]) || 4096 < mcount ||
  ((mcount == 0) != (mtab == 0)) || (List.range 8).any (fun i => 5 ≤ i && entryDword e i != 0)

/-- The image and the member table of a load; none when a read faults or a rule is broken (R294). -/
def State.readLoad (s : State) (e : Entry) : State × Option (List (BitVec 256) × List (Nat × Nat)) :=
  let count := entryDword e 1 / 2 ^ 16 % 2 ^ 16
  let mcount := entryDword e 4
  match s.vaRead (entryDword e 2 % 2 ^ 48) (32 * count) with
  | (s, .error _) => (s, none)
  | (s, .ok v) =>
    match (if mcount = 0 then (s, .ok 0) else s.vaRead (entryDword e 3 % 2 ^ 48) (4 * mcount)) with
    | (s, .error _) => (s, none)
    | (s, .ok t) =>
      let image := (List.range count).map (fun i => BitVec.ofNat 256 (v >>> (256 * i)))
      let members := (List.range mcount).map (fun i => memberOf (t >>> (32 * i) % 2 ^ 32))
      let ms := members.filterMap id
      (s, if image.any entryBad || members.any (fun m => m.isNone) || membersBad ms then none else some (image, ms))

/-- A storyboard load reaches a collective queue. One that is refused for its image or its members is a failure of class
MALFORMED (R294, R313). -/
def State.submitLoad (s : State) (q : Nat) (e : Entry) : State × Nat :=
  if loadMalformed e then (s, 2)
  else match s.readLoad e with
    | (s, none) => ((s.cqPut q 40 8 1).cqPut q 28 12 0, 2)
    | (s, some (image, ms)) =>
      let id := s.coll.nextRun
      let u := s.queue q
      let s := s.setQueue q { u with items := u.items ++ [.load id (entryDword e 1 % 64) image ms] }
      ({ s with coll := { s.coll with nextRun := id + 1 } }.takeLoads heldLoads, 0)

/-- Whether the payload of a run entry is malformed (R293). -/
def runMalformed (e : Entry) : Bool :=
  64 ≤ entryDword e 1 || !deviceAddress (entryDword e 2) 128 [0x10, 0x11] ||
  (List.range 8).any (fun i => 3 ≤ i && entryDword e i != 0)

/-- A storyboard run reaches a collective queue; on a concurrent queue it arms at its acceptance (R295). -/
def State.submitRun (s : State) (q : Nat) (e : Entry) : State × Nat :=
  let b := entryDword e 1
  if runMalformed e || !((s.board b).loaded || s.loadHeld b) then (s, 2)
  else
    let id := s.coll.nextRun
    let u := s.queue q
    let s := s.setQueue q { u with items := u.items ++ [.run id] }
    let r : Run := { id := id, board := b, queue := q, base := BitVec.ofNat 64 (entryDword e 2), seq := 0, phase := .waiting,
                     entries := [] }
    let s := { s with coll := { s.coll with nextRun := id + 1 } }.setRun r
    (if u.concurrent then s.armRun id else s, 0)

/-- A storyboard entry reaches a collective queue. -/
def State.submitBoard (s : State) (q : Nat) (e : Entry) : State × Nat :=
  if s.closed q then (s, 3)
  else if 64 ≤ (s.queue q).items.length then (s, 1)
  else if entryKind e = 3 then s.submitLoad q e else s.submitRun q e

/-! ## Submissions (R180, R244) -/

/-- An entry reaches a queue's slot: the status. -/
def State.takeEntry (s : State) (q : Nat) (e : Entry) (from_ : Submitter) : State × Nat :=
  if s.sec.phase ≠ .ready ∨ s.sec.halted then (s, 3)
  else if headerMalformed q e from_ then (s, 2)
  else if entryKind e = 4 then
    if controlMalformed e then (s, 2) else (s.control q (entryDword e 1), 0)
  else if launchQueue q then s.submitLaunch q e
  else s.submitBoard q e

/-- An entry reaches a queue's slot; a malformed or refused one leaves a record in the queue's fault ring (R244, R359). -/
def State.submit (s : State) (q : Nat) (e : Entry) (from_ : Submitter) : State × Nat :=
  match s.takeEntry q e from_ with
  | (s, st) =>
    if st < 2 then (s, st)
    else
      let kind := if st = 3 then 2 else if entryKind e = 3 then 3 else 1
      (s.queueRecord q kind st (from_ != .host) (BitVec.ofNat 64 (entryDword e 0)), st)

/-- A submission of a core reaches its queue: what its release waits for has performed, and no earlier submission of its
context to that queue is still on its way. The answer is kept for its status. -/
def submitReach (s : State) (n id : Nat) : State :=
  match s.findVar n id with
  | some v =>
    (match v.kind with
      | .submit d q e sup ws none =>
        let x := (s.core n).side (supId id)
        let behind := x.vars.any (fun w => w.id < id && (match w.kind with
          | .submit _ q' _ _ _ none => q' == q
          | _ => false))
        if behind || !(s.core n).performed ws then s
        else
          let (s, st) := s.submit q e (.core sup)
          let kind := VarKind.submit d q e sup ws (some st)
          s.modCore n (fun c => c.modSide (supId id) (fun x =>
            { x with vars := x.vars.map (fun w => if w.id = id then { w with kind := kind } else w) }))
      | _ => s)
  | none => s

/-- The status of a submission arrives, once its entry has reached the queue. -/
def submitStatus (s : State) (n id : Nat) : State :=
  let s := submitReach s n id
  match s.findVar n id with
  | some v =>
    (match v.kind with
      | .submit d _ _ _ _ (some st) => s.answerVar n v d (BitVec.ofNat 64 st)
      | _ => s)
  | none => s

/-- SUBMIT_STATUS (R180). -/
def execSubmitStatus (s : State) : Host.Outcome State Fault Refusal :=
  onMove (fun m s => match m with
    | .submitStatus n id => some (submitStatus s n id)
    | _ => none) s

/-- The host writes an entry to a queue's slot (R244): it is answered with a retry when the queue is full, otherwise with
success. -/
def State.hostSubmit (s : State) (q : Nat) (e : Entry) : State :=
  if 80 ≤ q then s
  else match s.submit q e .host with
    | (s, st) => s.send (if st = 1 then .retry else .success)

/-- The host's entry of a row, when it is one of that row's kind; the row of launches by delta also takes the entries that
are of no kind. -/
def State.hostEntry (s : State) (q : Nat) (e : Entry) (mine : Bool) : State := if mine then s.hostSubmit q e else s

/-- Whether an entry is queue control of an operation. -/
def isControl (e : Entry) (op : Nat) : Bool := entryKind e == 4 && entryDword e 1 % 8 == op

/-- Whether an entry is of no kind or no operation that is listed. -/
def unlistedKind (e : Entry) : Bool := 5 ≤ entryKind e || (entryKind e == 4 && 5 ≤ entryDword e 1 % 8)

/-- LAUNCH_BY_DELTA (R243). -/
def execLaunchByDelta (s : State) : Host.Outcome State Fault Refusal :=
  onMove (fun m s => match m with
    | .launchByDelta q e => some (s.hostEntry q e (entryKind e == 0 || unlistedKind e))
    | _ => none) s

/-- LAUNCH_BY_REFERENCE (R243). -/
def execLaunchByReference (s : State) : Host.Outcome State Fault Refusal :=
  onMove (fun m s => match m with
    | .launchByReference q e => some (s.hostEntry q e (entryKind e == 1))
    | _ => none) s

/-- QUEUE_RESET (R243). -/
def execQueueReset (s : State) : Host.Outcome State Fault Refusal :=
  onMove (fun m s => match m with
    | .queueReset q e => some (s.hostEntry q e (isControl e 0))
    | _ => none) s

/-- QUEUE_SET_IN_ORDER (R242). -/
def execQueueSetInOrder (s : State) : Host.Outcome State Fault Refusal :=
  onMove (fun m s => match m with
    | .queueSetInOrder q e => some (s.hostEntry q e (isControl e 1))
    | _ => none) s

/-- QUEUE_SET_CONCURRENT (R242). -/
def execQueueSetConcurrent (s : State) : Host.Outcome State Fault Refusal :=
  onMove (fun m s => match m with
    | .queueSetConcurrent q e => some (s.hostEntry q e (isControl e 2))
    | _ => none) s

/-- QUEUE_DISABLE (R243). -/
def execQueueDisable (s : State) : Host.Outcome State Fault Refusal :=
  onMove (fun m s => match m with
    | .queueDisable q e => some (s.hostEntry q e (isControl e 3))
    | _ => none) s

/-- QUEUE_ENABLE (R243). -/
def execQueueEnable (s : State) : Host.Outcome State Fault Refusal :=
  onMove (fun m s => match m with
    | .queueEnable q e => some (s.hostEntry q e (isControl e 4))
    | _ => none) s

/-- STORYBOARD_LOAD (R294). -/
def execStoryboardLoad (s : State) : Host.Outcome State Fault Refusal :=
  onMove (fun m s => match m with
    | .storyboardLoad q e => some (s.hostEntry q e (entryKind e == 3))
    | _ => none) s

/-- STORYBOARD_RUN (R295). -/
def execStoryboardRun (s : State) : Host.Outcome State Fault Refusal :=
  onMove (fun m s => match m with
    | .storyboardRun q e => some (s.hostEntry q e (entryKind e == 2))
    | _ => none) s

/-- A write to the submission window that is no submission (R244, R354): counted, at its queue or at the scheduler. -/
def strayWrite (s : State) (page : Nat) : State :=
  if page < 80 then
    let u := s.queue page
    s.setQueue page { u with stray := saturate32 (u.stray + 1) }
  else if page < 128 then { s with sched := { s.sched with subwinStray := saturate32 (s.sched.subwinStray + 1) } }
  else s

/-- SUBMISSION_STRAY_WRITE (R244). -/
def execSubmissionStrayWrite (s : State) : Host.Outcome State Fault Refusal :=
  onMove (fun m s => match m with
    | .submissionStrayWrite p => some (strayWrite s p)
    | _ => none) s

end Sys2Proof.Machine
end

