-- ==== Sys2Proof/Machine/SkimEngine.lean ====
section
/-! DEFINITION. The skim engines (R347 to R352): the optimiser arithmetic of an element, an engine's part of a record or of
a delivered range, the working copy in MX format, completion and failure. -/

namespace Sys2Proof.Machine

open Sys2Proof.Num

/-! ## Constants (R349) -/

/-- Keep the top `w` bits of a magnitude `m * 2^e`; whether bits were dropped is added to `lost`. -/
def keepBits (w : Nat) (m : Nat) (e : Int) (lost : Bool) : Nat × Int × Bool :=
  let k := Nat.log2 m + 1 - w
  (m / 2 ^ k, e + k, lost || m % 2 ^ k != 0)

/-- The bits of precision kept by `powBits`. -/
def powWidth : Nat := 4096

/-- `m^t` by the bits of `t`, most significant first, as a magnitude that is exact or, when the flag is set, just below
the true one. -/
def powBits (m : Nat) : List Bool → Nat × Int × Bool
  | [] => (1, 0, false)
  | b :: bs =>
    let (p, e, f) := powBits m bs
    let (q, e, f) := keepBits powWidth (p * p) (e + e) f
    if b then keepBits powWidth (q * m) e f else (q, e, f)

/-- The bits of a 64-bit number, the least significant first. -/
def lowBitsFirst (t : Nat) : List Bool := (List.range 64).map (fun i => t.testBit i)

/-- fl(1 - β^t) for a finite β of magnitude `m * 2^e`, t ≥ 1: rounded once. A power below 2^-200 leaves 1, and one above
2^200 overflows. -/
def oneMinusPow (neg : Bool) (m : Nat) (e : Int) (t : Nat) : Nat :=
  let (p, k, lost) := powBits m (lowBitsFirst t)
  let ex := k + e * (t : Int)
  let top := ex + Nat.log2 p
  let minus := neg && t % 2 == 1
  let one := f32.roundVal rne (.num false 1 0)
  if m = 0 ∨ top < -200 then one.1
  else if 200 < top then f32.inf (!minus)
  else
    let lo := min ex 0
    let a : Nat := 2 ^ (-lo).toNat
    let b : Nat := p * 2 ^ (ex - lo).toNat
    if minus then (f32.round rne false (a + b) lo lost).1
    else if b < a then (f32.round rne false (if lost then a - b - 1 else a - b) lo lost).1
    else if a = b ∧ !lost then 0
    else (f32.round rne true (b - a) lo lost).1

/-- fl(1 - β^t) of an f32 pattern. -/
def oneMinus (beta t : Nat) : Nat :=
  match f32.val beta with
  | .nan _ => f32.nan
  | .inf n => f32.inf (!(n && t % 2 == 1))
  | .num n m e => oneMinusPow n m e t

/-! ## The arithmetic of an element (R349) -/

/-- Widening to f32, exact. -/
def widened (ty : BitVec 4) (x : Nat) : Nat := if ty = 8 then x else widenF ty x

/-- A number with the flags raised on the way. -/
abbrev Flagged := Nat × Nat

/-- A binary operation of f32 that joins flags. -/
def fl2 (op : FVal → FVal → Nat × Nat) (a b : Flagged) : Flagged :=
  let (v, f) := op (f32.val a.1) (f32.val b.1)
  (v, a.2 ||| b.2 ||| f)

/-- The fused multiply-add that joins flags. -/
def fl3 (a b c : Flagged) : Flagged :=
  let (v, f) := ffma f32 rne (f32.val a.1) (f32.val b.1) (f32.val c.1)
  (v, a.2 ||| b.2 ||| c.2 ||| f)

def fMul (a b : Flagged) : Flagged := fl2 (fmul f32 rne) a b
def fAdd (a b : Flagged) : Flagged := fl2 (fadd f32 rne 0) a b
def fDiv (a b : Flagged) : Flagged := fl2 (fdiv f32 rne) a b
def fSqrt (a : Flagged) : Flagged :=
  let (v, f) := fsqrt f32 rne (f32.val a.1)
  (v, a.2 ||| f)

/-- The sign of Lion: +1, -1, or the value itself when it is a zero or a NaN. -/
def lionSign (c : Flagged) : Flagged :=
  match f32.val c.1 with
  | .nan _ => c
  | .num n m _ => if m = 0 then c else (f32.sign n 0x3F800000, c.2)
  | .inf n => (f32.sign n 0x3F800000, c.2)

/-- The new master, first and second moment of an element, with flags, from its gradient, its old values and the
loss-scale reciprocal, if there is one. -/
def updateElement (r : SkimRec) (rs : Option Nat) (grad w m v : Nat) : Flagged × Flagged × Flagged :=
  let g : Flagged := match rs with
    | some x => fMul (grad, 0) (x, 0)
    | none => (grad, 0)
  let wd : Flagged := (skWd r, 0)
  let b1 : Flagged := (skBeta1 r, 0)
  let b2 : Flagged := (skBeta2 r, 0)
  let nlr : Flagged := (skLr r ^^^ 2 ^ 31, 0)
  let w0 : Flagged := (w, 0)
  let m0 : Flagged := (m, 0)
  let c1 : Flagged := (oneMinus (skBeta1 r) 1, 0)
  let c2 : Flagged := (oneMinus (skBeta2 r) 1, 0)
  match skAlg r with
  | 0 =>
    let m1 := fl3 b1 m0 (fl3 wd w0 g)
    (fl3 nlr m1 w0, m1, (v, 0))
  | 1 =>
    let ga := fl3 wd w0 g
    let m1 := fl3 b1 m0 ga
    (fl3 nlr (fl3 b1 m1 ga) w0, m1, (v, 0))
  | 2 =>
    let m1 := fl3 b1 m0 (fMul c1 g)
    let v1 := fl3 b2 (v, 0) (fMul c2 (fMul g g))
    let den := fAdd (fSqrt (fDiv v1 (oneMinus (skBeta2 r) (skStep r), 0))) (skEps r, 0)
    let q := fDiv (fDiv m1 (oneMinus (skBeta1 r) (skStep r), 0)) den
    (fl3 nlr (fl3 wd w0 q) w0, m1, v1)
  | _ =>
    let sg := lionSign (fl3 b1 m0 (fMul c1 g))
    (fl3 nlr (fl3 wd w0 sg) w0, fl3 b2 m0 (fMul c2 g), (v, 0))

/-- How element `i` rounds in row `a` (R349): in SR keyed with STEP and the element. -/
def skimRnd (r : SkimRec) (a i : Nat) : Rnd :=
  ⟨skRm r, if skRm r = 5 then rnd16 (stipple (BitVec.ofNat 64 (skStep r)) 0 a (i % 2 ^ 20) (i / 2 ^ 20)) else 0, false⟩

/-- Out(x, type, a) of element `i`. -/
def skimOut (r : SkimRec) (ty : BitVec 4) (a i : Nat) (x : Flagged) : Flagged :=
  if ty = 8 then x
  else
    let (v, f) := convert ty 8 (skimRnd r a i) x.1
    (v, x.2 ||| f)

/-! ## An engine's part (R347, R348) -/

/-- The first element of a job and how many there are. -/
def SkimJob.span (j : SkimJob) : Nat × Nat :=
  match j.range with
  | some (_, _, first, n, _) => (first, n)
  | none => (0, skCount j.record)

/-- Whether an engine is fenced: its parity set is (R343). -/
def State.engineFenced (s : State) (e : Nat) : Bool := (s.pset e).mode == .fenced

/-- The engine that owns a master word by the tables as they stand; none when they do not translate it. -/
def State.ownerOf (s : State) (va : Nat) : Option Nat :=
  match s.walk va with
  | .ok t => some (s.setOf (t.ppage * 65536 + va % 65536))
  | .error _ => none

/-- A failed access of an engine, and whether it wrote. -/
abbrev SkimFail := XFail × Bool

/-- Read an operand. -/
def State.skRead (s : State) (a n : Nat) : State × Except SkimFail Nat :=
  match s.vaRead (a % 2 ^ 48) n with
  | (s, .ok v) => (s, .ok v)
  | (s, .error f) => (s, .error (f, false))

/-- Translate the places that an element writes, then write them: address, bytes, value. -/
def State.skWrites (s : State) : List (Nat × Nat × Nat) → State × Except SkimFail Unit
  | [] => (s, .ok ())
  | (a, n, v) :: r =>
    match s.pieces (a % 2 ^ 48) n true with
    | (s, .error f) => (s, .error (f, true))
    | (s, .ok ps) =>
      match s.skWrites r with
      | (s, .error f) => (s, .error f)
      | (s, .ok ()) => (s.writePieces ps v, .ok ())

/-- OR flags into SKIM_FLAGS of an engine. -/
def State.skFlags (s : State) (e f : Nat) : State :=
  { s with skim := { s.skim with flags := s.skim.flags.put e (s.skim.flags.look 0 e ||| f % 64) } }

/-- Flags of engine `e`'s work on a job (R349): they go into its SKIM_FLAGS and, for a delivered range, into FLAGS of the
CQ_STATUS of its run's queue (R313). -/
def State.jobFlags (s : State) (j : SkimJob) (e f : Nat) : State :=
  match j.range.bind (fun x => s.run x.1) with
  | some r => (s.skFlags e f).cqFlags r.queue f
  | none => s.skFlags e f

/-- The gradient of element `i`. -/
def State.skGradient (s : State) (j : SkimJob) (i : Nat) : State × Except SkimFail Nat :=
  let r := j.record
  match j.range with
  | some (_, _, first, _, off) => (s, .ok (s.read (chunkKey + off + 4 * (i - first)) 4))
  | none =>
    match s.skRead (skGrad r + floatBytes (skGtype r) * i) (floatBytes (skGtype r)) with
    | (s, .ok v) => (s, .ok (widened (skGtype r) v))
    | x => x

/-- Engine `e` updates element `i`. -/
def State.skElement (s : State) (j : SkimJob) (e i : Nat) (rs : Option Nat) : State × Except SkimFail Unit :=
  let r := j.record
  let mt := skMomtype r
  let mw := floatBytes mt
  match s.skGradient j i with
  | (s, .error f) => (s, .error f)
  | (s, .ok g) =>
    match s.skRead (skMaster r + 4 * i) 4 with
    | (s, .error f) => (s, .error f)
    | (s, .ok w) =>
      match s.skRead (skMom1 r + mw * i) mw with
      | (s, .error f) => (s, .error f)
      | (s, .ok m) =>
        match (if skAlg r = 2 then s.skRead (skMom2 r + mw * i) mw else (s, .ok 0)) with
        | (s, .error f) => (s, .error f)
        | (s, .ok v) =>
          let (w1, m1, v1) := updateElement r rs g w (widened mt m) (widened mt v)
          let mo := skimOut r mt 1 i m1
          let vo := skimOut r mt 2 i v1
          let wo := skimOut r 9 3 i w1
          let outs := (if skAlg r = 2 then [(skMom2 r + mw * i, mw, vo.1)] else []) ++
            [(skMaster r + 4 * i, 4, w1.1), (skMom1 r + mw * i, mw, mo.1)] ++
            (if skWkind r = 1 then [(skWork r + 2 * i, 2, wo.1)] else [])
          match s.skWrites outs with
          | (s, .error f) => (s, .error f)
          | (s, .ok ()) =>
            let fl := w1.2 ||| mo.2 ||| (if skAlg r = 2 then vo.2 else 0) ||| (if skWkind r = 1 then wo.2 else 0)
            (s.jobFlags j e fl, .ok ())

/-- How an engine's work on a job ends: all its elements done; skipped for its guard; stopped at an element by a failed
translation, with the reciprocal once the guard has been read; its set is fenced and it owns elements. -/
inductive SkimEnd where
  | updated | skipped | fenced
  | stopped (element : Nat) (guarded : Option Nat) (f : SkimFail)
  deriving DecidableEq, Repr

/-- The reciprocal that stands for none, and what stands for a guard read as zero whose reciprocal is still to be read. -/
def noScale : Nat := 2 ^ 32
def guardPassed : Nat := 2 ^ 32 + 1

/-- The guard, unless it has been read, and the loss-scale reciprocal: none when the guard is not zero. A failure says
whether the guard has been read (R348: once). -/
def State.skGuarded (s : State) (r : SkimRec) (passed : Bool) : State × Except (SkimFail × Bool) (Option Nat) :=
  match (if passed ∨ skGuard r = 0 then (s, .ok 0) else s.skRead (skGuard r) 4) with
  | (s, .error f) => (s, .error (f, false))
  | (s, .ok g) =>
    if g ≠ 0 then (s, .ok none)
    else if skRscale r = 0 then (s, .ok (some noScale))
    else match s.skRead (skRscale r) 4 with
      | (s, .error f) => (s, .error (f, true))
      | (s, .ok x) => (s, .ok (some x))

/-- The engine that owns a page's master values, as its translation has just said. -/
def State.noteOwner (s : State) (id page e : Nat) : State :=
  { s with skim := { s.skim with jobs := s.skim.jobs.map (fun j =>
      if j.id = id then { j with owners := j.owners.put page e } else j) } }

/-- Engine `e` works on `n` elements of a job from `i` on: those that it owns. Before its first the guard is read. -/
def skimWork (j : SkimJob) (e : Nat) : Nat → Nat → Option Nat → State → State × SkimEnd
  | 0, _, _, s => (s, .updated)
  | n + 1, i, g, s =>
    let va := skMaster j.record % 2 ^ 48 + 4 * i
    let (s, owner) : State × Except SkimFail Nat :=
      match s.ownerOf va with
      | some o => (s, .ok o)
      | none =>
        (match s.translate va false with
          | (s, .ok pa) => (s, .ok (s.setOf pa))
          | (s, .error r) => (s, .error (⟨r, va⟩, false)))
    match owner with
    | .error f => (s, .stopped i g f)
    | .ok o =>
      let s := s.noteOwner j.id (va / 65536) o
      if o ≠ e then skimWork j e n (i + 1) g s
      else if s.engineFenced e then (s, .fenced)
      else
        let (s, got) : State × Except (SkimFail × Bool) (Option Nat) := match g with
          | some x => if x = guardPassed then s.skGuarded j.record true else (s, .ok (some x))
          | none => s.skGuarded j.record false
        match got with
        | .error (f, passed) => (s, .stopped i (if passed then some guardPassed else none) f)
        | .ok none => (s, .skipped)
        | .ok (some x) =>
          match s.skElement j e i (if x = noScale then none else some x) with
          | (s, .error f) => (s, .stopped i (some x) f)
          | (s, .ok ()) => skimWork j e n (i + 1) (some x) s

/-! ## Jobs -/

/-- A job. -/
def State.skJob (s : State) (id : Nat) : Option SkimJob := s.skim.jobs.find? (fun j => j.id == id)

/-- Replace a job. -/
def State.setJob (s : State) (j : SkimJob) : State :=
  { s with skim := { s.skim with jobs := s.skim.jobs.map (fun k => if k.id = j.id then j else k) } }

/-- Take a job out of the dispatcher, with the requests of it that are parked. -/
def State.dropJob (s : State) (id : Nat) : State :=
  { s with skim := { s.skim with jobs := s.skim.jobs.filter (fun j => j.id != id) },
           xl := { s.xl with parked := s.xl.parked.filter (fun (_, q) => !(q.kind == .skim && q.ident == id)) } }

/-- A record or a range fails (R352): no add, what is written stays, an error record; the run of a range fails with a
class. The class of the error record is a free value. -/
def State.failSkim (s : State) (id cls : Nat) (engine : Nat) : State :=
  match s.skJob id with
  | none => s
  | some j =>
    let s := s.dropJob id
    match j.range with
    | some (i, x, _) => s.failRun i cls (some x)
    | none =>
      let c := (Config.freeByte s.free).toNat
      ({ s with free := s.free + 1 }).errorRecord c .paritySet engine 0 0 0 false

/-- Put where an engine stands in a job. -/
def State.putEngine (s : State) (id e : Nat) (st : EngineState) : State :=
  match s.skJob id with
  | some j => s.setJob { j with engines := j.engines.put e st }
  | none => s

/-- What an engine's work leaves in the job. At the limit of parked requests the engine waits at its element (R329). -/
def State.endWork (s : State) (id e : Nat) (out : SkimEnd) : State :=
  match s.skJob id with
  | none => s
  | some j =>
    match out with
    | .updated => s.setJob { j with engines := j.engines.put e .updated }
    | .skipped =>
      let s := s.setJob { j with engines := j.engines.put e .skipped }
      { s with skim := { s.skim with skips := s.skim.skips.put e (saturate32 (s.skim.skips.look 0 e + 1)) } }
    | .fenced => s.failSkim id 7 e
    | .stopped i g (f, w) =>
      match s.park (f.request .skim id 0x10 w e (BitVec.ofNat 64 i)) with
      | (s, some p) => s.putEngine id e (.parked i g p)
      | (s, none) => s.putEngine id e (.held i g)

/-- The accesses that a job's release waits for have performed (R181). -/
def State.jobReady (s : State) (j : SkimJob) : Bool := (s.core j.core).performed j.waits

/-- The blocks of a job with a working copy in MX format, by number in the operand (R350). -/
def SkimJob.allBlocks (j : SkimJob) : List Nat :=
  if skWkind j.record = 2 then
    let (first, n) := j.span
    (List.range (n / 256)).map (fun k => first / 256 + k)
  else []

/-- The element (0, 0) of a block. -/
def blockFirst (cols b : Nat) : Nat := 16 * cols * (b / (cols / 16)) + 16 * (b % (cols / 16))

/-- The address of a block's first master value. -/
def SkimJob.blockAt (j : SkimJob) (b : Nat) : Nat := skMaster j.record % 2 ^ 48 + 4 * blockFirst (skCols j.record) b

/-- The engine that quantises a block: the one that owns its first master value, as the engines have found it (R350). -/
def SkimJob.blockOwner (j : SkimJob) (b : Nat) : Option Nat := j.owners.find (j.blockAt b / 65536)

/-- Whether an engine has blocks of a job left to quantise. -/
def SkimJob.blocksLeft (j : SkimJob) (e : Nat) : Bool :=
  j.allBlocks.any (fun b => !j.blocks.contains b && j.blockOwner b == some e)

/-- The job that an engine takes next, in the dispatcher's order: none while it has not finished its part of an earlier
one. -/
def State.nextJob (s : State) (e : Nat) : List SkimJob → Option SkimJob
  | [] => none
  | j :: js =>
    match j.engines.find e with
    | none => if s.jobReady j then some j else none
    | some (.parked ..) => none
    | some (.held ..) => some j
    | some _ => if j.blocksLeft e then none else s.nextJob e js

/-- The first job of a fenced engine that it has begun and not finished (R352): its part stopped, or blocks are left. -/
def State.fencedJob (s : State) (e : Nat) : Option Nat :=
  if s.engineFenced e then
    (s.skim.jobs.find? (fun j => match j.engines.find e with
      | some (.parked ..) | some (.held ..) => true
      | some .updated => j.blocksLeft e
      | _ => false)).map (·.id)
  else none

/-- An engine takes its next record or range and does its part of it, or goes on where it waits; what a fenced engine has
begun fails (R352). -/
def skimStart (s : State) (e : Nat) : State :=
  if 32 ≤ e then s
  else match s.fencedJob e with
  | some id => s.failSkim id 7 e
  | none =>
    match s.nextJob e s.skim.jobs with
    | none => s
    | some j =>
      let (first, n) := j.span
      let (i, g) := match j.engines.find e with
        | some (.held i g) => (i, g)
        | _ => (first, none)
      let (t, out) := skimWork j e (first + n - i) i g s
      t.endWork j.id e out

/-- SKIM_ENGINE_START (R347). -/
def execSkimEngineStart (s : State) : Host.Outcome State Fault Refusal :=
  onMove (fun m s => match m with
    | .skimEngineStart e => some (skimStart s e)
    | _ => none) s

/-! ## The working copy in MX format (R350) -/

/-- Whether an engine has finished or skipped an element that it owns: an engine takes its elements in ascending order. -/
def SkimJob.elementDone (j : SkimJob) (e i : Nat) : Bool :=
  match j.engines.find e with
  | some .updated | some .skipped => true
  | some (.parked k _ _) | some (.held k _) => i < k
  | none => false

/-- The elements of a block. -/
def blockElements (cols b : Nat) : List Nat :=
  (List.range 256).map (fun k => blockFirst cols b + k / 16 * cols + k % 16)

/-- Whether every owner of a block's elements has finished or skipped them (R350). -/
def SkimJob.blockReady (j : SkimJob) (b : Nat) : Bool :=
  (blockElements (skCols j.record) b).all (fun i =>
    match j.owners.find ((skMaster j.record % 2 ^ 48 + 4 * i) / 65536) with
    | some e => j.elementDone e i
    | none => false)

/-- Whether every engine has done its part of a job. -/
def SkimJob.enginesDone (j : SkimJob) : Bool :=
  (List.range 32).all (fun e => match j.engines.find e with
    | some .updated | some .skipped => true
    | _ => false)

/-- Read the 256 master values of a block, in row order. -/
def State.blockMasters (s : State) (r : SkimRec) (b : Nat) : List Nat → State × Except SkimFail (List Nat)
  | [] => (s, .ok [])
  | y :: ys =>
    match s.skRead (skMaster r + 4 * (blockFirst (skCols r) b + y * skCols r)) 64 with
    | (s, .error f) => (s, .error f)
    | (s, .ok v) =>
      match s.blockMasters r b ys with
      | (s, .error f) => (s, .error f)
      | (s, .ok vs) => (s, .ok ((List.range 16).map (fun x => v >>> (32 * x) % 2 ^ 32) ++ vs))

/-- Engine `e` quantises a block (R228): 16 rows of 16 elements, and its code when there is a place for it; the flags go
where those of its other work go. -/
def State.quantBlock (s : State) (j : SkimJob) (e b : Nat) : State × Except SkimFail Unit :=
  let r := j.record
  let cols := skCols r
  match s.blockMasters r b (List.range 16) with
  | (s, .error f) => (s, .error f)
  | (s, .ok xs) =>
    let elem (k : Nat) : Nat := blockFirst cols b + k / 16 * cols + k % 16
    let c := scaleCode (targetEmax 0) (blockAmax f32 xs)
    let qs := xs.zipIdx.map (fun (x, k) => quantise 11 8 (skimRnd r 3 (elem k)) c x)
    let rows := (List.range 16).map (fun y =>
      (skWork r + elem (16 * y), 16, joinBits 8 (((qs.drop (16 * y)).take 16).map Prod.fst)))
    match s.skWrites (rows ++ if skWscale r = 0 then [] else [(skWscale r + b, 1, c)]) with
    | (s, .error f) => (s, .error f)
    | (s, .ok ()) => (s.jobFlags j e (orAll (qs.map Prod.snd)), .ok ())

/-- The engine that owns a block's first element quantises it, once every owner of its elements has finished or skipped
them; a block of an engine that skipped stays as it was. -/
def skimBlock (s : State) (id b : Nat) : State :=
  match s.skJob id with
  | none => s
  | some j =>
    if !j.blockReady b ∨ !j.allBlocks.contains b ∨ j.blocks.contains b ∨ (j.stuck.find b).isSome then s
    else
      let va := j.blockAt b
      let owner := (j.blockOwner b).getD 0
      let stop (s : State) (e : Nat) (f : XFail) (w : Bool) : State :=
        match s.park (f.request .skim id 0x10 w e (BitVec.ofNat 64 (blockFirst (skCols j.record) b))) with
        | (s, some p) => s.setJob { j with stuck := j.stuck.put b p }
        | (s, none) => s
      if j.engines.find owner = some .skipped then s.setJob { j with blocks := j.blocks ++ [b] }
      else if s.engineFenced owner then s.failSkim id 7 owner
      else match s.translate va false with
      | (s, .error r) => stop s owner ⟨r, va⟩ false
      | (s, .ok pa) =>
        let e := s.setOf pa
        if s.engineFenced e then s.failSkim id 7 e
        else match s.quantBlock j e b with
          | (s, .error (f, w)) => stop s e f w
          | (s, .ok ()) => s.setJob { j with blocks := j.blocks ++ [b] }

/-- SKIM_BLOCK_QUANTISE (R350). -/
def execSkimBlockQuantise (s : State) : Host.Outcome State Fault Refusal :=
  onMove (fun m s => match m with
    | .skimBlockQuantise j b => some (skimBlock s j b)
    | _ => none) s

/-! ## Completion (R352) -/

/-- A job completes: every engine has finished or skipped its part, and every block is quantised. -/
def skimComplete (s : State) (id : Nat) : State :=
  match s.skJob id with
  | none => s
  | some j =>
    if j.enginesDone ∧ j.allBlocks.all j.blocks.contains then
      let s := s.dropJob id
      match j.range with
      | some (i, x, _) => s.setPhase i x .moved
      | none => if skDoneEn j.record then s.addCounter (skDoneCtr j.record) (BitVec.ofNat 64 (skDoneInc j.record)) else s
    else s

/-- SKIM_RECORD_COMPLETE (R352). -/
def execSkimRecordComplete (s : State) : Host.Outcome State Fault Refusal :=
  onMove (fun m s => match m with
    | .skimRecordComplete j => some (skimComplete s j)
    | _ => none) s

/-! ## Resolution of parked requests (R329) -/

/-- The engine whose part of a job waits under an identity. -/
def SkimJob.parkedAt (j : SkimJob) (id : BitVec 16) : Option (Nat × Nat × Option Nat) :=
  j.engines.findSome? (fun (e, st) => match st with
    | .parked i g p => if p = id then some (e, i, g) else none
    | _ => none)

/-- A parked request of a skim engine retranslates: the engine goes on at its element, or the block is quantised. -/
def State.resumeSkim (s : State) (q : Request) (id : BitVec 16) : State :=
  match s.skJob q.ident with
  | none => s
  | some j =>
    match j.parkedAt id with
    | some (e, i, g) =>
      let (first, n) := j.span
      let (t, out) := skimWork j e (first + n - i) i g s
      t.endWork j.id e out
    | none =>
      match j.stuck.find? (fun x => x.2 == id) with
      | some (b, _) => skimBlock (s.setJob { j with stuck := j.stuck.drop b }) j.id b
      | none => s

/-- A parked request of a skim engine is aborted: the record, or the range's run, fails. -/
def State.abortSkim (s : State) (q : Request) : State := s.failSkim q.ident 9 q.unit.toNat

end Sys2Proof.Machine
end

