-- ==== Sys2Proof/Machine/Errors.lean ====
section
/-! DEFINITION. Hardware errors: their outcome for the data and for the access that met them, their records, the ladder of
lasting faults (R87, R315, R335 to R344, R361 to R365), the rebuild of a parity set, training and self-refresh. -/

namespace Sys2Proof.Machine

/-! ## Events (R362, R363) -/

/-- The classes that HW_ERROR_EVENT reports, with the units that they are reported for (R336, R361). -/
def classFits (cls : Nat) (k : UnitKind) : Bool :=
  match k with
  | .pseudoChannel => [0x10, 0x11, 0x12, 0x18, 0x19, 0x1A, 0x1B, 0x1C].contains cls
  | .core | .cluster | .die | .chunkBuffers => cls == 0x20 || cls == 0x21
  | .ucie => cls == 0x22 || cls == 0x23
  | .port => cls == 0x24 || cls == 0x25
  | .alu => cls == 0x26
  | .paritySet | .sensor => false

/-! ## The ladder (R364) -/

/-- Take a spare row of a unit, if one is left. -/
def State.spareRow (s : State) (k : UnitKind) (u : Nat) : Option State :=
  let key := unitNo k u
  let used := s.err.spares.look 0 key
  if used < Config.spareRows key then some { s with err := { s.err with spares := s.err.spares.put key (used + 1) } }
  else none

/-- A pseudo-channel's fault fences its set, which is counted and recorded (R336, R343). The set fence is the last action of
its ladder. -/
def State.fenceByChannel (s : State) (ch : Nat) : State := (s.fenceSet (ch / 16)).noteError 0x1E .pseudoChannel ch 0 3

/-- A pseudo-channel has failed lastingly: its action, 2 for retirement and 3 for the fence of its set, or 0 when it is
retired already. The retirement is itself an event that is counted (R339, R363): one that its ERR_CLASSCFG makes lasting
takes the action after it, the fence of the set, which its record shows. -/
def State.channelLadder (s : State) (ch : Nat) : State × Nat :=
  let t := s.pset (ch / 16)
  match t.mode with
  | .healthy =>
    let (s, cnt, lasting) := (s.channelFailed ch).classify 0x1D .pseudoChannel ch
    ((if lasting then s.fenceByChannel ch else s).errorRecord 0x1D .pseudoChannel ch 0 cnt (if lasting then 3 else 2) lasting, 2)
  | .fenced => (s, 0)
  | _ => if t.retired = ch % 16 then (s, 0) else (s.fenceByChannel ch, 3)

/-- Count an action on a unit's ladder. -/
def State.countAction (s : State) (k : UnitKind) (u : Nat) : State :=
  let key := unitNo k u
  { s with err := { s.err with ladder := s.err.ladder.put key (s.err.ladder.look 0 key + 1) } }

/-- The actions taken on a unit's ladder. -/
def State.actions (s : State) (k : UnitKind) (u : Nat) : Nat := s.err.ladder.look 0 (unitNo k u)

/-- The next action of a unit whose fault of a class is lasting: the state after it and its code. -/
def State.nextAction (s : State) (cls : Nat) (k : UnitKind) (u : Nat) : State × Nat :=
  match k with
  | .pseudoChannel =>
    if cls ≤ 0x12 then s.channelLadder u
    else match s.spareRow k u with
      | some t => (t, 1)
      | none => s.channelLadder u
  | .core => if s.actions k u = 0 then (s.countAction k u, 1) else (s.fenceCore u, 3)
  | .cluster => if s.actions k u = 0 then (s.countAction k u, 1) else (s.fenceCluster u, 3)
  | .die | .chunkBuffers => if s.actions k u = 0 then (s.countAction k u, 1) else (s, 0)
  | .port => (s.fencePort u, 3)
  | .alu => ({ s with err := { s.err with alus := s.err.alus ||| BitVec.ofNat 9 (2 ^ u) } }, 3)
  | .ucie => if s.actions k u = 0 then (s.countAction k u, 1) else (s.fenceDie (u % 4), 3)
  | .paritySet | .sensor => (s, 0)

/-- An error event of a unit: counted, acted on when it makes the fault lasting, and recorded. Its SEQ. -/
def State.errorEvent (s : State) (cls : Nat) (k : UnitKind) (u addr : Nat) : State × Nat :=
  let (s, cnt, lasting) := s.classify cls k u
  let (s, action) := if lasting then s.nextAction cls k u else (s, 0)
  (s.errorRecord cls k u addr cnt action lasting, s.err.seq)

/-! ## Lines of device memory (R333, R334, R337, R340) -/

/-- The physical address of a protected line of a set by its set-local number. -/
def lineAddr (set m : Nat) : Nat :=
  let hi := m / 1024
  let lo := set ^^^ (hi % 32) ^^^ (hi / 32 % 32)
  (32 * hi + lo) * 65536 + m % 1024 * 64

/-- The stripes of a set. -/
def State.stripes (s : State) : Nat := 32768 * (16 * s.dm.pgran / 15)

/-- A line is unrecoverable: its frame is lost, and an event says so, with its place on the ladder. -/
def State.lineLost (s : State) (pa : Nat) : State :=
  (s.errorEvent 0x1C .pseudoChannel (s.channelOf pa) pa).1.loseFrame (pa / 65536)

/-- A write that has been translated reaches a lost frame (R344): it fails with class LOST, and its copy with it. -/
def State.ntLost (s : State) (w : NtWrite) : State :=
  { (s.errorEvent 0x1C .pseudoChannel (s.channelOf w.key) w.key).1 with
    copies := s.copies.map (fun c => if c.id = w.copy then { c with failed := true } else c) }

/-- A non-temporal write performs (R280, R344): on chip, or in device memory. -/
def State.landNt (s : State) (w : NtWrite) : State :=
  if 2 ^ 40 ≤ w.key then s.write w.key w.bytes w.data
  else if s.rangeLost w.key w.bytes then s.ntLost w
  else s.deviceWrite w.key w.bytes w.data

/-- An uncorrectable error of a line (R337), `other` being another line of its stripe that does not read correctly:
rebuilt from its stripe where that can be, otherwise lost with the other. Whether it is lost. -/
def State.lineUncorrectable (s : State) (pa : Nat) (other : Option Nat) : State × Bool :=
  if 2 ^ 30 * s.dm.pgran ≤ pa then (s.lineLost pa, true)
  else
    let i := s.setOf pa
    let t := s.pset i
    let sigma := s.setLine pa / 15
    match t.mode with
    | .healthy =>
      (match other.filter (fun b => b < 16 && b != s.setLine pa % 15) with
        | none => ((((s.setChannels i).foldl State.wake s).errorEvent 0x1B .pseudoChannel (s.channelOf pa) pa).1, false)
        | some b =>
          let s := s.lineLost pa
          (if b < 15 then s.lineLost (lineAddr i (15 * sigma + b)) else s, true))
    | .makeGood =>
      let s := s.lineLost pa
      (match (if t.isRebuilt sigma then none else t.lostLine sigma) with
        | some j => s.lineLost (lineAddr i (15 * sigma + j))
        | none => s, true)
    | _ => (s.lineLost pa, true)

/-! ## The access that met the error (R87, R98, R337, R361) -/

/-- An access of a core that awaits a result met an uncorrectable error: the destination stays empty and a load error is
pending; in supervisor mode the core is fenced. -/
def State.loadFailed (s : State) (n id : Nat) : State :=
  let x := (s.core n).side (supId id)
  let entry := (x.racc.find? (fun r => r.id == id && r.reads)).map (fun r => (r.pc, r.handler))
  let group := (x.vars.find? (fun v => v.id == id && (match v.kind with
    | .gload .. => true
    | _ => false))).map (fun v => (v.pc, v.handler))
  match entry.or group with
  | none => s
  | some (pc, handler) =>
    if supId id then s.supervisorFault n
    else s.modCore n (fun c =>
      let p := { c.prog with racc := c.prog.racc.filter (fun r => r.id != id), vars := c.prog.vars.filter (fun v => v.id != id) }
      { c with prog := p, loadErrors := c.loadErrors ++ [⟨pc, handler⟩] })

/-- A load or an atomic of fixed latency met an uncorrectable error (R87, R361): its result does not land, its destination
is empty, and a load error is pending with the header address of its bundle; in supervisor mode the core is fenced. -/
def State.fixedFailed (s : State) (n i : Nat) : State :=
  let c := s.core n
  match c.ctx.flight[i]?.bind (fun f => f.site.map (fun pc => (f, pc))) with
  | some (f, header) =>
    if c.inSup then s.supervisorFault n
    else s.modCore n (fun c =>
      let c := c.setCtx { c.ctx with flight := c.ctx.flight.eraseIdx i }
      let c := match f.eff with
        | .sreg r _ => c.setCtx (c.ctx.setEmpty r)
        | .lines spec _ ls => (specLines spec ls.length).foldl (fun c l =>
            if specTile l then { c with cellEmpty := markLanes c.cellEmpty l false lanes true } else c) c
        | .antidiag spec _ _ => { c with cellEmpty := markLanes c.cellEmpty spec true lanes true }
        | _ => c
      { c with loadErrors := c.loadErrors ++ [⟨header, c.progBank.isSome⟩] })
  | none => s

/-- A store or a read of core `n` met an uncorrectable error: a machine error is due, with the record's number. -/
def State.machineError (s : State) (n seq : Nat) : State :=
  if (s.core n).inSup then s.supervisorFault n
  else s.modCore n (fun c => { c with machineErr := some (c.machineErr.getD (BitVec.ofNat 64 seq)) })

/-- A replay beyond the second attempt has served a copy: its planned bound no longer applies (R322, R336). -/
def State.liftBound (s : State) : ErrAccess → State
  | .copyEngine id => { s with copies := s.copies.map (fun c => if c.id = id then { c with lifted := true } else c) }
  | _ => s

/-- A copy that is under way fails. One that has parked makes no access. -/
def State.failCopy (s : State) (id : Nat) : State :=
  { s with copies := s.copies.map (fun c => if c.id = id && c.phase == .started then { c with failed := true } else c) }

/-- What an uncorrectable error does to the access that met it. -/
def State.accessFailed (s : State) (seq : Nat) : ErrAccess → State
  | .none => s
  | .load n id => s.loadFailed n id
  | .fixedLoad n i => s.fixedFailed n i
  | .store n | .array n => s.machineError n seq
  | .copyEngine c => s.failCopy c
  | .skimEngine j e => s.failSkim j 7 e
  | .sequencer i x => s.failRun i 7 (some x)

/-- A hardware error. What becomes of the line is settled before the error's own action, so that the line of an error that
retires its pseudo-channel is still rebuilt from its stripe (R337, R339). -/
def hwError (s : State) (cls : Nat) (k : UnitKind) (u addr : Nat) (a : ErrAccess) (other : Option Nat) : State :=
  if !classFits cls k then s
  else
    let uncorrectable := cls == 0x12 || cls == 0x1A
    let (s, lost) := if uncorrectable then s.lineUncorrectable addr other else (s, false)
    let (s, seq) := s.errorEvent cls k u addr
    if uncorrectable then (if lost then s.accessFailed seq a else s)
    else if cls = 0x11 then s.liftBound a
    else if cls = 0x1C then (s.loseFrame (addr / 65536)).accessFailed seq a
    else if cls = 0x21 then s.accessFailed seq a
    else s

/-- HW_ERROR_EVENT (R363). -/
def execHwErrorEvent (s : State) : Host.Outcome State Fault Refusal :=
  onMove (fun m s => match m with
    | .hwErrorEvent cls k u addr a other => some (hwError s cls k u addr a other)
    | _ => none) s

/-! ## Make-good (R341) -/

/-- Replace a parity set. -/
def State.setPset (s : State) (i : Nat) (t : ParitySet) : State := { s with dm := { s.dm with sets := s.dm.sets.put i t } }

/-- The rebuild visits the next stripe of a set; an uncorrectable error at one of its lines is counted at its pseudo-channel
and loses the lost line and that one; past the last stripe the set is unprotected. -/
def makeGood (s : State) (i : Nat) (bad : Option Nat) : State :=
  let t := s.pset i
  if t.mode ≠ .makeGood then s
  else
    let sigma := t.mgptr
    let s := if sigma < s.stripes ∧ !t.isRebuilt sigma then
        let s := (s.setChannels i).foldl State.wake s
        (match t.lostLine sigma, bad with
          | some j, some b =>
            if b = j ∨ 16 ≤ b then s
            else
              let at_ := lineAddr i (15 * sigma + if b < 15 then b else j)
              let ch := if b < 15 then s.channelOf at_ else 16 * i + sigma % 16
              let s := (s.errorEvent 0x1A .pseudoChannel ch at_).1
              let s := s.lineLost (lineAddr i (15 * sigma + j))
              if b < 15 then s.lineLost (lineAddr i (15 * sigma + b)) else s
          | _, _ => s)
      else s
    let t := s.pset i
    let next := sigma + 1
    if t.mode ≠ .makeGood then s
    else if s.stripes ≤ next then
      s.setPset i { t with mode := .unprotected, mgptr := s.stripes, rebuilt := [] }
    else s.setPset i { t with mgptr := next, rebuilt := t.rebuilt.filter (fun x => next ≤ x) }

/-- MAKE_GOOD_REBUILD (R341). -/
def execMakeGoodRebuild (s : State) : Host.Outcome State Fault Refusal :=
  onMove (fun m s => match m with
    | .makeGoodRebuild i b => some (if i < 32 then makeGood s i b else s)
    | _ => none) s

/-! ## Training and self-refresh (R338) -/

/-- HBM_RETRAIN (R338): a retraining that fails is a lasting fault of the pseudo-channel. -/
def execHbmRetrain (s : State) : Host.Outcome State Fault Refusal :=
  onMove (fun m s => match m with
    | .hbmRetrain ch good => some (if good ∨ 512 ≤ ch then s else (s.channelLadder ch).1)
    | _ => none) s

/-- SELF_REFRESH_ENTRY (R338): a pseudo-channel whose timer has expired, no request having come for DM_IDLE, unless that is
0. A request of the same instant has restarted the timer. -/
def execSelfRefreshEntry (s : State) : Host.Outcome State Fault Refusal :=
  onMove (fun m s => match m with
    | .selfRefreshEntry ch =>
      some (if s.dm.idle = 0 ∨ 512 ≤ ch ∨ s.dm.selfRefresh.contains ch ∨ s.time < s.dm.lastUse.look 0 ch + s.dm.idle then s
        else { s with dm := { s.dm with selfRefresh := s.dm.selfRefresh ++ [ch] } })
    | _ => none) s

/-! ## Ports (R315) -/

/-- PORT_RETRAINING_COMPLETE (R315): a port that is down comes up again, asks for a replay, and sends what has waited; a
retraining that fails is a lasting fault. -/
def execPortRetrainingComplete (s : State) : Host.Outcome State Fault Refusal :=
  onMove (fun m s => match m with
    | .portRetrainingComplete p good =>
      some (if !(s.link p).down ∨ 6 ≤ p then s
        else if good then
          ((((s.setLink p { s.link p with down := false, attempts := 0 }).errorEvent 0x24 .port p 0).1).send
            (.replay p)).drainPort p (s.link p).waiting.length
        else (s.errorEvent 0x25 .port p 0).1)
    | _ => none) s

end Sys2Proof.Machine
end

