-- ==== Sys2Proof/Machine/Keccak.lean ====
section
/-! DEFINITION. SHAKE128 and SHAKE256, which R367 and R368 name and the spec does not write out: the sponge over Keccak-f of
FIPS 202. PRESUMED (log 11). The state is one number of 1,600 bits, so that bytes enter and leave it as a little-endian number,
as records and registers of this model do: lane x + 5y is its digit of 2^64, plane y its digit of 2^320. The offsets and the
constants are computed by the standard's rules, not tabled. -/

namespace Sys2Proof.Machine

/-- Digit `i` of a number in base 2^w. -/
def kDigit (w a i : Nat) : Nat := a / 2 ^ (w * i) % 2 ^ w

/-- The number of five digits in base 2^w. -/
def kFive (w : Nat) (f : Nat → Nat) : Nat := f 0 + 2 ^ w * (f 1 + 2 ^ w * (f 2 + 2 ^ w * (f 3 + 2 ^ w * f 4)))

/-- Rotation of a digit of 2^w to the left, by less than w. -/
def kTurn (w n v : Nat) : Nat := v * 2 ^ n % 2 ^ w + v * 2 ^ n / 2 ^ w

/-- A plane whose lane x is lane x + k of another. -/
def kShift (k plane : Nat) : Nat := kTurn 320 (320 - 64 * k) plane

/-- Every plane receives the parities of the columns beside its own. -/
def kMix (a : Nat) : Nat :=
  let c := kDigit 320 a 0 ^^^ kDigit 320 a 1 ^^^ kDigit 320 a 2 ^^^ kDigit 320 a 3 ^^^ kDigit 320 a 4
  let d := kShift 4 c ^^^ kFive 64 (fun x => kTurn 64 1 (kDigit 64 (kShift 1 c) x))
  a ^^^ kFive 320 (fun _ => d)

/-- Lanes travel one after another along the path that starts at (1, 0): each is turned by the next triangular number and
takes the place of the next on the path. The lane at (0, 0) stays. `t` counts the steps, by fuel. -/
def kTravel (a : Nat) : Nat → Nat → Nat → Nat → Nat
  | 0, _, _, _ => kDigit 64 a 0
  | n + 1, t, x, y =>
    let y' := (2 * x + 3 * y) % 5
    2 ^ (64 * (y + 5 * y')) * kTurn 64 (t * (t + 1) / 2 % 64) (kDigit 64 a (x + 5 * y)) + kTravel a n (t + 1) y y'

/-- Every plane is combined with its neighbours of the same row. -/
def kRows (a : Nat) : Nat :=
  kFive 320 (fun y =>
    let p := kDigit 320 a y
    p ^^^ ((2 ^ 320 - 1 - kShift 1 p) &&& kShift 2 p))

/-- The register that gives the bits of the constants: its next state. -/
def kNext (r : Nat) : Nat := if r < 128 then 2 * r else (2 * r) ^^^ 0x171

/-- The constant of a round from the state of the register, and the state after it: seven bits, bit j at place 2^j - 1. -/
def kConstant : Nat → Nat → Nat → Nat × Nat
  | 0, _, r => (0, r)
  | n + 1, place, r =>
    let (v, s) := kConstant n (2 * place + 1) (kNext r)
    (r % 2 * 2 ^ place + v, s)

/-- Rounds, by their number and the state of the register. -/
def kRoundsFrom : Nat → Nat → Nat → Nat
  | 0, _, a => a
  | n + 1, r, a =>
    let (rc, r') := kConstant 7 0 r
    kRoundsFrom n r' (kRows (kTravel (kMix a) 24 1 1 0) ^^^ rc)

/-- Keccak-f on 1,600 bits: 24 rounds. -/
def keccakF (a : Nat) : Nat := kRoundsFrom 24 1 a

/-- Bytes as a number, the first the lowest. -/
def kNumber (l : List Byte) : Nat := l.foldr (fun b v => b.toNat + 256 * v) 0

/-- The message enters a state `rate` bytes a time, `n` times. -/
def kEnter (rate : Nat) : Nat → List Byte → Nat → Nat
  | 0, _, a => a
  | n + 1, m, a => kEnter rate n (m.drop rate) (keccakF (a ^^^ kNumber (m.take rate)))

/-- `n` times the first `rate` bytes of a state, each followed by the permutation. -/
def kLeave (rate : Nat) : Nat → Nat → List Byte
  | 0, _ => []
  | n + 1, a => (List.range rate).map (fun i => BitVec.ofNat 8 (kDigit 8 a i)) ++ kLeave rate n (keccakF a)

/-- SHAKE at a rate: `n` bytes. The message is followed by the bits 1111 and by 1, zeros and 1 up to a whole block. -/
def shake (rate : Nat) (m : List Byte) (n : Nat) : List Byte :=
  let room := rate - m.length % rate
  let close := (List.range room).map (fun i => BitVec.ofNat 8 ((if i = 0 then 0x1F else 0) + if i + 1 = room then 0x80 else 0))
  (kLeave rate ((n + rate - 1) / rate) (kEnter rate (m.length / rate + 1) (m ++ close) 0)).take n

/-- SHAKE128 and SHAKE256 to `n` bytes. -/
def shake128 (m : List Byte) (n : Nat) : List Byte := shake 168 m n
def shake256 (m : List Byte) (n : Nat) : List Byte := shake 136 m n

end Sys2Proof.Machine
end

