-- ==== Sys2Proof/Machine/MlDsa.lean ====
section
/-! DEFINITION. ML-DSA-65, which R367, R368 and R370 name and the spec does not write out: key generation, signing and
verification of FIPS 204 with the empty context string. PRESUMED (log 11). Polynomials are lists of 256 coefficients modulo
8,380,417; rejection sampling takes from an output of bounded length, and signing tries a bounded number of masks. -/

namespace Sys2Proof.Machine

/-! ## The ring -/

/-- The modulus; the dropped bits of t; the ranges of the masks and of the low bits; the bounds; the dimensions. -/
def dsQ : Nat := 8380417
def dsD : Nat := 13
def dsGamma1 : Nat := 2 ^ 19
def dsGamma2 : Nat := (dsQ - 1) / 32
def dsTau : Nat := 49
def dsBeta : Nat := 196
def dsOmega : Nat := 55
def dsK : Nat := 6
def dsL : Nat := 5

/-- A polynomial. -/
abbrev DsPoly := List Nat

/-- `b^n` modulo the modulus, by the bits of `n` and fuel. -/
def dsPow (b : Nat) : Nat → Nat → Nat
  | 0, _ => 1
  | f + 1, n => if n = 0 then 1 else (dsPow (b * b % dsQ) f (n / 2)) * (if n % 2 = 1 then b else 1) % dsQ

/-- The low 8 bits of a number in reverse. -/
def dsRev (i : Nat) : Nat := (List.range 8).foldl (fun v b => 2 * v + i / 2 ^ b % 2) 0

/-- The points of the transform: powers of 1,753. -/
def dsPoint (i : Nat) : Nat := dsPow 1753 20 (2 * dsRev i + 1)

/-- The value of a polynomial at a point. -/
def dsEval (p : DsPoly) (x : Nat) : Nat := p.foldr (fun c v => (c + x * v) % dsQ) 0

/-- The transform: the values at the 256 points. -/
def dsNtt (p : DsPoly) : DsPoly := (List.range 256).map (fun i => dsEval p (dsPoint i))

/-- The inverse transform; 8,347,681 is the inverse of 256, and the points' inverses are their powers by 511. -/
def dsInv (v : DsPoly) : DsPoly :=
  let terms := v.zipIdx.map (fun (c, i) => (c * 8347681 % dsQ, dsPow (dsPoint i) 20 511))
  ((List.range 256).foldl (fun (st : List (Nat × Nat) × List Nat) _ =>
    (st.1.map (fun (c, x) => (c * x % dsQ, x)), st.2 ++ [st.1.foldl (fun a t => a + t.1) 0 % dsQ])) (terms, [])).2

/-- Sums, differences and products by coefficients. -/
def dsAdd (a b : DsPoly) : DsPoly := (a.zip b).map (fun (x, y) => (x + y) % dsQ)
def dsSub (a b : DsPoly) : DsPoly := (a.zip b).map (fun (x, y) => (x + dsQ - y) % dsQ)
def dsMul (a b : DsPoly) : DsPoly := (a.zip b).map (fun (x, y) => x * y % dsQ)

/-- The zero polynomial. -/
def dsZero : DsPoly := List.replicate 256 0

/-- The product of a row of a matrix and a vector, all transformed. -/
def dsDot (a b : List DsPoly) : DsPoly := (a.zip b).foldl (fun s (x, y) => dsAdd s (dsMul x y)) dsZero

/-- The representative nearest to zero, and its magnitude. -/
def dsCentre (x : Nat) : Int := if dsQ / 2 < x % dsQ then (x % dsQ : Int) - dsQ else (x % dsQ : Int)
def dsOfInt (x : Int) : Nat := (x % (dsQ : Int)).toNat

/-- Whether every coefficient is below a bound in magnitude. -/
def dsBelow (b : Nat) (p : DsPoly) : Bool := p.all (fun x => (dsCentre x).natAbs < b)

/-! ## Packing -/

/-- The bytes of a list of numbers of `w` bits. -/
def dsPack (w : Nat) (l : List Nat) : List Byte :=
  let v := l.foldr (fun x a => x % 2 ^ w + 2 ^ w * a) 0
  (List.range (w * l.length / 8)).map (fun i => BitVec.ofNat 8 (v >>> (8 * i)))

/-- The 256 numbers of `w` bits that bytes hold. -/
def dsUnpack (w : Nat) (l : List Byte) : List Nat :=
  let v := kNumber l
  (List.range 256).map (fun i => v >>> (w * i) % 2 ^ w)

/-- Parts of `n` bytes. -/
def dsParts (n k : Nat) (l : List Byte) : List (List Byte) := (List.range k).map (fun i => (l.drop (n * i)).take n)

/-- Little-endian bytes of a small number. -/
def dsInt (n v : Nat) : List Byte := (List.range n).map (fun i => BitVec.ofNat 8 (v / 256 ^ i))

/-- A sequence cut or filled to 256. -/
def dsFill (l : List Nat) : DsPoly := (l ++ dsZero).take 256

/-! ## Sampling -/

/-- A polynomial of the matrix, transformed already. -/
def dsUniform (seed : List Byte) : DsPoly :=
  let b := shake128 seed 1344
  dsFill ((List.range 448).filterMap (fun i =>
    let z := kNumber ((b.drop (3 * i)).take 3) % 2 ^ 23
    if z < dsQ then some z else none))

/-- The matrix of a seed, by rows. -/
def dsMatrix (rho : List Byte) : List (List DsPoly) :=
  (List.range dsK).map (fun r => (List.range dsL).map (fun s => dsUniform (rho ++ [BitVec.ofNat 8 s, BitVec.ofNat 8 r])))

/-- A polynomial with coefficients from -4 to 4. -/
def dsSmall (seed : List Byte) : DsPoly :=
  dsFill ((shake256 seed 544).flatMap (fun b =>
    [b.toNat % 16, b.toNat / 16].filterMap (fun z => if z < 9 then some ((dsQ + 4 - z) % dsQ) else none)))

/-- A vector of masks. -/
def dsMask (rho : List Byte) (kappa : Nat) : List DsPoly :=
  (List.range dsL).map (fun r =>
    (dsUnpack 20 (shake256 (rho ++ dsInt 2 (kappa + r)) 640)).map (fun v => (dsQ + dsGamma1 - v) % dsQ))

/-- Put one sign of the challenge after another: the places still to come, the bytes left, the polynomial; by fuel. -/
def dsBallFrom (signs : Nat) : Nat → Nat → List Byte → DsPoly → DsPoly
  | 0, _, _, c => c
  | f + 1, i, bs, c =>
    if 256 ≤ i then c
    else match bs with
      | [] => c
      | b :: bs =>
        if i < b.toNat then dsBallFrom signs f i bs c
        else
          let c := c.set i (c.getD b.toNat 0)
          let v := if signs >>> (i + dsTau - 256) % 2 = 1 then dsQ - 1 else 1
          dsBallFrom signs f (i + 1) bs (c.set b.toNat v)

/-- The challenge: 49 coefficients of 1 or -1. -/
def dsBall (seed : List Byte) : DsPoly :=
  let b := shake256 seed 544
  dsBallFrom (kNumber (b.take 8)) 544 (256 - dsTau) (b.drop 8) dsZero

/-! ## High and low bits, hints -/

/-- High and low part by steps of twice the low range. -/
def dsDecompose (r : Nat) : Nat × Int :=
  let a := 2 * dsGamma2
  let m := r % dsQ % a
  let r0 : Int := if dsGamma2 < m then (m : Int) - a else m
  if (r % dsQ : Int) - r0 = dsQ - 1 then (0, r0 - 1) else ((((r % dsQ : Int) - r0) / a).toNat, r0)

/-- The rounded high part of t and what it leaves. -/
def dsRound (r : Nat) : Nat × Int :=
  let m := r % 2 ^ dsD
  let r0 : Int := if 2 ^ (dsD - 1) < m then (m : Int) - 2 ^ dsD else m
  ((((r : Int) - r0) / 2 ^ dsD).toNat, r0)

/-- The high part that a hint gives. -/
def dsUseHint (h : Bool) (r : Nat) : Nat :=
  let (r1, r0) := dsDecompose r
  if h then (if 0 < r0 then (r1 + 1) % 16 else (r1 + 15) % 16) else r1

/-- The packing of the high parts of a vector. -/
def dsHighBytes (w : List DsPoly) : List Byte := w.flatMap (fun p => dsPack 4 p)

/-- The packing of hints: the places by polynomials, then where each polynomial's places end. -/
def dsPackHints (h : List (List Bool)) : List Byte :=
  let places := h.map (fun p => (List.range 256).filter (fun j => p.getD j false))
  let ends := (List.range dsK).map (fun i => ((places.take (i + 1)).map List.length).foldl (· + ·) 0)
  let l := places.flatten
  ((l ++ List.replicate (dsOmega - l.length) 0) ++ ends).map (BitVec.ofNat 8)

/-- The hints that bytes hold, if they are well formed. -/
def dsUnpackHints (y : List Byte) : Option (List (List Bool)) :=
  let at_ (i : Nat) : Nat := (y.getD i 0).toNat
  let ends := (List.range dsK).map (fun i => at_ (dsOmega + i))
  let starts := 0 :: ends
  let good := (List.range dsK).all (fun i => starts.getD i 0 ≤ ends.getD i 0 && ends.getD i 0 ≤ dsOmega &&
      (List.range dsOmega).all (fun j =>
        !(starts.getD i 0 < j && j < ends.getD i 0) || at_ (j - 1) < at_ j)) &&
    (List.range dsOmega).all (fun j => !(ends.getD (dsK - 1) 0 ≤ j) || at_ j == 0)
  if good then
    some ((List.range dsK).map (fun i =>
      let ps := (List.range dsOmega).filterMap (fun j =>
        if starts.getD i 0 ≤ j && j < ends.getD i 0 then some (at_ j) else none)
      (List.range 256).map (fun c => ps.contains c)))
  else none

/-! ## Keys -/

/-- The parts of a key pair: the matrix's seed, the signing key's seed, the secret vectors and t. -/
structure DsKey where
  rho : List Byte
  key : List Byte
  s1  : List DsPoly
  s2  : List DsPoly
  t   : List DsPoly
  deriving DecidableEq, Repr

/-- Key generation from a seed of 32 bytes. -/
def dsKeyGen (seed : List Byte) : DsKey :=
  let h := shake256 (seed ++ [6, 5]) 128
  let rho := h.take 32
  let rho' := (h.drop 32).take 64
  let s1 := (List.range dsL).map (fun r => dsSmall (rho' ++ dsInt 2 r))
  let s2 := (List.range dsK).map (fun r => dsSmall (rho' ++ dsInt 2 (r + dsL)))
  let s1n := s1.map dsNtt
  let t := ((dsMatrix rho).zip s2).map (fun (row, s) => dsAdd (dsInv (dsDot row s1n)) s)
  { rho := rho, key := h.drop 96, s1 := s1, s2 := s2, t := t }

/-- The public key: 1,952 bytes. -/
def DsKey.public (k : DsKey) : List Byte := k.rho ++ k.t.flatMap (fun p => dsPack 10 (p.map (fun x => (dsRound x).1)))

/-- The representative of a message: domain 0, the empty context string, the message. -/
def dsDigest (pk m : List Byte) : List Byte := shake256 (shake256 pk 64 ++ [0, 0] ++ m) 64

/-! ## Signing -/

/-- One attempt to sign. -/
def dsAttempt (k : DsKey) (a : List (List DsPoly)) (mu rho : List Byte) (kappa : Nat) : Option (List Byte) :=
  let y := dsMask rho kappa
  let yn := y.map dsNtt
  let w := a.map (fun row => dsInv (dsDot row yn))
  let ct := shake256 (mu ++ dsHighBytes (w.map (fun p => p.map (fun x => (dsDecompose x).1)))) 48
  let c := dsNtt (dsBall ct)
  let times (p : DsPoly) : DsPoly := dsInv (dsMul c (dsNtt p))
  let z := (y.zip k.s1).map (fun (p, s) => dsAdd p (times s))
  let r := (w.zip k.s2).map (fun (p, s) => dsSub p (times s))
  let low := r.all (fun p => p.all (fun x => (dsDecompose x).2.natAbs < dsGamma2 - dsBeta))
  if !z.all (dsBelow (dsGamma1 - dsBeta)) || !low then none
  else
    let ct0 := k.t.map (fun p => times (p.map (fun x => dsOfInt (dsRound x).2)))
    let h := (r.zip ct0).map (fun (p, u) => (p.zip u).map (fun (x, e) =>
      (dsDecompose ((x + e) % dsQ)).1 != (dsDecompose x).1))
    let ones := (h.map (fun p => p.countP id)).foldl (· + ·) 0
    if !ct0.all (dsBelow dsGamma2) || dsOmega < ones then none
    else some (ct ++ z.flatMap (fun p => dsPack 20 (p.map (fun x => ((dsGamma1 : Int) - dsCentre x).toNat))) ++ dsPackHints h)

/-- Attempts until one succeeds, by fuel. -/
def dsTry (k : DsKey) (a : List (List DsPoly)) (mu rho : List Byte) : Nat → Nat → List Byte
  | 0, _ => []
  | f + 1, kappa =>
    match dsAttempt k a mu rho kappa with
    | some sig => sig
    | none => dsTry k a mu rho f (kappa + dsL)

/-- The signature of a message under the key of a seed, with 32 bytes of randomness: 3,309 bytes. -/
def dsSign (seed noise m : List Byte) : List Byte :=
  let k := dsKeyGen seed
  let mu := dsDigest k.public m
  dsTry k (dsMatrix k.rho) mu (shake256 (k.key ++ noise ++ mu) 64) 4096 0

/-- Verification of a signature of a message under a public key. -/
def dsVerify (pk m sig : List Byte) : Bool :=
  let a := dsMatrix (pk.take 32)
  let t1 := (dsParts 320 dsK (pk.drop 32)).map (dsUnpack 10)
  let ct := sig.take 48
  let z := (dsParts 640 dsL (sig.drop 48)).map (fun b => (dsUnpack 20 b).map (fun v => (dsQ + dsGamma1 - v) % dsQ))
  match dsUnpackHints (sig.drop 3248) with
  | none => false
  | some h =>
    let c := dsNtt (dsBall ct)
    let zn := z.map dsNtt
    let w := (a.zip t1).map (fun (row, t) =>
      dsInv (dsSub (dsDot row zn) (dsMul c (dsNtt (t.map (fun x => x * 2 ^ dsD % dsQ))))))
    let w1 := (w.zip h).map (fun (p, hs) => (p.zip hs).map (fun (x, b) => dsUseHint b x))
    pk.length == 1952 && sig.length == 3309 && z.all (dsBelow (dsGamma1 - dsBeta)) &&
      ct == shake256 (dsDigest pk m ++ dsHighBytes w1) 48

end Sys2Proof.Machine
end

