-- ==== Sys2Proof/Machine/Security.lean ====
section
/-! DEFINITION. Reset, boot, measurement, the mailbox and attestation, alarms, power, cooling and the sideband (R366 to
R375). SHAKE256 and ML-DSA-65 are in Machine/Keccak.lean and Machine/MlDsa.lean. -/

namespace Sys2Proof.Machine

/-! ## Images (R367, R368) -/

/-- Bytes of a list from an offset. -/
def slice (l : List Byte) (off n : Nat) : List Byte := (l.drop off).take n

/-- A little-endian word of 4 bytes of an image. -/
def imageWord (l : List Byte) (off : Nat) : Nat := ofBytes (slice l off 4)

/-- SHAKE256 to 512 bits. -/
def digest512 (l : List Byte) : BitVec 512 := BitVec.ofNat 512 (ofBytes (shake256 l 64))

/-- A 512-bit digest of an image's header. -/
def imageDigest (l : List Byte) : BitVec 512 := BitVec.ofNat 512 (ofBytes (slice l 16 64))

/-- The verification of an image: the code of the failure, or its SVN and its digest. -/
def verifyImage (l : List Byte) : Except Nat (Nat × BitVec 512) :=
  let svn := imageWord l 4
  let key := imageWord l 8
  let len := imageWord l 12
  if l.length < 5344 ∨ imageWord l 0 ≠ 0x46544C58 ∨ 3 < key ∨ (slice l 5341 3).any (fun b => b != 0) ∨ l.length < 5344 + len then
    .error 0x87
  else if digest512 (slice l 5344 len) ≠ imageDigest l then .error 0x82
  else if digest512 (slice l 80 1952) ≠ Config.fusedKey key ∨
      !dsVerify (slice l 80 1952) (slice l 0 2032) (slice l 2032 3309) then .error 0x83
  else if Config.keyRevoked key then .error 0x84
  else if svn < Config.minSvn then .error 0x85
  else .ok (svn, imageDigest l)

/-- Extend a measurement register with a digest. -/
def State.extend (s : State) (i : Nat) (d : BitVec 512) : State :=
  let old := s.sec.meas.look 0 i
  { s with sec := { s.sec with meas := s.sec.meas.put i (digest512 (toBytes 64 old.toNat ++ toBytes 64 d.toNat)) } }

/-! ## Boot (R366) -/

/-- Boot halts with a code; the device is in recovery. -/
def State.bootFail (s : State) (code : Nat) : State :=
  { s with sec := { s.sec with phase := .recovery, status := BitVec.ofNat 8 code } }

/-- A core's on-chip SRAM beside its scratchpad reads zero (R361): the matrix register file and the array state. -/
def Core.clearSram (c : Core) : Core :=
  { c with tiles := [], arr := { c.arr with bufA := 0, bufB := 0, planeA := 0, planeB := 0, sc := 0, acc := [],
                                            anchor0 := 0, anchor1 := 0 } }

/-- On-chip SRAM reads zero: scratchpads, chunk buffers, and what the cores hold. -/
def State.clearSram (s : State) : State :=
  { s with mem := s.mem.filter (fun c => c.1 < 2 ^ 40), cores := s.cores.map (fun (n, c) => (n, c.clearSram)) }

/-- Steps 6 and 7. -/
def State.bootEnd (s : State) (trained : Bool) : State :=
  if trained then
    let queues := (List.range 80).map (fun q => (q, { s.queue q with disabled := false }))
    let s := s.clearSram
    { s with dm := { s.dm with ready := true }, sched := { s.sched with queues := queues },
             sec := { s.sec with phase := .ready, status := 0x0F } }
  else s.bootFail 0x86

/-- Steps 3 to 7: component `i` and those after it are verified and measured. -/
def State.bootImages (s : State) (trained : Bool) : Nat → List (List Byte) → State
  | _, [] => s.bootEnd trained
  | i, l :: ls =>
    match verifyImage l with
    | .error code => s.bootFail code
    | .ok (svn, d) =>
      let s := s.extend i d
      let sec := { s.sec with svns := s.sec.svns.put i (BitVec.ofNat 32 svn), verified := true }
      { s with sec := sec }.bootImages trained (i + 1) ls

/-- The package as a reset leaves it: device memory, the level kept in SEC_STATUS, and the model's own record of what it
has sent and has still to do. -/
def State.afterReset (s : State) (mem : List Host.Cell) (level : Nat) : State :=
  { State.reset with mem := mem, out := s.out, agenda := s.agenda, turn := s.turn, free := s.free,
                     sec := { Security.start with level := level } }

/-- Reset is released and boot runs, up to the image that it awaits in the mailbox. -/
def resetRelease (s : State) (b : BootInput) : State :=
  let s := s.afterReset (s.mem.filter (fun c => c.1 < 2 ^ 40)) s.sec.level
  let s := { s with sec := { s.sec with bootSrc := b.bootSrc } }
  if b.bootSrc then { s with sec := { s.sec with phase := .awaiting } }
  else match b.images with
    | [] => s.bootFail 0x81
    | ls => s.bootImages b.trained 0 (ls.take 8)

/-- RESET_RELEASE (R366). -/
def execResetRelease (s : State) : Host.Outcome State Fault Refusal :=
  onMove (fun m s => match m with
    | .resetRelease b => some (resetRelease s b)
    | _ => none) s

/-- POWER_CYCLE (R372): every memory and SEC_STATUS lose what they held. -/
def execPowerCycle (s : State) : Host.Outcome State Fault Refusal :=
  onMove (fun m s => match m with
    | .powerCycle => some (s.afterReset [] 0)
    | _ => none) s

/-! ## The mailbox (R369, R370) -/

/-- The first LEN bytes of MBOX_DATA. -/
def Security.payload (c : Security) : List Byte := (List.range c.len).map (fun i => c.data.look 0 i)

/-- Bytes as a sparse array. -/
def sparseBytes (l : List Byte) : FMap Byte := (l.zipIdx.filter (fun (b, _) => b != 0)).map (fun (b, i) => (i, b))

/-- A command has finished: DONE, RESULT, CMD and the vector of the reply. -/
def State.mboxDone (s : State) (result : Nat) : State :=
  { s with sec := { s.sec with done := true, result := result, lastCmd := s.sec.running } }.send (.msix 2044)

/-- Run a mailbox command when it has been started and is one of those asked for. -/
def State.mboxRun (s : State) (want : Nat → Bool) (f : State → State) : State :=
  if !s.sec.done && want s.sec.running then f s else s

/-- SEC_STATUS. -/
def Security.statusWord (c : Security) : Nat := c.fired.toNat * 4 + c.level % 4

/-- Exactly `n` bytes of a list. -/
def fitBytes (n : Nat) (l : List Byte) : List Byte := l.take n ++ List.replicate (n - l.length) 0

/-- The seed of the identity key: the fused one, or zero once the key has been erased. -/
def Security.seed (c : Security) : List Byte := toBytes 32 (if c.erased then 0 else Config.identitySeed.toNat)

/-- The signed part of an attestation. -/
def State.attested (s : State) (nonce : List Byte) : List Byte :=
  toBytes 4 0x41544C58 ++ toBytes 4 2576 ++ nonce ++ fitBytes 16 Config.serial ++ toBytes 8 s.self ++
  (List.range 8).flatMap (fun i => toBytes 4 (s.sec.svns.look 0 i).toNat) ++
  (List.range 8).flatMap (fun i => toBytes 64 (s.sec.meas.look 0 i).toNat) ++
  toBytes 8 s.sec.statusWord ++ toBytes 8 s.time ++ (dsKeyGen s.sec.seed).public

/-- An attestation; the randomness of its signature is a free value. -/
def attest (s : State) : State :=
  if s.sec.len ≠ 32 ∨ !s.sec.verified then s.mboxDone 1
  else
    let body := s.attested s.sec.payload
    let sig := dsSign s.sec.seed (toBytes 32 (Config.signingNoise s.free).toNat) body
    { s with free := s.free + 1,
             sec := { s.sec with data := sparseBytes (body ++ sig ++ [0, 0, 0]), len := 5888 } }.mboxDone 0

/-- MBOX_ATTEST (R370). -/
def execMboxAttest (s : State) : Host.Outcome State Fault Refusal :=
  onMove (fun m s => match m with
    | .mboxAttest => some (s.mboxRun (· == 1) attest)
    | _ => none) s

/-- Whether an image is taken through the mailbox: in recovery, and in step 2 with BOOTSRC 1. -/
def Security.takesImage (c : Security) : Bool := c.phase == .recovery || c.phase == .awaiting

/-- MBOX_IMAGE_CHUNK (R369). -/
def execMboxImageChunk (s : State) : Host.Outcome State Fault Refusal :=
  onMove (fun m s => match m with
    | .mboxImageChunk => some (s.mboxRun (· == 2) (fun s =>
        if !s.sec.takesImage ∨ 2 ^ 26 < s.sec.image.length + s.sec.len then s.mboxDone 1
        else { s with sec := { s.sec with image := s.sec.image ++ s.sec.payload } }.mboxDone 0))
    | _ => none) s

/-- MBOX_IMAGE_END (R369): the assembled image, then the further components that its firmware finds. -/
def execMboxImageEnd (s : State) : Host.Outcome State Fault Refusal :=
  onMove (fun m s => match m with
    | .mboxImageEnd more trained => some (s.mboxRun (· == 3) (fun s =>
        if s.sec.takesImage then
          let image := s.sec.image
          ({ s with sec := { s.sec with image := [] } }.bootImages trained 0 ((image :: more).take 8)).mboxDone 0
        else s.mboxDone 1))
    | _ => none) s

/-- MBOX_IMAGE_RESET (R369). -/
def execMboxImageReset (s : State) : Host.Outcome State Fault Refusal :=
  onMove (fun m s => match m with
    | .mboxImageReset => some (s.mboxRun (· == 4) (fun s => { s with sec := { s.sec with image := [] } }.mboxDone 0))
    | _ => none) s

/-- MBOX_UNKNOWN_COMMAND (R369). -/
def execMboxUnknownCommand (s : State) : Host.Outcome State Fault Refusal :=
  onMove (fun m s => match m with
    | .mboxUnknownCommand => some (s.mboxRun (fun c => c == 0 || 5 ≤ c) (fun s => s.mboxDone 2))
    | _ => none) s

/-! ## Alarms (R371, R372) -/

/-- SEC_POLICY keeps what is written until it is locked. -/
def State.writePolicy (s : State) (v : W64) : State :=
  if bit s.sec.policy 63 then s else { s with sec := { s.sec with policy := v &&& 0x80000000000000FF } }

/-- SEC_POLICY_WRITE (R371). -/
def execSecPolicyWrite (s : State) : Host.Outcome State Fault Refusal :=
  onMove (fun m s => match m with
    | .secPolicyWrite v => some (s.writePolicy v)
    | _ => none) s

/-- Halt: every core stops, the ports are held down, the queues are disabled. -/
def State.halt (s : State) : State :=
  let cores := s.cores.map (fun (n, c) => (n, if c.mode = .fenced then c else { c with mode := .idle, launch := none, claim := none }))
  let queues := s.sched.queues.map (fun (q, u) => (q, { u with disabled := true }))
  { s with cores := cores, sched := { s.sched with queues := queues }, sec := { s.sec with halted := true },
           coll := { s.coll with links := (List.range 6).map (fun p => (p, { s.link p with down := true })) } }

/-- Erase: the keys are gone and on-chip memory reads zero. -/
def State.erase (s : State) : State := { s.clearSram with sec := { s.clearSram.sec with erased := true } }

/-- The level of a sensor under SEC_POLICY: 1 log, 2 halt, 3 erase. -/
def Security.levelOf (c : Security) (i : Nat) : Nat := max 1 (c.policy.toNat >>> (2 * i) % 4)

/-- Sensors raise an alarm. -/
def alarm (s : State) (sensors : BitVec 4) : State :=
  let on := bitsOf 4 sensors.toNat
  if on.isEmpty then s
  else
    let level := (on.map s.sec.levelOf).foldl max 1
    let s := on.foldl (fun s i => s.noteError 0x29 .sensor i 0 (if 2 ≤ level then 4 else 0)) s
    let s := (s.send (.msix 2043)).send .inBand
    let s := { s with sec := { s.sec with fired := s.sec.fired ||| sensors, level := max level s.sec.level } }
    let s := if 2 ≤ level then s.halt else s
    if 3 ≤ level then s.erase else s

/-- SENSOR_ALARM (R371, R372). -/
def execSensorAlarm (s : State) : Host.Outcome State Fault Refusal :=
  onMove (fun m s => match m with
    | .sensorAlarm x => some (alarm s x)
    | _ => none) s

/-! ## Power and cooling (R373, R374) -/

/-- The clock goes to another step: vector 2,045. -/
def State.clockStep (s : State) (k : Nat) : State :=
  if k = s.pow.step then s else { s with pow := { s.pow with step := k } }.send (.msix 2045)

/-- One millisecond of the power manager. -/
def powerTick (s : State) (power : Nat) : State :=
  let cap := min s.pow.cap s.pow.sideCap
  let low := 10 * power < 9 * cap
  let ticks := if low then s.pow.lowTicks + 1 else 0
  let up := 10 ≤ ticks
  let s := { s with pow := { s.pow with power := power, lowTicks := if up then 0 else ticks } }
  if cap < power then s.clockStep (min 7 (s.pow.step + 1))
  else if up ∧ !s.pow.hot then s.clockStep (s.pow.step - 1)
  else s

/-- POWER_MANAGER_TICK (R373). -/
def execPowerManagerTick (s : State) : Host.Outcome State Fault Refusal :=
  onMove (fun m s => match m with
    | .powerManagerTick p => some (powerTick s p)
    | _ => none) s

/-- One millisecond of the temperature control: from 100 °C until below 95 °C the clock drops a step. -/
def thermalTick (s : State) (temp : Nat) : State :=
  let hot := 100 ≤ temp || (s.pow.hot && 95 ≤ temp)
  let s := { s with pow := { s.pow with temp := temp, hot := hot } }
  if hot ∧ s.pow.step < 7 then ((s.noteError 0x28 .sensor 0 0 0).clockStep (s.pow.step + 1)).send .inBand else s

/-- THERMAL_STEP_TICK (R374). -/
def execThermalStepTick (s : State) : Host.Outcome State Fault Refusal :=
  onMove (fun m s => match m with
    | .thermalStepTick t => some (if t < 110 then thermalTick s t else s)
    | _ => none) s

/-- THERMAL_TRIP (R374): at 110 °C the package halts. -/
def execThermalTrip (s : State) : Host.Outcome State Fault Refusal :=
  onMove (fun m s => match m with
    | .thermalTrip t =>
      some (if t < 110 then s
        else ({ s with pow := { s.pow with temp := t, hot := true } }.noteError 0x28 .sensor 0 0 4).halt)
    | _ => none) s

/-! ## The sideband (R375) -/

/-- The address at which the target answers: the dynamic one, once ENTDAA has given it, and until then the straps'. -/
def State.i3cAddress (s : State) : BitVec 7 := s.pow.address.getD Config.strapAddress

/-- A transfer to an address is the target's own when it names its address. -/
def State.i3cTo (s : State) (a : BitVec 7) (t : State) : State := if a = s.i3cAddress then t else s

/-- I3C_TELEMETRY_READ (R375). -/
def execI3cTelemetryRead (s : State) : Host.Outcome State Fault Refusal :=
  onMove (fun m s => match m with
    | .i3cTelemetryRead a =>
      some (s.i3cTo a (s.send (.telemetry s.pow.power s.pow.temp ((List.range 16).map (fun i => s.pow.telemetry.look 0 i))
        s.pow.step s.err.ring.head)))
    | _ => none) s

/-- I3C_CAP_WRITE (R375). -/
def execI3cCapWrite (s : State) : Host.Outcome State Fault Refusal :=
  onMove (fun m s => match m with
    | .i3cCapWrite a v =>
      some (s.i3cTo a (if 800 ≤ v ∧ v ≤ 2400 then { s with pow := { s.pow with sideCap := v } } else s))
    | _ => none) s

/-- I3C_STATUS_READ (R375). -/
def execI3cStatusRead (s : State) : Host.Outcome State Fault Refusal :=
  onMove (fun m s => match m with
    | .i3cStatusRead a => some (s.i3cTo a (s.send (.status s.sec.statusWord s.sec.status.toNat)))
    | _ => none) s

/-- The fenced cores, as FENCE_MAP holds them (R365). -/
def State.fencedCores (s : State) : BitVec 1024 :=
  BitVec.ofNat 1024 (s.cores.foldl (fun m (n, c) => if c.mode = .fenced then m + 2 ^ n else m) 0)

/-- The fenced parity sets. -/
def State.fencedSets (s : State) : BitVec 32 :=
  BitVec.ofNat 32 (s.dm.sets.foldl (fun m (i, t) => if t.mode = .fenced then m + 2 ^ i else m) 0)

/-- I3C_FENCE_MAP_READ (R375). -/
def execI3cFenceMapRead (s : State) : Host.Outcome State Fault Refusal :=
  onMove (fun m s => match m with
    | .i3cFenceMapRead a =>
      some (s.i3cTo a (s.send (.fenceMap s.fencedCores s.err.clusters s.fencedSets s.err.ports s.err.alus)))
    | _ => none) s

/-- I3C_UNKNOWN_COMMAND (R375). -/
def execI3cUnknownCommand (s : State) : Host.Outcome State Fault Refusal :=
  onMove (fun m s => match m with
    | .i3cUnknownCommand a c => some (s.i3cTo a (if 1 ≤ c ∧ c ≤ 4 then s else s.send .nack))
    | _ => none) s

/-- ENTDAA (R375): the target takes its dynamic address. -/
def execEntdaa (s : State) : Host.Outcome State Fault Refusal :=
  onMove (fun m s => match m with
    | .entdaa a => some { s with pow := { s.pow with address := some a } }
    | _ => none) s

end Sys2Proof.Machine
end

