-- ==== Sys2Proof/Machine/Registers.lean ====
section
/-! DEFINITION. The registers window (R286, R323 to R329, R332, R354 to R360): what each register reads and what a write to
it does; the events that are writes to it; the host's device-memory window. -/

namespace Sys2Proof.Machine

open Sys2Proof.Num

/-! ## Translation control (R323, R327, R329) -/

/-- XL_ROOT: every translation made from now on walks the new table. -/
def State.writeRoot (s : State) (v : W64) : State :=
  { s with xl := { s.xl with root := v &&& 0xFFFFFFFFF000, tlb := [], walks := [], epoch := s.xl.epoch + 1 } }

/-- XL_INVAL: an invalidation starts. -/
def State.writeInval (s : State) (v : W64) : State :=
  let size := (fld 3 v 60).toNat
  if 4 ≤ size then s
  else
    let n := [2 ^ 16, 2 ^ 21, 2 ^ 30, 2 ^ 39].getD size 0
    let va := v.toNat / 2 ^ 16 % 2 ^ 32 * 2 ^ 16
    let i : Inval := { all := bit v 63, base := va / n * n, size := n, ctr := some (fld 12 v 48).toNat, epoch := s.xl.epoch }
    { s with xl := { s.xl with epoch := s.xl.epoch + 1, invals := s.xl.invals ++ [i] } }

/-- Non-temporal writes that are accepted perform (R280). -/
def State.performNt (s : State) : State := { s.nt.foldl State.landNt s with nt := [] }

/-- Whether an invalidation covers a range of virtual addresses that was read at an epoch, before it was written. -/
def Inval.meets (i : Inval) (epoch base size : Nat) : Bool :=
  epoch ≤ i.epoch && (i.all || (base < i.base + i.size && i.base < base + size))

/-- Whether an invalidation covers a translation, which is one of its leaf's whole page, or a pointer of a walk cache. -/
def Inval.covers (i : Inval) (e : TlbEntry) : Bool := i.meets e.epoch (e.vpage * 65536 / e.size * e.size) e.size
def Inval.coversWalk (i : Inval) (w : WalkEntry) : Bool :=
  i.meets w.epoch (w.index * 2 ^ levelShift w.level) (2 ^ levelShift w.level)

/-- The first invalidation completes: no TLB and no walk cache holds what it covers, what was translated through such an
entry has performed, and its counter is added to. -/
def invalComplete (s : State) : State :=
  match s.xl.invals with
  | [] => s
  | i :: is =>
    let s := s.performNt
    let s := { s with xl := { s.xl with invals := is, tlb := s.xl.tlb.filter (fun e => !i.covers e),
                                        walks := s.xl.walks.filter (fun w => !i.coversWalk w) } }
    match i.ctr with
    | some c => s.addCounter c 1
    | none => s

/-- A parked copy is taken up again at PROGRESS, or has failed. -/
def State.releaseCopy (s : State) (id : Nat) (failed : Bool) : State :=
  { s with copies := s.copies.map (fun c =>
      if c.id = id then { c with phase := .started, failed := c.failed || failed, data := [], done := [], sent := [] } else c) }

/-- A parked request retranslates, or ends as failed. -/
def State.settle (s : State) (q : Request) (id : BitVec 16) (abort : Bool) : State :=
  match q.kind with
  | .copy => s.releaseCopy q.ident abort
  | .skim => if abort then s.abortSkim q else s.resumeSkim q id
  | .sequencer => if abort then s.abortSequencer q else s.resumeSequencer q
  | .fabric => if abort then s.abortFabric q.ident else s

/-- XL_RESOLVE: a parked request is settled, and the accesses of other packages that were kept and can go on do. -/
def State.resolve (s : State) (id : BitVec 16) (abort : Bool) : State :=
  match s.xl.parked.find id.toNat with
  | none => s
  | some q =>
    ({ s with xl := { s.xl with parked := s.xl.parked.drop id.toNat } }.settle q id abort).retryFabric

/-! ## Device memory configuration (R332) -/

/-- DM_CONFIG. -/
def State.writeDmConfig (s : State) (v : W64) : State :=
  let p := v.toNat % 2 ^ 9
  if s.dm.locked ∨ p % 15 ≠ 0 ∨ 360 < p then { s with dm := { s.dm with latewr := saturate32 (s.dm.latewr + 1) } }
  else { s with dm := { s.dm with pgran := p, locked := true } }

/-! ## Interrupt entries (R358) -/

/-- A half of an EVT_IRQ entry. -/
def State.writeIrq (s : State) (e : Nat) (high : Bool) (v : W64) : State :=
  let old := s.irqs.look 0 e
  if !high && 2039 < v.toNat / 2 ^ 16 % 2 ^ 11 then s
  else
    let new : BitVec 128 := if high then v ++ old.setWidth 64 else BitVec.ofNat 64 (old.toNat / 2 ^ 64) ++ (v &&& 0x8000000007FF0FFF)
    { s with irqs := s.irqs.put e new }.testIrqs (new.toNat % 2 ^ 12)

/-! ## Cores under system software (R360) -/

/-- CORE_CTL.FENCE. -/
def ctlFence (s : State) (n : Nat) : State := s.fenceCore n

/-- CORE_CTL.END: the core stops; its claim is a step failure; its copies and handles are still to be settled. -/
def ctlEnd (s : State) (n : Nat) : State :=
  let c := s.core n
  if c.mode = .idle ∨ c.mode = .exited ∨ c.mode = .fenced then s
  else
    let s := s.modCore n (fun c =>
      { c with mode := .exiting, ending := true, preempt := none, progBank := none, sysBank := none,
               prog := { c.prog with flight := [], vars := [], cur := none } })
    if (s.core n).claim.isSome then s.stepFailure n else s

/-- CORE_CTL.STOP: a bundle-boundary pre-emption request. -/
def ctlStop (s : State) (n : Nat) : State :=
  s.modCore n (fun c =>
    if c.mode = .program ∨ c.mode = .trapping ∨ c.mode = .supervisor then { c with preempt := some true } else c)

/-- CORE_CTL as it is written. -/
def State.writeCtl (s : State) (n : Nat) (v : W64) : State :=
  if bit v 2 then ctlFence s n else if bit v 1 then ctlEnd s n else if bit v 0 then ctlStop s n else s

/-- CORE_CTL as it reads. -/
def Core.ctl (c : Core) : Nat :=
  (c.mode == .supervisor).toNat * 2 ^ 10 + (c.mode == .fenced).toNat * 2 ^ 9 +
  (c.mode == .trapping || c.mode == .supervisor).toNat * 2 ^ 8

/-! ## Reads -/

/-- The group-table block (R286). -/
def State.readGroupTable (s : State) (o : Nat) : Nat :=
  if o < 0x1000 then
    match s.groups.find (o / 16) with
    | none => 0
    | some g =>
      let ms := groupMembers g.entry
      if o % 16 = 0 then
        g.degraded * 2 ^ 32 + ms.length * 2 ^ 11 + 2 ^ 8 + min 255 (ms.filter s.coreFenced).length
      else groupSize g.entry * 2 ^ 36 + groupOff g.entry
  else if o < 0x1000 + 128 * 256 then
    (s.groups.find ((o - 0x1000) / 128)).elim 0 (fun g => recField g.entry ((o - 0x1000) % 128) 0 64)
  else 0

/-- A ring's registers from BASE on: BASE, SIZE, HEAD, TAIL. -/
def Ring.reg (r : Ring) (k : Nat) : Nat := [r.base.toNat, r.n, r.head, r.tail].getD k 0

/-- The boot block. -/
def State.readBoot (s : State) (o : Nat) : Nat :=
  if o = 0 then s.sec.status.toNat
  else if o = 8 then s.time
  else if 0x200 ≤ o ∧ o < 0x400 then (s.sec.meas.look 0 ((o - 0x200) / 64)).toNat >>> (8 * (o % 64))
  else if o = 0x400 then s.sec.policy.toNat
  else if o = 0x408 then s.sec.statusWord
  else if o = 0x410 then s.sec.devwin.toNat
  else if o = 0x1000 then s.sec.cmd
  else if o = 0x1008 then s.sec.done.toNat * 2 ^ 63 + s.sec.result * 2 ^ 8 + s.sec.lastCmd
  else if o = 0x1010 then s.sec.len
  else if 0x2000 ≤ o ∧ o < 0x4000 then
    ((List.range 8).map (fun i => (s.sec.data.look 0 (o - 0x2000 + i)).toNat <<< (8 * i))).foldl (· + ·) 0
  else 0

/-- The block of the cores. -/
def State.readCores (s : State) (o : Nat) : Nat :=
  if coreCount ≤ o / 0x40 then 0
  else
    let c := s.core (o / 0x40)
    match o % 0x40 with
    | 0 => c.ctl
    | 8 => c.svEntry.toNat
    | 0x10 => c.ceRate
    | _ => 0

/-- The scheduler's block. -/
def State.readSched (s : State) (o : Nat) : Nat :=
  if o = 0 then s.sched.deadline
  else if o = 8 then s.sched.subwinStray
  else if 0x100 ≤ o ∧ o < 0x100 + 0x40 * 80 then
    let u := s.queue ((o - 0x100) / 0x40)
    match (o - 0x100) % 0x40 with
    | 0 => u.saveBase.toNat
    | 0x28 => u.stray
    | 0x30 => u.ring.lost
    | k => if 8 ≤ k ∧ k ≤ 0x20 then u.ring.reg (k / 8 - 1) else 0
  else 0

/-- The collective block. -/
def State.readColl (s : State) (o : Nat) : Nat :=
  if o = 0 then s.coll.checkK * 2 ^ 8 + s.coll.checkEn.toNat
  else if o = 8 then s.coll.dims.toNat
  else if o = 0x10 then s.coll.pkgid.toNat
  else if 0x100 ≤ o ∧ o < 0x180 then (s.coll.status.look 0 (64 + (o - 0x100) / 8)).toNat
  else if 0x200 ≤ o ∧ o < 0x238 then s.coll.refused.look 0 ((o - 0x200) / 8)
  else if 0x240 ≤ o ∧ o < 0x270 then (s.link ((o - 0x240) / 8)).replays
  else 0

/-- SET_STATE (R341). -/
def ParitySet.word (t : ParitySet) : Nat :=
  let mode := match t.mode with
    | .healthy => 0
    | .makeGood => 1
    | .unprotected => 2
    | .fenced => 3
  t.mgptr % 2 ^ 24 * 2 ^ 16 + t.retired % 16 * 2 ^ 8 + t.share % 16 * 2 ^ 2 + mode

/-- Sixty-four bits of the lost map from a frame on (R344). -/
def State.lostBits (s : State) (frame : Nat) : Nat :=
  (List.range 64).foldl (fun m i => if s.frameLost (frame + i) then m + 2 ^ i else m) 0

/-- The device-memory block. -/
def State.readDm (s : State) (o : Nat) : Nat :=
  if o = 0 then s.dm.locked.toNat * 2 ^ 63 + s.dm.pgran
  else if o = 8 then s.dm.latewr * 2 ^ 32 + s.dm.ready.toNat
  else if o = 0x10 then s.dm.idle
  else if o = 0x100 then s.xl.root.toNat
  else if 0x120 ≤ o ∧ o ≤ 0x138 then s.xl.ring.reg ((o - 0x120) / 8)
  else if 0x2000 ≤ o ∧ o < 0x2100 then (s.pset ((o - 0x2000) / 8)).word
  else if 0x2100 ≤ o ∧ o < 0x2200 then s.skim.skips.look 0 ((o - 0x2100) / 8)
  else if 0x2200 ≤ o ∧ o < 0x2300 then s.skim.flags.look 0 ((o - 0x2200) / 8)
  else if 0x40000 ≤ o ∧ o < 0x100000 then s.lostBits (8 * (o - 0x40000))
  else 0

/-- The interrupt block. -/
def State.readIrq (s : State) (o : Nat) : Nat :=
  if o < 16 * 1024 then
    let v := (s.irqs.look 0 (o / 16)).toNat
    if o % 16 = 0 then v % 2 ^ 64 else v / 2 ^ 64
  else if (0x10000 ≤ o ∧ o < 0x18000) ∨ (0x20000 ≤ o ∧ o < 0x20100) then (s.msix.look 0 o).toNat
  else 0

/-- The error block. -/
def State.readErr (s : State) (o : Nat) : Nat :=
  if o < 0x20 then s.err.ring.reg (o / 8)
  else if 0x100 ≤ o ∧ o < 0x900 then (s.classcfg ((o - 0x100) / 8)).toNat
  else if 0x1000 ≤ o ∧ o < 0x1080 then s.fencedCores.toNat >>> (8 * (o - 0x1000))
  else match o with
    | 0x1080 => s.err.clusters.toNat
    | 0x1088 => s.fencedSets.toNat
    | 0x1090 => s.err.ports.toNat
    | 0x1098 => s.err.alus.toNat
    | _ => 0

/-- The power block. -/
def State.readPower (s : State) (o : Nat) : Nat :=
  if o = 0 then s.pow.cap
  else if o = 8 then s.pow.temp % 2 ^ 8 * 2 ^ 32 + s.pow.power % 2 ^ 12 * 2 ^ 16 + s.pow.step
  else if 0x100 ≤ o ∧ o < 0x180 then s.pow.telemetry.look 0 ((o - 0x100) / 8) % 2 ^ 16
  else 0

/-- Whether a block answers (R366, R372): in recovery and when the package has halted, the boot block alone. -/
def State.answers (s : State) (off : Nat) : Bool := off / 2 ^ 20 == 0 || !(s.sec.phase == .recovery || s.sec.halted)

/-- What a register reads (R355): 8 bytes at an aligned offset of the window; unlisted offsets read zero. -/
def State.regRead (s : State) (off : Nat) : W64 :=
  let o := off % 2 ^ 20
  BitVec.ofNat 64 (if off % 8 ≠ 0 ∨ !s.answers off then 0
    else match off / 2 ^ 20 with
      | 0 => s.readBoot o
      | 1 => s.readCores o
      | 2 => s.readSched o
      | 3 => s.readGroupTable o
      | 4 => if o % 16 = 0 ∧ o < 16 * 4096 then (s.counter (o / 16)).toNat else 0
      | 5 => s.readColl o
      | 6 => s.readDm o
      | 7 => s.readIrq o
      | 8 => s.readErr o
      | 9 => s.readPower o
      | _ => 0)

/-! ## Writes -/

/-- A ring's registers from BASE on. -/
def State.writeRing (s : State) (r : RingName) (k : Nat) (v : W64) : State :=
  match k with
  | 0 => s.ringConfig r false v
  | 1 => s.ringConfig r true v
  | 3 => s.ringTail r v
  | _ => s

/-- MBOX_CMD: a start while a command runs is discarded, and the command that runs keeps its code. -/
def State.writeMbox (s : State) (v : W64) : State :=
  if bit v 63 then
    if s.sec.done then
      { s with sec := { s.sec with cmd := v.toNat % 2 ^ 8, running := v.toNat % 2 ^ 8, done := false } }
    else s
  else { s with sec := { s.sec with cmd := v.toNat % 2 ^ 8 } }

/-- Eight bytes of MBOX_DATA. -/
def State.writeMboxData (s : State) (o : Nat) (v : W64) : State :=
  { s with sec := { s.sec with data := (List.range 8).foldl (fun d i =>
      let b := BitVec.ofNat 8 (v.toNat >>> (8 * i))
      if b = 0 then FMap.drop d (o + i) else FMap.put d (o + i) b) s.sec.data } }

/-- The boot block. -/
def State.writeBoot (s : State) (o : Nat) (v : W64) : State :=
  if o = 0x400 then s.writePolicy v
  else if o = 0x410 then { s with sec := { s.sec with devwin := v &&& 0xFFFFC0000000 } }
  else if o = 0x1000 then s.writeMbox v
  else if o = 0x1010 then { s with sec := { s.sec with len := min 8192 (v.toNat % 2 ^ 14) } }
  else if 0x2000 ≤ o ∧ o < 0x4000 then s.writeMboxData (o - 0x2000) v
  else s

/-- The block of the cores. -/
def State.writeCores (s : State) (o : Nat) (v : W64) : State :=
  let n := o / 0x40
  if coreCount ≤ n then s
  else match o % 0x40 with
    | 0 => s.writeCtl n v
    | 8 => s.modCore n (fun c => { c with svEntry := v &&& 0xFFFFFFFFFFF8 })
    | 0x10 => s.modCore n (fun c => { c with ceRate := max 1 (min 8192 (v.toNat % 2 ^ 14)) })
    | _ => s

/-- The scheduler's block. -/
def State.writeSched (s : State) (o : Nat) (v : W64) : State :=
  if o = 0 then { s with sched := { s.sched with deadline := v.toNat % 2 ^ 16 } }
  else if 0x100 ≤ o ∧ o < 0x100 + 0x40 * 80 then
    let q := (o - 0x100) / 0x40
    match (o - 0x100) % 0x40 with
    | 0 => s.setQueue q { s.queue q with saveBase := v &&& 0xFFFFFFFFF000 }
    | k => if 8 ≤ k ∧ k ≤ 0x20 then s.writeRing (.queue q) (k / 8 - 1) v else s
  else s

/-- FABRIC_DIMS, unless a run is active (R356). -/
def State.writeDims (s : State) (v : W64) : State :=
  if s.coll.runs.any (fun (_, r) => r.active) then s else { s with coll := { s.coll with dims := v.setWidth 12 } }

/-- Whether FABRIC_PKGID keeps its value (R15): a launch is admitted and not over, pre-empted ones included, a storyboard
run has begun to arm and is not complete, or a copy with a remote side is accepted and not complete. -/
def State.pkgidHeld (s : State) : Bool :=
  s.sched.launches.any (fun (_, l) => l.phase != .queued) || s.coll.runs.any (fun (_, r) => r.active) ||
  s.copies.any (fun c => trRemote c.record)

/-- FABRIC_PKGID. -/
def State.writePkgid (s : State) (v : W64) : State :=
  if s.pkgidHeld then s else { s with coll := { s.coll with pkgid := v.setWidth 12 } }

/-- The collective block. -/
def State.writeColl (s : State) (o : Nat) (v : W64) : State :=
  if o = 0 then { s with coll := { s.coll with checkK := min 16 (v.toNat / 2 ^ 8 % 2 ^ 5), checkEn := bit v 0 } }
  else if o = 8 then s.writeDims v
  else if o = 0x10 then s.writePkgid v
  else s

/-- The device-memory block. -/
def State.writeDm (s : State) (o : Nat) (v : W64) : State :=
  if o = 0 then s.writeDmConfig v
  else if o = 0x10 then { s with dm := { s.dm with idle := v.toNat % 2 ^ 32 } }
  else if o = 0x100 then s.writeRoot v
  else if o = 0x108 then s.writeInval v
  else if o = 0x110 then s.resolve (v.setWidth 16) (bit v 16)
  else if 0x120 ≤ o ∧ o ≤ 0x138 then s.writeRing .translation ((o - 0x120) / 8) v
  else if 0x2000 ≤ o ∧ o < 0x2100 then
    let i := (o - 0x2000) / 8
    s.setPset i { s.pset i with share := max 1 (v.toNat / 2 ^ 2 % 16) }
  else if 0x2200 ≤ o ∧ o < 0x2300 then
    { s with skim := { s.skim with flags := s.skim.flags.put ((o - 0x2200) / 8) (v.toNat % 64) } }
  else s

/-- The interrupt block. -/
def State.writeIrqs (s : State) (o : Nat) (v : W64) : State :=
  if o < 16 * 1024 then s.writeIrq (o / 16) (o % 16 = 8) v
  else if 0x10000 ≤ o ∧ o < 0x18000 then { s with msix := s.msix.put o v }
  else s

/-- The error block. -/
def State.writeErr (s : State) (o : Nat) (v : W64) : State :=
  if o < 0x20 then s.writeRing .error (o / 8) v
  else if 0x100 ≤ o ∧ o < 0x900 then
    { s with err := { s.err with classcfg := s.err.classcfg.put ((o - 0x100) / 8) (v &&& 0xFFFFFFFF00FF) } }
  else s

/-- The power block. -/
def State.writePower (s : State) (o : Nat) (v : W64) : State :=
  let c := v.toNat % 2 ^ 12
  if o = 0 ∧ 800 ≤ c ∧ c ≤ 2400 then { s with pow := { s.pow with cap := c } } else s

/-- A write to a register (R355): 8 bytes at an aligned offset of the window; unlisted offsets discard it. -/
def State.regWrite (s : State) (off : Nat) (v : W64) : State :=
  let o := off % 2 ^ 20
  if off % 8 ≠ 0 ∨ !s.answers off then s
  else match off / 2 ^ 20 with
    | 0 => s.writeBoot o v
    | 1 => s.writeCores o v
    | 2 => s.writeSched o v
    | 4 =>
      if 16 * 4096 ≤ o then s
      else if o % 16 = 0 then s.addCounter (o / 16) v
      else s.setCounter (o / 16) v
    | 5 => s.writeColl o v
    | 6 => s.writeDm o v
    | 7 => s.writeIrqs o v
    | 8 => s.writeErr o v
    | 9 => s.writePower o v
    | _ => s

/-- A host's read and its write of so many bytes of the registers window (R354): other than 8 bytes, naturally aligned, it
reads zero and discards the write. -/
def State.hostRead (s : State) (off n : Nat) : W64 := if n = 8 then s.regRead off else 0
def State.hostWrite (s : State) (off n : Nat) (v : W64) : State := if n = 8 then s.regWrite off v else s

/-! ## The device-memory window (R354) -/

/-- The host reads or writes device memory by physical address. -/
def hostAccess (s : State) (off n : Nat) (data : Option (List Byte)) : State :=
  let pa := s.sec.devwin.toNat + off
  if !s.answers (2 ^ 20) ∨ s.deviceEnd < pa + n then s.send .unsupported
  else if n = 0 then s
  else
    let lost := s.rangeLost pa n
    match data with
    | none => if lost then s.send .poisoned else (s.wakeRead pa n).send (.deviceData (toBytes n (s.read pa n)))
    | some d =>
      if lost then (s.errorEvent 0x1C .pseudoChannel (s.channelOf pa) pa).1
      else s.deviceWrite pa n (ofBytes (fitBytes n d))

/-! ## The events -/

/-- COUNTER_ADD_WRITE (R357). -/
def execCounterAddWrite (s : State) : Host.Outcome State Fault Refusal :=
  onMove (fun m s => match m with
    | .counterAddWrite n v => some (if n < 4096 then s.regWrite (0x400000 + 16 * n) v else s)
    | _ => none) s

/-- COUNTER_SET_WRITE (R357). -/
def execCounterSetWrite (s : State) : Host.Outcome State Fault Refusal :=
  onMove (fun m s => match m with
    | .counterSetWrite n v => some (if n < 4096 then s.regWrite (0x400000 + 16 * n + 8) v else s)
    | _ => none) s

/-- EVT_IRQ_WRITE (R358). -/
def execEvtIrqWrite (s : State) : Host.Outcome State Fault Refusal :=
  onMove (fun m s => match m with
    | .evtIrqWrite e h v => some (if e < 1024 then s.regWrite (0x700000 + 16 * e + if h then 8 else 0) v else s)
    | _ => none) s

/-- XL_ROOT_WRITE (R323). -/
def execXlRootWrite (s : State) : Host.Outcome State Fault Refusal :=
  onMove (fun m s => match m with
    | .xlRootWrite v => some (s.regWrite 0x600100 v)
    | _ => none) s

/-- XL_INVAL_WRITE (R327). -/
def execXlInvalWrite (s : State) : Host.Outcome State Fault Refusal :=
  onMove (fun m s => match m with
    | .xlInvalWrite v => some (s.regWrite 0x600108 v)
    | _ => none) s

/-- XL_INVAL_COMPLETE (R327). -/
def execXlInvalComplete (s : State) : Host.Outcome State Fault Refusal :=
  onMove (fun m s => match m with
    | .xlInvalComplete => some (invalComplete s)
    | _ => none) s

/-- XL_RESOLVE_RESUME (R329). -/
def execXlResolveResume (s : State) : Host.Outcome State Fault Refusal :=
  onMove (fun m s => match m with
    | .xlResolveResume id => some (s.regWrite 0x600110 (id.setWidth 64))
    | _ => none) s

/-- XL_RESOLVE_ABORT (R329). -/
def execXlResolveAbort (s : State) : Host.Outcome State Fault Refusal :=
  onMove (fun m s => match m with
    | .xlResolveAbort id => some (s.regWrite 0x600110 (id.setWidth 64 ||| 0x10000))
    | _ => none) s

/-- The offset of a ring's BASE. -/
def ringOffset : RingName → Nat
  | .translation => 0x600120
  | .error => 0x800000
  | .queue q => 0x200108 + 0x40 * q

/-- Whether a ring exists. -/
def ringExists : RingName → Bool
  | .queue q => q < 80
  | _ => true

/-- RING_TAIL_WRITE (R356). -/
def execRingTailWrite (s : State) : Host.Outcome State Fault Refusal :=
  onMove (fun m s => match m with
    | .ringTailWrite r v => some (if ringExists r then s.regWrite (ringOffset r + 0x18) v else s)
    | _ => none) s

/-- RING_CONFIG_WRITE (R356). -/
def execRingConfigWrite (s : State) : Host.Outcome State Fault Refusal :=
  onMove (fun m s => match m with
    | .ringConfigWrite r size v => some (if ringExists r then s.regWrite (ringOffset r + if size then 8 else 0) v else s)
    | _ => none) s

/-- DM_CONFIG_WRITE (R332). -/
def execDmConfigWrite (s : State) : Host.Outcome State Fault Refusal :=
  onMove (fun m s => match m with
    | .dmConfigWrite v => some (s.regWrite 0x600000 v)
    | _ => none) s

/-- HOST_DEVMEM_ACCESS (R354). -/
def execHostDevmemAccess (s : State) : Host.Outcome State Fault Refusal :=
  onMove (fun m s => match m with
    | .hostDevmemAccess off n d => some (hostAccess s off n d)
    | _ => none) s

/-- The offset of a core's CORE_CTL. -/
def ctlOffset (n : Nat) : Nat := 0x100000 + 0x40 * n

/-- CORE_CTL_FENCE (R360). -/
def execCoreCtlFence (s : State) : Host.Outcome State Fault Refusal :=
  onMove (fun m s => match m with
    | .coreCtlFence n => some (if n < coreCount then s.regWrite (ctlOffset n) 4 else s)
    | _ => none) s

/-- CORE_CTL_END (R360). -/
def execCoreCtlEnd (s : State) : Host.Outcome State Fault Refusal :=
  onMove (fun m s => match m with
    | .coreCtlEnd n => some (if n < coreCount then s.regWrite (ctlOffset n) 2 else s)
    | _ => none) s

/-- CORE_CTL_STOP (R360). -/
def execCoreCtlStop (s : State) : Host.Outcome State Fault Refusal :=
  onMove (fun m s => match m with
    | .coreCtlStop n => some (if n < coreCount then s.regWrite (ctlOffset n) 1 else s)
    | _ => none) s

/-- FABRIC_PKGID_WRITE (R15). -/
def execFabricPkgidWrite (s : State) : Host.Outcome State Fault Refusal :=
  onMove (fun m s => match m with
    | .fabricPkgidWrite v => some (s.regWrite 0x500010 v)
    | _ => none) s

/-- FABRIC_DIMS_WRITE (R356). -/
def execFabricDimsWrite (s : State) : Host.Outcome State Fault Refusal :=
  onMove (fun m s => match m with
    | .fabricDimsWrite v => some (s.regWrite 0x500008 v)
    | _ => none) s

/-- REGISTER_WRITE (R356). -/
def execRegisterWrite (s : State) : Host.Outcome State Fault Refusal :=
  onMove (fun m s => match m with
    | .registerWrite off n v => some (s.hostWrite off n v)
    | _ => none) s

end Sys2Proof.Machine
end

