-- ==== Sys2Proof/Machine/CopyEngine.lean ====
section
/-! DEFINITION. The copy engines (R166, R167, R171, R267, R278 to R280, R317 to R322, R328): a copy is taken, its elements
are read and written, it parks, completes or fails. -/

namespace Sys2Proof.Machine

open Sys2Proof.Num

/-! ## Elements (R318, R320) -/

/-- A copy. -/
def State.copy (s : State) (id : Nat) : Option Copy := s.copies.find? (fun c => c.id == id)

/-- Replace a copy. -/
def State.setCopy (s : State) (c : Copy) : State := { s with copies := s.copies.map (fun k => if k.id = c.id then c else k) }

/-- The source and the destination address of an element. -/
def Copy.srcAt (c : Copy) (e : Nat) : Nat := (trAddr c.record (trSrc c.record) (trSstr c.record) e).toNat
def Copy.dstAt (c : Copy) (e : Nat) : Nat := (trAddr c.record (trDst c.record) (trDstr c.record) e).toNat

/-- Whether the source, or the destination, is another package. -/
def Copy.remoteSrc (c : Copy) (self : Nat) : Bool := trRemote c.record && !trRside c.record && trPkg c.record != self
def Copy.remoteDst (c : Copy) (self : Nat) : Bool := trRemote c.record && trRside c.record && trPkg c.record != self

/-- The elements not yet written whose address lies in the 32-bit cell of element `e`: a cell is read whole and written
whole (R269, R320). -/
def Copy.cellOf (c : Copy) (addr : Nat → Nat) (e : Nat) : List Nat :=
  if 4 ≤ trEsize c.record then [e]
  else (List.range (trCount c.record)).filter (fun k =>
    c.progress ≤ k && !c.done.contains k && !c.sent.contains k && addr k / 4 == addr e / 4)

/-- The memory key of an on-chip address of a copy of core `n` (R84, R318). -/
def onChipKey (n a : Nat) : Nat :=
  match a / 2 ^ 56 with
  | 0 => unitKey n + a % 2 ^ 21
  | 1 => clusterKey (clusterOf n) + a % 2 ^ 24
  | 2 => dieKey (dieOf n) + a % 2 ^ 27
  | _ => dieKey (a / 2 ^ 48 % 4) + a % 2 ^ 27

/-- A failed access of a copy: reason and address, space, whether it wrote. -/
structure CopyFail where
  f     : XFail
  space : Nat
  write : Bool
  deriving DecidableEq, Repr

/-- Read an element's source: on chip, in device memory, in the registers window, or at another package. -/
def State.readElement (s : State) (c : Copy) (e : Nat) : State × Except CopyFail Nat :=
  let n := trEsize c.record
  let a := c.srcAt e
  if trFill c.record then (s, .ok (trSrc c.record % 2 ^ (8 * n)))
  else if c.remoteSrc s.self then
    ({ s with free := s.free + 1 }.sendPacket (trPkg c.record) false (.remoteRead a n),
      .ok ((Config.remoteData s.free).toNat % 2 ^ (8 * n)))
  else if isDevice a then
    match s.translate (a % 2 ^ 48) false with
    | (s, .ok pa) => (s, .ok (s.read pa n))
    | (s, .error r) => (s, .error ⟨⟨r, a % 2 ^ 48⟩, a / 2 ^ 56, false⟩)
  else if a / 2 ^ 56 = 0xF0 then (s, .ok (if n = 8 then (s.regRead (a % 2 ^ 26)).toNat else 0))
  else (s, .ok (s.read (onChipKey c.core a) n))

/-- Whether a copy's writes are non-temporal (R280). -/
def Copy.nonTemporal (c : Copy) : Bool := trNt c.record || trDst c.record / 2 ^ 56 == 0x11

/-- Write an element's destination: whether the write is done. A non-temporal write is accepted and performs later; one at
another package is done once that answers it (R319). -/
def State.writeElement (s : State) (c : Copy) (e v : Nat) : State × Except CopyFail Bool :=
  let n := trEsize c.record
  let a := c.dstAt e
  let put (s : State) (key : Nat) (dev : Bool) : State :=
    if c.nonTemporal then { s with nt := s.nt ++ [{ copy := c.id, core := c.core, key := key, bytes := n, data := v }] }
    else if dev then s.deviceWrite key n v else s.write key n v
  if c.remoteDst s.self then (s.sendPacket (trPkg c.record) false (.remoteWrite a (toBytes n v)), .ok false)
  else if isDevice a then
    match s.translate (a % 2 ^ 48) true with
    | (s, .ok pa) => (put s pa true, .ok true)
    | (s, .error r) => (s, .error ⟨⟨r, a % 2 ^ 48⟩, a / 2 ^ 56, true⟩)
  else if a / 2 ^ 56 = 0xF0 then (if n = 8 then s.regWrite (a % 2 ^ 26) (BitVec.ofNat 64 v) else s, .ok true)
  else (put s (onChipKey c.core a) false, .ok true)

/-! ## Parking (R321, R328) -/

/-- A copy whose translation fails parks, with PROGRESS as it stands. -/
def State.parkCopy (s : State) (id : Nat) (x : CopyFail) : State :=
  match s.copy id with
  | none => s
  | some c =>
    match s.park (x.f.request .copy id x.space x.write c.core (BitVec.ofNat 64 c.progress)) with
    | (s, some p) =>
      s.setCopy { c with phase := .parked p x.f.reason (BitVec.ofNat 8 x.space) x.f.va x.write, data := [], done := [],
                          sent := [] }
    | (s, none) => s

/-! ## Progress -/

/-- PROGRESS passes the elements that are written, by fuel. -/
def Copy.advance (c : Copy) : Nat → Copy
  | 0 => c
  | k + 1 => if c.done.contains c.progress then { c with progress := c.progress + 1, done := c.done.erase c.progress }.advance k
    else c

/-- An element is written. -/
def Copy.noteDone (c : Copy) (e : Nat) : Copy :=
  let c := { c with done := if c.done.contains e then c.done else c.done ++ [e], data := FMap.drop c.data e }
  c.advance c.done.length

/-- An element's write is sent to another package. -/
def Copy.noteSent (c : Copy) (e : Nat) : Copy := { c with sent := c.sent ++ [e], data := FMap.drop c.data e }

/-- Whether a copy is under way and may read, and may write (R278, R279). -/
def State.copyReads (s : State) (c : Copy) : Bool :=
  c.phase == .started && !c.failed && (s.core c.core).performed c.readWaits
def State.copyWrites (s : State) (c : Copy) : Bool :=
  s.copyReads c && (s.core c.core).performed c.writeWaits && c.earlier.isEmpty

/-- Whether an element is still to be made. -/
def Copy.open_ (c : Copy) (e : Nat) : Bool :=
  c.progress ≤ e && e < trCount c.record && !c.done.contains e && !c.sent.contains e

/-- Read elements that have not been read. -/
def State.readElements (s : State) (id : Nat) : List Nat → State × Bool
  | [] => (s, true)
  | e :: es =>
    match s.copy id with
    | none => (s, false)
    | some c =>
      if (c.data.find e).isSome then s.readElements id es
      else match s.readElement c e with
        | (s, .error x) => (s.parkCopy id x, false)
        | (s, .ok v) => (s.setCopy { c with data := c.data.put e v }).readElements id es

/-- Write elements that have been read. -/
def State.writeElements (s : State) (id : Nat) : List Nat → State × Bool
  | [] => (s, true)
  | e :: es =>
    match s.copy id with
    | none => (s, false)
    | some c =>
      match s.writeElement c e (c.data.look 0 e) with
      | (s, .error x) => (s.parkCopy id x, false)
      | (s, .ok written) =>
        match s.copy id with
        | some c => (s.setCopy (if written then c.noteDone e else c.noteSent e)).writeElements id es
        | none => (s, false)

/-- The engine reads an element, with those of its cell. -/
def copyElementRead (s : State) (id e : Nat) : State :=
  match s.copy id with
  | some c => if s.copyReads c && c.open_ e then (s.readElements id (c.cellOf c.srcAt e)).1 else s
  | none => s

/-- The engine writes an element, with those of its cell, once all are read. -/
def copyElementWrite (s : State) (id e : Nat) : State :=
  match s.copy id with
  | some c =>
    let es := c.cellOf c.dstAt e
    if s.copyWrites c && c.open_ e && es.all (fun k => (c.data.find k).isSome) then (s.writeElements id es).1 else s
  | none => s

/-- What an element of a remote source reads at its package. -/
def copyRemoteRead (s : State) (id e v : Nat) : State :=
  match s.copy id with
  | some c =>
    if s.copyReads c && c.open_ e && c.remoteSrc s.self && !trFill c.record then
      s.setCopy { c with data := c.data.put e (v % 2 ^ (8 * trEsize c.record)) }
    else s
  | none => s

/-- The other package answers an element of a copy: its write has performed, or the access has failed there (R319, R321). -/
def copyRemoteAnswer (s : State) (id e : Nat) (good : Bool) : State :=
  match s.copy id with
  | some c =>
    if c.phase ≠ .started then s
    else if good then
      (if c.sent.contains e then s.setCopy ({ c with sent := c.sent.erase e }.noteDone e) else s)
    else if c.remoteSrc s.self || c.remoteDst s.self then s.setCopy { c with failed := true }
    else s
  | none => s

/-! ## Start (R166, R319) -/

/-- The engine of a cluster takes the next command in the order of acceptance; a malformed record, or a package that cannot
be reached, fails. -/
def copyStart (s : State) (k : Nat) : State :=
  match s.copies.find? (fun c => c.phase == .queued && clusterOf c.core == k) with
  | none => s
  | some c =>
    let bad := trMalformed c.sup c.record || (trRemote c.record && !s.reachable (trPkg c.record))
    s.setCopy { c with phase := .started, failed := c.failed || bad }

/-- COPY_START (R166). -/
def execCopyStart (s : State) : Host.Outcome State Fault Refusal :=
  onMove (fun m s => match m with
    | .copyStart k => some (copyStart s k)
    | _ => none) s

/-! ## Completion (R167, R279, R322) -/

/-- The elements that are left, in linear order; false when the copy has parked. -/
def finishElements (id : Nat) : Nat → Nat → State → State × Bool
  | 0, _, s => (s, true)
  | n + 1, e, s =>
    match s.copy id with
    | none => (s, false)
    | some c =>
      if !c.open_ e then finishElements id n (e + 1) s
      else
        let es := c.cellOf c.dstAt e
        match s.readElements id es with
        | (s, false) => (s, false)
        | (s, true) =>
          match s.writeElements id es with
          | (s, false) => (s, false)
          | (s, true) => finishElements id n (e + 1) s

/-- A copy is no longer ahead of the commands of its core that waited for it; they fail when it has (R279). -/
def State.copyOver (s : State) (c : Copy) : State :=
  let copies := (s.copies.filter (fun k => k.id != c.id)).map (fun k =>
    if k.earlier.contains c.id then { k with earlier := k.earlier.filter (· != c.id), failed := k.failed || c.failed } else k)
  let s := { s with copies := copies }
  s.modCore c.core (fun k => { k with svCmds := k.svCmds.map (fun q =>
    if q.earlier.contains c.id then { q with earlier := q.earlier.filter (· != c.id), failed := q.failed || c.failed } else q) })

/-- A copy completes. -/
def State.endCopy (s : State) (id : Nat) : State :=
  match s.copy id with
  | none => s
  | some c =>
    let s := (s.copyOver c).planNext c.core
    if c.orphan then s else s.modCore c.core (fun k => k.modSide c.sup (fun x => x.tagComplete (trTag c.record) c.failed))

/-- Whether no element of a copy waits for another package's answer. -/
def State.answered (s : State) (id : Nat) : Bool := (s.copy id).all (fun c => c.sent.isEmpty)

/-- The parked requests of a copy are gone. -/
def State.unpark (s : State) (id : Nat) : State :=
  { s with xl := { s.xl with parked := s.xl.parked.filter (fun x => !(x.2.kind == ReqKind.copy && x.2.ident == id)) } }

/-- A copy completes when it has failed, one that is parked meanwhile too (R279), or when every element of it is written;
the engine writes those that are left. -/
def copyComplete (s : State) (id : Nat) : State :=
  match s.copy id with
  | none => s
  | some c =>
    if c.phase = .queued then s
    else if c.failed then (s.unpark id).endCopy id
    else if s.copyWrites c then
      match finishElements id (trCount c.record - c.progress) c.progress s with
      | (s, true) => if s.answered id then s.endCopy id else s
      | (s, false) => s
    else s

/-- COPY_COMPLETE (R167). -/
def execCopyComplete (s : State) : Host.Outcome State Fault Refusal :=
  onMove (fun m s => match m with
    | .copyComplete c => some (copyComplete s c)
    | _ => none) s

/-- A copy of a launch that was aborted is itself aborted (R256). -/
def copyAbandon (s : State) (id : Nat) : State :=
  match s.copy id with
  | some c =>
    if c.orphan then
      ((s.unpark id).copyOver { c with failed := true }).planNext c.core
    else s
  | none => s

/-! ## Parking by itself (R326, R328) -/

/-- An element at whose address a copy may fail. -/
def Copy.elementAt (c : Copy) (write : Bool) (a : Nat) : Option Nat :=
  (List.range (trCount c.record)).find? (fun e => c.open_ e && (if write then c.dstAt e else c.srcAt e) == a)

/-- A copy that is under way parks at an access whose translation fails now. -/
def faultPark (s : State) (q : Request) : State :=
  match q.kind, s.copy q.ident with
  | ReqKind.copy, some c =>
    let a := q.space.toNat * 2 ^ 56 + q.va.toNat
    let side := if q.write then !c.remoteDst s.self && s.copyWrites c else !trFill c.record && !c.remoteSrc s.self && s.copyReads c
    if side && isDevice a && (c.elementAt q.write a).isSome then
      match s.translate q.va.toNat q.write with
      | (s, .error r) => s.parkCopy c.id ⟨⟨r, q.va.toNat⟩, q.space.toNat, q.write⟩
      | (_, .ok _) => s
    else s
  | _, _ => s

/-- TRANSLATION_FAULT_PARK (R328). -/
def execTranslationFaultPark (s : State) : Host.Outcome State Fault Refusal :=
  onMove (fun m s => match m with
    | .translationFaultPark q => some (faultPark s q)
    | _ => none) s

/-! ## Non-temporal writes and time (R280, R322) -/

/-- A non-temporal write performs, with the others of its copy in its 32-bit cell, which is written whole (R320). -/
def ntPerform (s : State) (i : Nat) : State :=
  match s.nt[i]? with
  | none => s
  | some w =>
    let mine (k : NtWrite) : Bool := k.copy == w.copy && k.key / 4 == w.key / 4
    (s.nt.filter mine).foldl State.landNt { s with nt := s.nt.filter (fun k => !mine k) }

/-- The parity sets that a copy reads, by every translation that may serve it. -/
def State.setsRead (s : State) (c : Copy) : List Nat :=
  if trFill c.record || !isDevice (trSrc c.record) then []
  else ((List.range (trCount c.record)).flatMap (fun e =>
    let va := c.srcAt e % 2 ^ 48
    (s.candidates va).filterMap (fun t => t.toOption.map (fun t => s.setOf (t.ppage * 65536 + va % 65536))))).dedup

/-- Whether the cores whose planned copies read a set now have rates that together pass 819.2 GB/s (R322). -/
def State.overbooked (s : State) (i : Nat) : Bool :=
  let cores := ((s.copies.filter (fun c => trPlanned c.record && (s.setsRead c).contains i)).map (·.core)).dedup
  8192 < cores.foldl (fun a n => a + (s.core n).ceRate) 0

/-- Whether a copy waits for one that has parked. -/
def State.heldByParked (s : State) (c : Copy) : Bool :=
  s.copies.any (fun k => c.earlier.contains k.id && (match k.phase with
    | .parked .. => true
    | _ => false))

/-- The time that a planned copy's bound holds back: none while the bound does not apply (R322): it is parked, a long replay
has served it, or a set that it reads is in make-good or is overbooked. A release copy whose writes are held behind a copy that has
parked (R279) has no bound either: DEDUCED (log 36), since R322 does not name it and R279 holds it until software answers. -/
def State.planLimit (s : State) (c : Copy) : Option Nat :=
  match c.phase, c.due with
  | .parked .., _ | _, none => none
  | _, some d =>
    if c.lifted || s.heldByParked c || (s.setsRead c).any (fun i => (s.pset i).mode == .makeGood || s.overbooked i) then none
    else some d

/-- Time passes, but not beyond the moment by which a planned copy completes. -/
def elapse (s : State) (ns : Nat) : State :=
  let limit := s.copies.foldl (fun m c => match s.planLimit c with
    | some d => min m (max d s.time)
    | none => m) (s.time + ns)
  { s with time := limit }

end Sys2Proof.Machine
end

