-- ==== Sys2Proof/Machine/Internal.lean ====
section
/-! DEFINITION. The moves that are no event of the opcode table: the performing of accesses, the parts of copies, the
passing of time, reads by the host, and what another package does (R243, R269, R304, R305, R316, R319, R320, R353, R356, R357). -/

namespace Sys2Proof.Machine

/-- Another package answers that a notice's record was refused, or that it met another length. -/
def noticeAnswer (s : State) (i x : Nat) (refused : Bool) : State :=
  match s.entryOf i x with
  | some (r, e) =>
    (match e.phase with
      | .posted n =>
        if ePeer e.entry = s.self then s
        else if refused then
          (if r.phase = .armed then s.backOff i x (n + 1) else (s.setPhase i x .abandoned).settleRun i)
        else s.failRun i 3 (some x)
      | _ => s)
  | none => s

/-- The temperature sensors are read. -/
def sensorTemps (s : State) (temps : List Nat) : State :=
  { s with pow := { s.pow with telemetry := (List.range 16).foldl (fun m i => m.put i (temps.getD i 0 % 2 ^ 16)) s.pow.telemetry } }

/-- A move that is no event. -/
def internal (m : Move) (s : State) : State :=
  if s.sec.halted then
    match m with
    | .elapse ns => { s with time := s.time + ns }
    | .registerRead off n => s.send (.register (s.hostRead off n))
    | .strayDmw => s.send .unsupported
    | .sensorTemps ts => sensorTemps s ts
    | _ => s
  else
    match m with
    | .submitReach n v => submitReach s n v
    | .accessPerform n a k => performAccess s n a k
    | .readPortAhead n p l cells => if (s.core n).works then readAhead s n p l cells else s
    | .copyElementRead c e => copyElementRead s c e
    | .copyElementWrite c e => copyElementWrite s c e
    | .copyRemoteRead c e v => copyRemoteRead s c e v
    | .copyRemoteAnswer c e good => copyRemoteAnswer s c e good
    | .copyAbandon c => copyAbandon s c
    | .ntPerform i => ntPerform s i
    | .elapse ns => elapse s ns
    | .registerRead off n => s.send (.register (s.hostRead off n))
    | .counterRead n => s.send (.register (s.regRead (0x400000 + 16 * n)))
    | .noticeRefused i x => noticeAnswer s i x true
    | .noticeLength i x => noticeAnswer s i x false
    | .pullFailed i x => pullFailed s i x
    | .fabricRead p sp a n => fabricArrives s ⟨p, sp.toNat, a, n, none⟩
    | .fabricWrite p sp a d => fabricArrives s ⟨p, sp.toNat, a, d.length, some d⟩
    | .transit p ch src dst d => transit s p ⟨ch.toNat, src, dst, .passing d⟩
    | .flitAck p n => flitAck s p n
    | .flitReplay p n => flitReplay s p n
    | .strayDmw => s.send .unsupported
    | .sensorTemps ts => sensorTemps s ts
    | _ => s

end Sys2Proof.Machine
end

