-- ==== Sys2Proof/Machine/Dispatch.lean ====
section
/-! DEFINITION. One arm for each constructor of Instr, in the order of the opcode table. -/

namespace Sys2Proof.Machine

def exec (i : Instr) (s : State) : Host.Outcome State Fault Refusal :=
  match i with
  | .snop h => Sys2Proof.Machine.execSnop h s
  | .add h o => Sys2Proof.Machine.execAdd h o s
  | .addImm h o => Sys2Proof.Machine.execAddImm h o s
  | .sub h o => Sys2Proof.Machine.execSub h o s
  | .subImm h o => Sys2Proof.Machine.execSubImm h o s
  | .mul h o => Sys2Proof.Machine.execMul h o s
  | .mulImm h o => Sys2Proof.Machine.execMulImm h o s
  | .mulh h o => Sys2Proof.Machine.execMulh h o s
  | .mulhImm h o => Sys2Proof.Machine.execMulhImm h o s
  | .mulhz h o => Sys2Proof.Machine.execMulhz h o s
  | .mulhzImm h o => Sys2Proof.Machine.execMulhzImm h o s
  | .div h o => Sys2Proof.Machine.execDiv h o s
  | .divImm h o => Sys2Proof.Machine.execDivImm h o s
  | .divz h o => Sys2Proof.Machine.execDivz h o s
  | .divzImm h o => Sys2Proof.Machine.execDivzImm h o s
  | .rem h o => Sys2Proof.Machine.execRem h o s
  | .remImm h o => Sys2Proof.Machine.execRemImm h o s
  | .remz h o => Sys2Proof.Machine.execRemz h o s
  | .remzImm h o => Sys2Proof.Machine.execRemzImm h o s
  | .and h o => Sys2Proof.Machine.execAnd h o s
  | .andImm h o => Sys2Proof.Machine.execAndImm h o s
  | .or h o => Sys2Proof.Machine.execOr h o s
  | .orImm h o => Sys2Proof.Machine.execOrImm h o s
  | .xor h o => Sys2Proof.Machine.execXor h o s
  | .xorImm h o => Sys2Proof.Machine.execXorImm h o s
  | .andn h o => Sys2Proof.Machine.execAndn h o s
  | .andnImm h o => Sys2Proof.Machine.execAndnImm h o s
  | .shl h o => Sys2Proof.Machine.execShl h o s
  | .shlImm h o => Sys2Proof.Machine.execShlImm h o s
  | .shr h o => Sys2Proof.Machine.execShr h o s
  | .shrImm h o => Sys2Proof.Machine.execShrImm h o s
  | .sar h o => Sys2Proof.Machine.execSar h o s
  | .sarImm h o => Sys2Proof.Machine.execSarImm h o s
  | .rol h o => Sys2Proof.Machine.execRol h o s
  | .rolImm h o => Sys2Proof.Machine.execRolImm h o s
  | .min h o => Sys2Proof.Machine.execMin h o s
  | .minImm h o => Sys2Proof.Machine.execMinImm h o s
  | .max h o => Sys2Proof.Machine.execMax h o s
  | .maxImm h o => Sys2Proof.Machine.execMaxImm h o s
  | .minz h o => Sys2Proof.Machine.execMinz h o s
  | .minzImm h o => Sys2Proof.Machine.execMinzImm h o s
  | .maxz h o => Sys2Proof.Machine.execMaxz h o s
  | .maxzImm h o => Sys2Proof.Machine.execMaxzImm h o s
  | .clz h o => Sys2Proof.Machine.execClz h o s
  | .ctz h o => Sys2Proof.Machine.execCtz h o s
  | .popc h o => Sys2Proof.Machine.execPopc h o s
  | .bfx h o => Sys2Proof.Machine.execBfx h o s
  | .bfxz h o => Sys2Proof.Machine.execBfxz h o s
  | .bfi h o => Sys2Proof.Machine.execBfi h o s
  | .fshl h o => Sys2Proof.Machine.execFshl h o s
  | .fshr h o => Sys2Proof.Machine.execFshr h o s
  | .sel h o => Sys2Proof.Machine.execSel h o s
  | .selImm h o => Sys2Proof.Machine.execSelImm h o s
  | .movi h o => Sys2Proof.Machine.execMovi h o s
  | .movhi h o => Sys2Proof.Machine.execMovhi h o s
  | .cmpeq h o => Sys2Proof.Machine.execCmpeq h o s
  | .cmpeqImm h o => Sys2Proof.Machine.execCmpeqImm h o s
  | .cmpne h o => Sys2Proof.Machine.execCmpne h o s
  | .cmpneImm h o => Sys2Proof.Machine.execCmpneImm h o s
  | .cmplt h o => Sys2Proof.Machine.execCmplt h o s
  | .cmpltImm h o => Sys2Proof.Machine.execCmpltImm h o s
  | .cmple h o => Sys2Proof.Machine.execCmple h o s
  | .cmpleImm h o => Sys2Proof.Machine.execCmpleImm h o s
  | .cmpltz h o => Sys2Proof.Machine.execCmpltz h o s
  | .cmpltzImm h o => Sys2Proof.Machine.execCmpltzImm h o s
  | .cmplez h o => Sys2Proof.Machine.execCmplez h o s
  | .cmplezImm h o => Sys2Proof.Machine.execCmplezImm h o s
  | .pand h o => Sys2Proof.Machine.execPand h o s
  | .por h o => Sys2Proof.Machine.execPor h o s
  | .pxor h o => Sys2Proof.Machine.execPxor h o s
  | .pandn h o => Sys2Proof.Machine.execPandn h o s
  | .pset h o => Sys2Proof.Machine.execPset h o s
  | .fadd h o => Sys2Proof.Machine.execFadd h o s
  | .faddImm h o => Sys2Proof.Machine.execFaddImm h o s
  | .fsub h o => Sys2Proof.Machine.execFsub h o s
  | .fsubImm h o => Sys2Proof.Machine.execFsubImm h o s
  | .fmul h o => Sys2Proof.Machine.execFmul h o s
  | .fmulImm h o => Sys2Proof.Machine.execFmulImm h o s
  | .fma h o => Sys2Proof.Machine.execFma h o s
  | .fmin h o => Sys2Proof.Machine.execFmin h o s
  | .fminImm h o => Sys2Proof.Machine.execFminImm h o s
  | .fmax h o => Sys2Proof.Machine.execFmax h o s
  | .fmaxImm h o => Sys2Proof.Machine.execFmaxImm h o s
  | .fcmpeq h o => Sys2Proof.Machine.execFcmpeq h o s
  | .fcmpeqImm h o => Sys2Proof.Machine.execFcmpeqImm h o s
  | .fcmplt h o => Sys2Proof.Machine.execFcmplt h o s
  | .fcmpltImm h o => Sys2Proof.Machine.execFcmpltImm h o s
  | .fcmple h o => Sys2Proof.Machine.execFcmple h o s
  | .fcmpleImm h o => Sys2Proof.Machine.execFcmpleImm h o s
  | .fcvti h o => Sys2Proof.Machine.execFcvti h o s
  | .fcvtf h o => Sys2Proof.Machine.execFcvtf h o s
  | .rdsr h o => Sys2Proof.Machine.execRdsr h o s
  | .wrsr h o => Sys2Proof.Machine.execWrsr h o s
  | .brc neg pred tgt => Sys2Proof.Machine.execBrc neg pred tgt s
  | .jmp tgt => Sys2Proof.Machine.execJmp tgt s
  | .call tgt link => Sys2Proof.Machine.execCall tgt link s
  | .ret reg => Sys2Proof.Machine.execRet reg s
  | .jmpi tgt reg => Sys2Proof.Machine.execJmpi tgt reg s
  | .calli tgt link reg => Sys2Proof.Machine.execCalli tgt link reg s
  | .loop endOff reg => Sys2Proof.Machine.execLoop endOff reg s
  | .loopImm endOff count => Sys2Proof.Machine.execLoopImm endOff count s
  | .lpop n => Sys2Proof.Machine.execLpop n s
  | .brt o => Sys2Proof.Machine.execBrt o s
  | .lnop h => Sys2Proof.Machine.execLnop h s
  | .ld h o => Sys2Proof.Machine.execLd h o s
  | .ldIndexed h o => Sys2Proof.Machine.execLdIndexed h o s
  | .ldPostinc h o => Sys2Proof.Machine.execLdPostinc h o s
  | .st h o => Sys2Proof.Machine.execSt h o s
  | .stIndexed h o => Sys2Proof.Machine.execStIndexed h o s
  | .stPostinc h o => Sys2Proof.Machine.execStPostinc h o s
  | .ldl h o => Sys2Proof.Machine.execLdl h o s
  | .ldlPostinc h o => Sys2Proof.Machine.execLdlPostinc h o s
  | .stl h o => Sys2Proof.Machine.execStl h o s
  | .stlPostinc h o => Sys2Proof.Machine.execStlPostinc h o s
  | .ldx h o => Sys2Proof.Machine.execLdx h o s
  | .stx h o => Sys2Proof.Machine.execStx h o s
  | .gld h o => Sys2Proof.Machine.execGld h o s
  | .glds h o => Sys2Proof.Machine.execGlds h o s
  | .amo h o => Sys2Proof.Machine.execAmo h o s
  | .cas h o => Sys2Proof.Machine.execCas h o s
  | .amol h o => Sys2Proof.Machine.execAmol h o s
  | .pcfg h o => Sys2Proof.Machine.execPcfg h o s
  | .prst h o => Sys2Proof.Machine.execPrst h o s
  | .hgive h o => Sys2Proof.Machine.execHgive h o s
  | .htake h o => Sys2Proof.Machine.execHtake h o s
  | .hback h o => Sys2Proof.Machine.execHback h o s
  | .vnop h => Sys2Proof.Machine.execVnop h s
  | .vadd h o => Sys2Proof.Machine.execVadd h o s
  | .vsub h o => Sys2Proof.Machine.execVsub h o s
  | .vmul h o => Sys2Proof.Machine.execVmul h o s
  | .vfma h o => Sys2Proof.Machine.execVfma h o s
  | .vmin h o => Sys2Proof.Machine.execVmin h o s
  | .vmax h o => Sys2Proof.Machine.execVmax h o s
  | .vabs h o => Sys2Proof.Machine.execVabs h o s
  | .vneg h o => Sys2Proof.Machine.execVneg h o s
  | .vadds h o => Sys2Proof.Machine.execVadds h o s
  | .vsubs h o => Sys2Proof.Machine.execVsubs h o s
  | .vmulh h o => Sys2Proof.Machine.execVmulh h o s
  | .vand h o => Sys2Proof.Machine.execVand h o s
  | .vor h o => Sys2Proof.Machine.execVor h o s
  | .vxor h o => Sys2Proof.Machine.execVxor h o s
  | .vshl h o => Sys2Proof.Machine.execVshl h o s
  | .vshr h o => Sys2Proof.Machine.execVshr h o s
  | .vsar h o => Sys2Proof.Machine.execVsar h o s
  | .vbfx h o => Sys2Proof.Machine.execVbfx h o s
  | .vbfxz h o => Sys2Proof.Machine.execVbfxz h o s
  | .vfshr h o => Sys2Proof.Machine.execVfshr h o s
  | .vclz h o => Sys2Proof.Machine.execVclz h o s
  | .vpopc h o => Sys2Proof.Machine.execVpopc h o s
  | .vcmpeq h o => Sys2Proof.Machine.execVcmpeq h o s
  | .vcmpne h o => Sys2Proof.Machine.execVcmpne h o s
  | .vcmplt h o => Sys2Proof.Machine.execVcmplt h o s
  | .vcmple h o => Sys2Proof.Machine.execVcmple h o s
  | .vclass h o => Sys2Proof.Machine.execVclass h o s
  | .vsel h o => Sys2Proof.Machine.execVsel h o s
  | .vmov h o => Sys2Proof.Machine.execVmov h o s
  | .vbcast h o => Sys2Proof.Machine.execVbcast h o s
  | .vperm h o => Sys2Proof.Machine.execVperm h o s
  | .vrot h o => Sys2Proof.Machine.execVrot h o s
  | .viota h o => Sys2Proof.Machine.execViota h o s
  | .vextr h o => Sys2Proof.Machine.execVextr h o s
  | .vins h o => Sys2Proof.Machine.execVins h o s
  | .vrsum h o => Sys2Proof.Machine.execVrsum h o s
  | .vrmax h o => Sys2Proof.Machine.execVrmax h o s
  | .vrmin h o => Sys2Proof.Machine.execVrmin h o s
  | .vror h o => Sys2Proof.Machine.execVror h o s
  | .vscan h o => Sys2Proof.Machine.execVscan h o s
  | .vwiden h o => Sys2Proof.Machine.execVwiden h o s
  | .vnarrow h o => Sys2Proof.Machine.execVnarrow h o s
  | .vdot4 h o => Sys2Proof.Machine.execVdot4 h o s
  | .kand h o => Sys2Proof.Machine.execKand h o s
  | .kor h o => Sys2Proof.Machine.execKor h o s
  | .kxor h o => Sys2Proof.Machine.execKxor h o s
  | .knot h o => Sys2Proof.Machine.execKnot h o s
  | .kpopc h o => Sys2Proof.Machine.execKpopc h o s
  | .kany h o => Sys2Proof.Machine.execKany h o s
  | .xnop h => Sys2Proof.Machine.execXnop h s
  | .xrcp h o => Sys2Proof.Machine.execXrcp h o s
  | .xrsq h o => Sys2Proof.Machine.execXrsq h o s
  | .xsqrt h o => Sys2Proof.Machine.execXsqrt h o s
  | .xexp2 h o => Sys2Proof.Machine.execXexp2 h o s
  | .xlog2 h o => Sys2Proof.Machine.execXlog2 h o s
  | .xtanh h o => Sys2Proof.Machine.execXtanh h o s
  | .xsig h o => Sys2Proof.Machine.execXsig h o s
  | .xdiv h o => Sys2Proof.Machine.execXdiv h o s
  | .xcvt h o => Sys2Proof.Machine.execXcvt h o s
  | .xamax h o => Sys2Proof.Machine.execXamax h o s
  | .xscale h o => Sys2Proof.Machine.execXscale h o s
  | .xqnt h o => Sys2Proof.Machine.execXqnt h o s
  | .xdqnt h o => Sys2Proof.Machine.execXdqnt h o s
  | .xseed h o => Sys2Proof.Machine.execXseed h o s
  | .xrand h o => Sys2Proof.Machine.execXrand h o s
  | .mnop h => Sys2Proof.Machine.execMnop h s
  | .mwld h o => Sys2Proof.Machine.execMwld h o s
  | .mswap h o => Sys2Proof.Machine.execMswap h o s
  | .mshf h o => Sys2Proof.Machine.execMshf h o s
  | .macc h o => Sys2Proof.Machine.execMacc h o s
  | .maccz h o => Sys2Proof.Machine.execMaccz h o s
  | .mdrn h o => Sys2Proof.Machine.execMdrn h o s
  | .mzero h o => Sys2Proof.Machine.execMzero h o s
  | .manch h o => Sys2Proof.Machine.execManch h o s
  | .mscl h o => Sys2Proof.Machine.execMscl h o s
  | .mxsc h o => Sys2Proof.Machine.execMxsc h o s
  | .cnop h => Sys2Proof.Machine.execCnop h s
  | .copy h o => Sys2Proof.Machine.execCopy h o s
  | .copynb h o => Sys2Proof.Machine.execCopynb h o s
  | .twany h o => Sys2Proof.Machine.execTwany h o s
  | .twall h o => Sys2Proof.Machine.execTwall h o s
  | .tfind h o => Sys2Proof.Machine.execTfind h o s
  | .tclr h o => Sys2Proof.Machine.execTclr h o s
  | .fence h o => Sys2Proof.Machine.execFence h o s
  | .fenceInstr h => Sys2Proof.Machine.execFenceInstr h s
  | .drain h o => Sys2Proof.Machine.execDrain h o s
  | .barrive h o => Sys2Proof.Machine.execBarrive h o s
  | .bwait h o => Sys2Proof.Machine.execBwait h o s
  | .btest h o => Sys2Proof.Machine.execBtest h o s
  | .step h o => Sys2Proof.Machine.execStep h o s
  | .trigger h o => Sys2Proof.Machine.execTrigger h o s
  | .exit h => Sys2Proof.Machine.execExit h s
  | .submit h o => Sys2Proof.Machine.execSubmit h o s
  | .skim h o => Sys2Proof.Machine.execSkim h o s
  | .evadd h o => Sys2Proof.Machine.execEvadd h o s
  | .evwait h o => Sys2Proof.Machine.execEvwait h o s
  | .trap h o => Sys2Proof.Machine.execTrap h o s
  | .reti h => Sys2Proof.Machine.execReti h s
  | .lsave h o => Sys2Proof.Machine.execLsave h o s
  | .lload h o => Sys2Proof.Machine.execLload h o s
  | .svsave h o => Sys2Proof.Machine.execSvsave h o s
  | .svload h o => Sys2Proof.Machine.execSvload h o s
  | .bundleIssue => Sys2Proof.Machine.execBundleIssue s
  | .nullifierSkip => Sys2Proof.Machine.execNullifierSkip s
  | .resultLanding => Sys2Proof.Machine.execResultLanding s
  | .variableResultArrival => Sys2Proof.Machine.execVariableResultArrival s
  | .deferredLoadErrorTrap => Sys2Proof.Machine.execDeferredLoadErrorTrap s
  | .machineErrorTrap => Sys2Proof.Machine.execMachineErrorTrap s
  | .preemptionStop => Sys2Proof.Machine.execPreemptionStop s
  | .preemptHeldTimeout => Sys2Proof.Machine.execPreemptHeldTimeout s
  | .systemTrapEntry => Sys2Proof.Machine.execSystemTrapEntry s
  | .stepDelivery => Sys2Proof.Machine.execStepDelivery s
  | .copynbStatus => Sys2Proof.Machine.execCopynbStatus s
  | .submitStatus => Sys2Proof.Machine.execSubmitStatus s
  | .skimStatus => Sys2Proof.Machine.execSkimStatus s
  | .readPortFill => Sys2Proof.Machine.execReadPortFill s
  | .writePortWrite => Sys2Proof.Machine.execWritePortWrite s
  | .groupLoadMemberRead => Sys2Proof.Machine.execGroupLoadMemberRead s
  | .groupLoadComplete => Sys2Proof.Machine.execGroupLoadComplete s
  | .htakeOfferAccept => Sys2Proof.Machine.execHtakeOfferAccept s
  | .handleReturnComplete => Sys2Proof.Machine.execHandleReturnComplete s
  | .exitComplete => Sys2Proof.Machine.execExitComplete s
  | .copyStart => Sys2Proof.Machine.execCopyStart s
  | .copyComplete => Sys2Proof.Machine.execCopyComplete s
  | .svCommandComplete => Sys2Proof.Machine.execSvCommandComplete s
  | .launchByDelta => Sys2Proof.Machine.execLaunchByDelta s
  | .launchByReference => Sys2Proof.Machine.execLaunchByReference s
  | .queueReset => Sys2Proof.Machine.execQueueReset s
  | .queueSetInOrder => Sys2Proof.Machine.execQueueSetInOrder s
  | .queueSetConcurrent => Sys2Proof.Machine.execQueueSetConcurrent s
  | .queueDisable => Sys2Proof.Machine.execQueueDisable s
  | .queueEnable => Sys2Proof.Machine.execQueueEnable s
  | .submissionStrayWrite => Sys2Proof.Machine.execSubmissionStrayWrite s
  | .groupListRead => Sys2Proof.Machine.execGroupListRead s
  | .launchAdmission => Sys2Proof.Machine.execLaunchAdmission s
  | .clusterJoin => Sys2Proof.Machine.execClusterJoin s
  | .stepService => Sys2Proof.Machine.execStepService s
  | .earlyTriggerAdd => Sys2Proof.Machine.execEarlyTriggerAdd s
  | .launchCompletion => Sys2Proof.Machine.execLaunchCompletion s
  | .preemptionDeadlineExpiry => Sys2Proof.Machine.execPreemptionDeadlineExpiry s
  | .launchPreempted => Sys2Proof.Machine.execLaunchPreempted s
  | .launchResume => Sys2Proof.Machine.execLaunchResume s
  | .priorityAgeing => Sys2Proof.Machine.execPriorityAgeing s
  | .counterAddWrite => Sys2Proof.Machine.execCounterAddWrite s
  | .counterSetWrite => Sys2Proof.Machine.execCounterSetWrite s
  | .evtIrqWrite => Sys2Proof.Machine.execEvtIrqWrite s
  | .storyboardLoad => Sys2Proof.Machine.execStoryboardLoad s
  | .storyboardRun => Sys2Proof.Machine.execStoryboardRun s
  | .runArming => Sys2Proof.Machine.execRunArming s
  | .entryFire => Sys2Proof.Machine.execEntryFire s
  | .noticeReceive => Sys2Proof.Machine.execNoticeReceive s
  | .noticeRepost => Sys2Proof.Machine.execNoticeRepost s
  | .pullNoticeMatch => Sys2Proof.Machine.execPullNoticeMatch s
  | .roomAcquire => Sys2Proof.Machine.execRoomAcquire s
  | .pullDataArrival => Sys2Proof.Machine.execPullDataArrival s
  | .noticeComplete => Sys2Proof.Machine.execNoticeComplete s
  | .entryComplete => Sys2Proof.Machine.execEntryComplete s
  | .flitReceive => Sys2Proof.Machine.execFlitReceive s
  | .translationFaultPark => Sys2Proof.Machine.execTranslationFaultPark s
  | .xlRootWrite => Sys2Proof.Machine.execXlRootWrite s
  | .xlInvalWrite => Sys2Proof.Machine.execXlInvalWrite s
  | .xlInvalComplete => Sys2Proof.Machine.execXlInvalComplete s
  | .xlResolveResume => Sys2Proof.Machine.execXlResolveResume s
  | .xlResolveAbort => Sys2Proof.Machine.execXlResolveAbort s
  | .ringTailWrite => Sys2Proof.Machine.execRingTailWrite s
  | .ringConfigWrite => Sys2Proof.Machine.execRingConfigWrite s
  | .dmConfigWrite => Sys2Proof.Machine.execDmConfigWrite s
  | .hwErrorEvent => Sys2Proof.Machine.execHwErrorEvent s
  | .makeGoodRebuild => Sys2Proof.Machine.execMakeGoodRebuild s
  | .hbmRetrain => Sys2Proof.Machine.execHbmRetrain s
  | .selfRefreshEntry => Sys2Proof.Machine.execSelfRefreshEntry s
  | .skimEngineStart => Sys2Proof.Machine.execSkimEngineStart s
  | .skimBlockQuantise => Sys2Proof.Machine.execSkimBlockQuantise s
  | .skimRecordComplete => Sys2Proof.Machine.execSkimRecordComplete s
  | .hostDevmemAccess => Sys2Proof.Machine.execHostDevmemAccess s
  | .coreCtlFence => Sys2Proof.Machine.execCoreCtlFence s
  | .coreCtlEnd => Sys2Proof.Machine.execCoreCtlEnd s
  | .coreCtlStop => Sys2Proof.Machine.execCoreCtlStop s
  | .fabricPkgidWrite => Sys2Proof.Machine.execFabricPkgidWrite s
  | .fabricDimsWrite => Sys2Proof.Machine.execFabricDimsWrite s
  | .secPolicyWrite => Sys2Proof.Machine.execSecPolicyWrite s
  | .registerWrite => Sys2Proof.Machine.execRegisterWrite s
  | .mboxAttest => Sys2Proof.Machine.execMboxAttest s
  | .mboxImageChunk => Sys2Proof.Machine.execMboxImageChunk s
  | .mboxImageEnd => Sys2Proof.Machine.execMboxImageEnd s
  | .mboxImageReset => Sys2Proof.Machine.execMboxImageReset s
  | .mboxUnknownCommand => Sys2Proof.Machine.execMboxUnknownCommand s
  | .resetRelease => Sys2Proof.Machine.execResetRelease s
  | .sensorAlarm => Sys2Proof.Machine.execSensorAlarm s
  | .powerManagerTick => Sys2Proof.Machine.execPowerManagerTick s
  | .thermalTrip => Sys2Proof.Machine.execThermalTrip s
  | .thermalStepTick => Sys2Proof.Machine.execThermalStepTick s
  | .i3cTelemetryRead => Sys2Proof.Machine.execI3cTelemetryRead s
  | .i3cCapWrite => Sys2Proof.Machine.execI3cCapWrite s
  | .i3cStatusRead => Sys2Proof.Machine.execI3cStatusRead s
  | .i3cFenceMapRead => Sys2Proof.Machine.execI3cFenceMapRead s
  | .i3cUnknownCommand => Sys2Proof.Machine.execI3cUnknownCommand s
  | .powerCycle => Sys2Proof.Machine.execPowerCycle s
  | .portRetrainingComplete => Sys2Proof.Machine.execPortRetrainingComplete s
  | .entdaa => Sys2Proof.Machine.execEntdaa s

end Sys2Proof.Machine
end

