-- ==== Sys2Proof/Machine/Step.lean ====
section
/-! DEFINITION. One step of the machine. The next move of the agenda is made: an event of the opcode table by its
instruction, a move that is none by Machine/Internal.lean. With an empty agenda the core whose turn it is makes one cycle:
a bundle of one operation by that instruction, any other as a whole. -/

namespace Sys2Proof.Machine

/-- The instruction that works a move, when it is an event of the opcode table. -/
def moveInstr (m : Move) : Option Instr :=
  match m with
  | .bundleIssue _ => some .bundleIssue
  | .nullifierSkip _ => some .nullifierSkip
  | .resultLanding _ => some .resultLanding
  | .variableResultArrival _ _ => some .variableResultArrival
  | .deferredLoadErrorTrap _ => some .deferredLoadErrorTrap
  | .machineErrorTrap _ => some .machineErrorTrap
  | .preemptionStop _ => some .preemptionStop
  | .preemptHeldTimeout _ => some .preemptHeldTimeout
  | .systemTrapEntry _ => some .systemTrapEntry
  | .stepDelivery _ => some .stepDelivery
  | .copynbStatus _ _ => some .copynbStatus
  | .submitStatus _ _ => some .submitStatus
  | .skimStatus _ _ => some .skimStatus
  | .readPortFill _ _ => some .readPortFill
  | .writePortWrite _ _ => some .writePortWrite
  | .groupLoadMemberRead _ _ _ _ => some .groupLoadMemberRead
  | .groupLoadComplete _ _ => some .groupLoadComplete
  | .htakeOfferAccept _ => some .htakeOfferAccept
  | .handleReturnComplete _ _ => some .handleReturnComplete
  | .exitComplete _ => some .exitComplete
  | .copyStart _ => some .copyStart
  | .copyComplete _ => some .copyComplete
  | .svCommandComplete _ _ => some .svCommandComplete
  | .launchByDelta _ _ => some .launchByDelta
  | .launchByReference _ _ => some .launchByReference
  | .queueReset _ _ => some .queueReset
  | .queueSetInOrder _ _ => some .queueSetInOrder
  | .queueSetConcurrent _ _ => some .queueSetConcurrent
  | .queueDisable _ _ => some .queueDisable
  | .queueEnable _ _ => some .queueEnable
  | .submissionStrayWrite _ => some .submissionStrayWrite
  | .groupListRead _ => some .groupListRead
  | .launchAdmission _ => some .launchAdmission
  | .clusterJoin _ _ => some .clusterJoin
  | .stepService _ => some .stepService
  | .earlyTriggerAdd _ => some .earlyTriggerAdd
  | .launchCompletion _ => some .launchCompletion
  | .preemptionDeadlineExpiry _ => some .preemptionDeadlineExpiry
  | .launchPreempted _ => some .launchPreempted
  | .launchResume _ => some .launchResume
  | .priorityAgeing _ => some .priorityAgeing
  | .counterAddWrite _ _ => some .counterAddWrite
  | .counterSetWrite _ _ => some .counterSetWrite
  | .evtIrqWrite _ _ _ => some .evtIrqWrite
  | .storyboardLoad _ _ => some .storyboardLoad
  | .storyboardRun _ _ => some .storyboardRun
  | .runArming _ => some .runArming
  | .entryFire _ _ => some .entryFire
  | .noticeReceive _ _ => some .noticeReceive
  | .noticeRepost _ _ => some .noticeRepost
  | .pullNoticeMatch _ _ => some .pullNoticeMatch
  | .roomAcquire _ _ => some .roomAcquire
  | .pullDataArrival _ _ _ _ => some .pullDataArrival
  | .noticeComplete _ _ => some .noticeComplete
  | .entryComplete _ _ => some .entryComplete
  | .flitReceive _ _ => some .flitReceive
  | .translationFaultPark _ => some .translationFaultPark
  | .xlRootWrite _ => some .xlRootWrite
  | .xlInvalWrite _ => some .xlInvalWrite
  | .xlInvalComplete => some .xlInvalComplete
  | .xlResolveResume _ => some .xlResolveResume
  | .xlResolveAbort _ => some .xlResolveAbort
  | .ringTailWrite _ _ => some .ringTailWrite
  | .ringConfigWrite _ _ _ => some .ringConfigWrite
  | .dmConfigWrite _ => some .dmConfigWrite
  | .hwErrorEvent _ _ _ _ _ _ => some .hwErrorEvent
  | .makeGoodRebuild _ _ => some .makeGoodRebuild
  | .hbmRetrain _ _ => some .hbmRetrain
  | .selfRefreshEntry _ => some .selfRefreshEntry
  | .skimEngineStart _ => some .skimEngineStart
  | .skimBlockQuantise _ _ => some .skimBlockQuantise
  | .skimRecordComplete _ => some .skimRecordComplete
  | .hostDevmemAccess _ _ _ => some .hostDevmemAccess
  | .coreCtlFence _ => some .coreCtlFence
  | .coreCtlEnd _ => some .coreCtlEnd
  | .coreCtlStop _ => some .coreCtlStop
  | .fabricPkgidWrite _ => some .fabricPkgidWrite
  | .fabricDimsWrite _ => some .fabricDimsWrite
  | .secPolicyWrite _ => some .secPolicyWrite
  | .registerWrite _ _ _ => some .registerWrite
  | .mboxAttest => some .mboxAttest
  | .mboxImageChunk => some .mboxImageChunk
  | .mboxImageEnd _ _ => some .mboxImageEnd
  | .mboxImageReset => some .mboxImageReset
  | .mboxUnknownCommand => some .mboxUnknownCommand
  | .resetRelease _ => some .resetRelease
  | .sensorAlarm _ => some .sensorAlarm
  | .powerManagerTick _ => some .powerManagerTick
  | .thermalTrip _ => some .thermalTrip
  | .thermalStepTick _ => some .thermalStepTick
  | .i3cTelemetryRead _ => some .i3cTelemetryRead
  | .i3cCapWrite _ _ => some .i3cCapWrite
  | .i3cStatusRead _ => some .i3cStatusRead
  | .i3cFenceMapRead _ => some .i3cFenceMapRead
  | .i3cUnknownCommand _ _ => some .i3cUnknownCommand
  | .powerCycle => some .powerCycle
  | .portRetrainingComplete _ _ => some .portRetrainingComplete
  | .entdaa _ => some .entdaa
  | _ => none

/-- One step. -/
def step (s : State) : Host.Outcome State Fault Refusal :=
  match s.agenda with
  | m :: rest =>
    (match moveInstr m with
      | some i => exec i s
      | none => .next (internal m { s with agenda := rest }))
  | [] =>
    match startIssue s.turn s with
    | (t, none) => .next t
    | (t, some b) =>
      match soloInstr b with
      | some i => exec i t
      | none => .next (issueWhole t.turn b t)

/-- The virtual and the physical address at which `withFetchWord` places an instruction. -/
def fetchPlace : Nat := 0x100000

/-- The physical address of the two tables that map it. -/
def fetchTables : Nat := 0x200000

/-- The instruction whose bits are `w` stands where core 0 fetches next, and core 0 runs a program and has the turn: the
tables of one 1 GiB page, the code, an empty agenda, and no trap due. -/
def State.withFetchWord (s : State) (nbits w : Nat) : State :=
  let s := s.write fetchTables 8 (fetchTables + 4096 + 1)
  let s := s.write (fetchTables + 4096) 8 0b1111
  let s := s.write fetchPlace 96 (w % 2 ^ nbits)
  let c := s.core 0
  let x := { c.prog with pc := BitVec.ofNat 64 fetchPlace, rep := 0, cur := none }
  let c := { c with mode := .program, prog := x, icache := [], loadErrors := [], machineErr := none, preempt := none }
  let d := { s.dm with lostSets := 0, lostFrames := [], unprotLost := 0 }
  { s.setCore 0 c with agenda := [], turn := 0, dm := d,
                       xl := { s.xl with root := BitVec.ofNat 64 fetchTables, tlb := [], walks := [] } }

end Sys2Proof.Machine
end

