-- ==== Sys2Proof/WellFormed.lean ====
section
/-! DEFINITION. The well-formed instructions: the class of slot that each operation may stand in (R21, R27) and no REASON
of R48 raised by its fields. The reasons themselves are in Decode.lean. -/

namespace Sys2Proof

/-- The class of slot that holds an operation; none for branch operations and events. -/
def opClass : Instr → Option Char
  | .snop .. | .add .. | .addImm .. | .sub .. | .subImm .. | .mul .. | .mulImm .. | .mulh .. | .mulhImm ..
  | .mulhz .. | .mulhzImm .. | .div .. | .divImm .. | .divz .. | .divzImm .. | .rem .. | .remImm ..
  | .remz .. | .remzImm .. | .and .. | .andImm .. | .or .. | .orImm .. | .xor .. | .xorImm .. | .andn ..
  | .andnImm .. | .shl .. | .shlImm .. | .shr .. | .shrImm .. | .sar .. | .sarImm .. | .rol .. | .rolImm ..
  | .min .. | .minImm .. | .max .. | .maxImm .. | .minz .. | .minzImm .. | .maxz .. | .maxzImm .. | .clz ..
  | .ctz .. | .popc .. | .bfx .. | .bfxz .. | .bfi .. | .fshl .. | .fshr .. | .sel .. | .selImm ..
  | .movi .. | .movhi .. | .cmpeq .. | .cmpeqImm .. | .cmpne .. | .cmpneImm .. | .cmplt .. | .cmpltImm ..
  | .cmple .. | .cmpleImm .. | .cmpltz .. | .cmpltzImm .. | .cmplez .. | .cmplezImm .. | .pand .. | .por ..
  | .pxor .. | .pandn .. | .pset .. | .fadd .. | .faddImm .. | .fsub .. | .fsubImm .. | .fmul .. | .fmulImm ..
  | .fma .. | .fmin .. | .fminImm .. | .fmax .. | .fmaxImm .. | .fcmpeq .. | .fcmpeqImm .. | .fcmplt ..
  | .fcmpltImm .. | .fcmple .. | .fcmpleImm .. | .fcvti .. | .fcvtf .. | .rdsr .. | .wrsr .. => some 'S'
  | .lnop .. | .ld .. | .ldIndexed .. | .ldPostinc .. | .st .. | .stIndexed .. | .stPostinc .. | .ldl ..
  | .ldlPostinc .. | .stl .. | .stlPostinc .. | .ldx .. | .stx .. | .gld .. | .glds .. | .amo .. | .cas ..
  | .amol .. | .pcfg .. | .prst .. | .hgive .. | .htake .. | .hback .. => some 'L'
  | .vnop .. | .vadd .. | .vsub .. | .vmul .. | .vfma .. | .vmin .. | .vmax .. | .vabs .. | .vneg ..
  | .vadds .. | .vsubs .. | .vmulh .. | .vand .. | .vor .. | .vxor .. | .vshl .. | .vshr .. | .vsar ..
  | .vbfx .. | .vbfxz .. | .vfshr .. | .vclz .. | .vpopc .. | .vcmpeq .. | .vcmpne .. | .vcmplt ..
  | .vcmple .. | .vclass .. | .vsel .. | .vmov .. | .vbcast .. | .vperm .. | .vrot .. | .viota .. | .vextr ..
  | .vins .. | .vrsum .. | .vrmax .. | .vrmin .. | .vror .. | .vscan .. | .vwiden .. | .vnarrow ..
  | .vdot4 .. | .kand .. | .kor .. | .kxor .. | .knot .. | .kpopc .. | .kany .. => some 'V'
  | .xnop .. | .xrcp .. | .xrsq .. | .xsqrt .. | .xexp2 .. | .xlog2 .. | .xtanh .. | .xsig .. | .xdiv ..
  | .xcvt .. | .xamax .. | .xscale .. | .xqnt .. | .xdqnt .. | .xseed .. | .xrand .. => some 'X'
  | .mnop .. | .mwld .. | .mswap .. | .mshf .. | .macc .. | .maccz .. | .mdrn .. | .mzero .. | .manch ..
  | .mscl .. | .mxsc .. => some 'M'
  | .cnop .. | .copy .. | .copynb .. | .twany .. | .twall .. | .tfind .. | .tclr .. | .fence .. | .fenceInstr ..
  | .drain .. | .barrive .. | .bwait .. | .btest .. | .step .. | .trigger .. | .exit .. | .submit ..
  | .skim .. | .evadd .. | .evwait .. | .trap .. | .reti .. | .lsave .. | .lload .. | .svsave .. | .svload .. => some 'C'
  | _ => none

/-- The length in words of the bundle that holds one instruction alone (R20). -/
def soloLength (i : Instr) : Nat := (encode i).length

/-- A slot operation in a slot of its class, or a branch operation, whose fields raise no REASON of R48. Events carry no
fields and are well formed. -/
def WellFormed (i : Instr) : Prop :=
  instrReasons (soloLength i) i = [] ∧
  match hdrOfInstr i with
  | some h => opClass i = some (slotClass h.slot) ∧ scopeReasons h.slot (encodeWord i) = []
  | none => True

/-- WellFormed as a check that can be run. -/
def wellFormed (i : Instr) : Bool :=
  (instrReasons (soloLength i) i).isEmpty &&
  match hdrOfInstr i with
  | some h => opClass i == some (slotClass h.slot) && (scopeReasons h.slot (encodeWord i)).isEmpty
  | none => true

end Sys2Proof
end

