-- ==== Sys2Proof/Safety.lean ====
section
/-! DEFINITION. What a safe run is, a run that neither faults nor is refused; and the terms in which the statements speak of
an issue: the state in which an operation reads, and what an issue leaves as it was. -/

namespace Sys2Proof

/-- `k` steps from `s` reach a state. -/
def Safe (k : Nat) (s : Machine.State) : Prop := ∃ t, core.run k s = .next t

end Sys2Proof

namespace Sys2Proof.Claims

open Sys2Proof.Machine

/-- The state in which instruction `i`, alone in its bundle, reads its operands on the core whose turn it is: the bundle is
under way, and the results due at this issue have landed (R7, R12). -/
def begun (i : Instr) (s : State) : State :=
  (s.modCtx s.turn (fun x => { x with cur := some (soloBundle i) })).modCore s.turn Core.landDue

/-- What the slot operation `i` with header `h` sees at its issue. -/
def seen (i : Instr) (h : Hdr) (s : State) : Env :=
  { core := s.turn, slot := h.slot.val, word := encodeWord i, s := begun i s, pc := (s.ctx s.turn).pc, popped := [],
    pushed := [] }

/-- A core that issues and has room in its write ports for what lands at the issue (R102), and an operation of it whose
guard is true as read at the issue (R27). -/
def CanIssue (i : Instr) (h : Hdr) (s : State) : Prop :=
  (s.core s.turn).runs = true ∧ (s.core s.turn).landFull = false ∧ WellFormed i ∧ hdrOfInstr i = some h ∧
  ((begun i s).ctx s.turn).pred h.pred.toNat = !h.neg

/-- No loop level ends at the bundle at the context's pc (R76). -/
def NoLoopEnd (x : Ctx) : Prop :=
  x.spec SR.ldepth = 0 ∨ x.spec (SR.le ((x.spec SR.ldepth).toNat - 1)) ≠ x.pc

/-- How many of the innermost of `d` levels end at the context's pc on their last trip (R76). -/
def endingLevels (x : Ctx) : Nat → Nat
  | 0 => 0
  | d + 1 => if x.spec (SR.le d) = x.pc ∧ x.spec (SR.lc d) = 1 then endingLevels x d + 1 else 0

/-- The levels that stay in use after the loop-end test; a depth that six levels do not give has none that ends (log 22). -/
def levelsLeft (x : Ctx) : Nat :=
  let d := (x.spec SR.ldepth).toNat
  if d ≤ 6 then d - endingLevels x d else d

/-- Whether the innermost level that stays ends at the context's pc too: it has trips left. -/
def levelRepeats (x : Ctx) : Bool :=
  decide (0 < levelsLeft x ∧ levelsLeft x ≤ 6) && x.spec (SR.le (levelsLeft x - 1)) == x.pc

/-- The registers of the loop stack. -/
def loopStackRegs : List Nat :=
  [0x08, 0x09, 0x0A, 0x0B, 0x0C, 0x0D, 0x10, 0x11, 0x12, 0x13, 0x14, 0x15, 0x18, 0x19, 0x1A, 0x1B, 0x1C, 0x1D, 0x1E]

/-- The loop-end test of a bundle of `len` words (R75, R76): of the levels that end there the innermost ones on their last
trip are removed, their counts zero; a level that has trips left counts one and starts its body again; where none has, the
core passes on to the next bundle. -/
def LoopTested (len : Nat) (x y : Ctx) : Prop :=
  y.pc = (if levelRepeats x then x.spec (SR.ls (levelsLeft x - 1)) else x.pc + BitVec.ofNat 64 (8 * len)) ∧
  y.spec SR.ldepth = BitVec.ofNat 64 (levelsLeft x) ∧
  ∀ l, l < 6 → y.spec (SR.ls l) = x.spec (SR.ls l) ∧ y.spec (SR.le l) = x.spec (SR.le l) ∧
    y.spec (SR.lc l) =
      if levelsLeft x ≤ l ∧ l < (x.spec SR.ldepth).toNat then 0
      else if levelRepeats x ∧ l + 1 = levelsLeft x then x.spec (SR.lc l) - 1
      else x.spec (SR.lc l)

/-- What one issue of a bundle of `len` words does to a context beside its results `fl`, which go into flight behind those
already there: every register, every empty bit and everything awaited stays; the issue is counted in program mode; the
loop-end test is made, and where no level ends the pc passes on to the next bundle; the other special registers stay. -/
def IssuedCtx (len counts : Nat) (fl : List Flight) (x y : Ctx) : Prop :=
  y.s = x.s ∧ y.empty = x.empty ∧ y.p = x.p ∧ y.oc = x.oc ∧ y.racc = x.racc ∧ y.vars = x.vars ∧ y.nextId = x.nextId ∧
  y.afterAcq = x.afterAcq ∧ y.afterRel = x.afterRel ∧ y.rep = 0 ∧ y.cur = none ∧
  y.flight = x.flight.map (fun f => { f with remain := f.remain - 1 }) ++ fl ∧
  y.spec SR.issues = x.spec SR.issues + BitVec.ofNat 64 counts ∧
  (∀ k, k < 0x08 ∨ 0x1E < k → k ≠ SR.issues → y.spec k = x.spec k) ∧
  (NoLoopEnd x → y.pc = x.pc + BitVec.ofNat 64 (8 * len) ∧ ∀ k, k ≠ SR.issues → y.spec k = x.spec k) ∧
  (∀ k, k ∉ loopStackRegs → k ≠ SR.issues → y.spec k = x.spec k) ∧ LoopTested len x y

/-- What one issue does to a core beside its results: every mask, tile, array and handle, and the other mode's context,
stays; ports lose the lines popped and count the lines pushed. -/
def IssuedCore (len : Nat) (fl : List Flight) (pops pushes : List Nat) (c d : Core) : Prop :=
  { d with prog := c.prog, sup := c.sup, ports := c.ports, handlerIssues := c.handlerIssues } = c ∧
  (∀ p, d.port p = { c.port p with queue := (c.port p).queue.drop (pops.count p),
                                   pushed := (c.port p).pushed + pushes.count p }) ∧
  (if c.inSup then d.prog = c.prog else d.sup = c.sup) ∧
  IssuedCtx len (if c.inSup then 0 else 1) fl c.ctx d.ctx

/-- What one issue on core `n` does to the package: `u` as its operation reads it, `t` after it. Everything outside the
cores, all of memory among it, and every other core stays. -/
def Issued (n len : Nat) (fl : List Flight) (pops pushes : List Nat) (u t : State) : Prop :=
  { t with cores := u.cores } = u ∧ (∀ m, m ≠ n → t.core m = u.core m) ∧
  IssuedCore len fl pops pushes (u.core n) (t.core n)

/-! ## Operands -/

/-- The sources of an operation can be read (R187, R188, R100): no register and no cell of them is empty, and every port
that one reads is configured and holds a line beyond those popped before it. -/
def SrcsReady (c : Core) : List Nat → List SrcRef → Prop
  | _, [] => True
  | popped, r :: rs =>
    srcEmpty c popped r = false ∧
    (∀ p, r.readPort = some p →
      (c.port p).conf = true ∧ (popped.filter (· == p)).length < (c.port p).queue.length) ∧
    SrcsReady c (popped ++ popsOf [r]) rs

/-- The destinations can be written (R187, R100, R102): none is empty, and a port pushed to is configured, has lines of
its walk left that may stand where it places them, and room in its queue. -/
def DstsReady (c : Core) (dsts : List DstRef) (pushes : List Nat) : Prop :=
  (∀ d ∈ dsts, dstEmpty c d = false) ∧ ∀ p ∈ pushes, pushFault c [] p = none ∧ pushFull c [] p = false

/-- What a line result of a destination specifier is in flight: lines of tiles, a push, or nothing (R30, R109). -/
def lineEff (spec : BitVec 13) (en : Line) (data : List Line) : Eff :=
  if specTile spec then .lines spec en data
  else match specWrite spec with
    | some p => .push (p - 8) (data.headD 0 &&& en)
    | none => .void

/-- What an instruction reads, writes and puts into flight; `mode` is the rounding mode field of one that rounds. Further
conditions under which it executes, what it changes at its issue beside its results, and what follows the issue. -/
structure Effect where
  srcs    : List SrcRef := []
  dsts    : List DstRef := []
  pushes  : List Nat := []
  mode    : Nat := 0
  results : List Flight := []
  ready   : Prop := True
  change  : State → State := id
  after   : State → State := id

/-- The mode that the core is in has the operation (R192, R200): supervisor mode has none in the V, X and M slots, save
their NOPs. -/
def ModeHas (i : Instr) (h : Hdr) (s : State) : Prop :=
  (s.core s.turn).inSup = true → h.slot.val < 4 ∨ h.slot.val = 8 ∨ (encodeWord i).toNat >>> 57 = 0

end Sys2Proof.Claims
end

