-- ==== Sys2Proof/Certificates/Slice0/Obligations.lean ====
section
/-! DEFINITION. The statements for the provers, after the terms in which they are made: for each family of the opcode table
what its instructions read, write and put into flight, written from the rules of the spec. -/

namespace Sys2Proof.Claims

open Sys2Proof.Machine

/-! ## Scalar operations (R56 to R74) -/

/-- A result of `l` issues of the operation that sees `v`. -/
def res (v : Env) (e : Eff) (l : Nat) (flags : Nat := 0) : Flight := ⟨e, l - 1, v.slot, false, flags, none⟩

/-- The result of a load or an atomic, which carries the header address of its bundle for a load error (R87). -/
def loadRes (v : Env) (e : Eff) (l : Nat) : Flight := { res v e l with site := some v.pc }

/-- A value for scalar register `d` after `l` issues, from the scalar sources `srcs`. -/
def toReg (v : Env) (srcs : List Src) (d : BitVec 6) (l : Nat) (x : W64) : Effect :=
  { srcs := srcs.map srcRef, dsts := [.reg d.toNat], results := [res v (.sreg d.toNat x) l] }

/-- A rounded FP32 pattern with its flags for scalar register `d`. -/
def toRegF (v : Env) (srcs : List Src) (d : BitVec 6) (l : Nat) (rm : BitVec 3) (x : Nat × Nat) : Effect :=
  { srcs := srcs.map srcRef, dsts := [.reg d.toNat], mode := rm.toNat,
    results := [res v (.sreg d.toNat (BitVec.ofNat 64 x.1)) l x.2] }

/-- A predicate after `l` issues. -/
def toPred (v : Env) (srcs : List Src) (p : BitVec 4) (l : Nat) (x : Bool) (flags : Nat := 0) : Effect :=
  { srcs := srcs.map srcRef, dsts := [.pred p.toNat], results := [res v (.pred p.toNat x) l flags] }

/-- The result of an integer operation of two operands, with its latency: R59 to R60. -/
def intResult (i : Instr) (a b : W64) : Option (Nat × W64) :=
  match i with
  | .add .. | .addImm .. => some (1, a + b)
  | .sub .. | .subImm .. => some (1, a - b)
  | .mul .. | .mulImm .. => some (3, a * b)
  | .mulh .. | .mulhImm .. => some (3, BitVec.ofInt 64 (a.toInt * b.toInt / 2 ^ 64))
  | .mulhz .. | .mulhzImm .. => some (3, BitVec.ofNat 64 (a.toNat * b.toNat / 2 ^ 64))
  | .div .. | .divImm .. => some (12, if b = 0 then BitVec.allOnes 64 else BitVec.ofInt 64 (a.toInt.tdiv b.toInt))
  | .divz .. | .divzImm .. => some (12, if b = 0 then BitVec.allOnes 64 else BitVec.ofNat 64 (a.toNat / b.toNat))
  | .rem .. | .remImm .. => some (12, if b = 0 then a else BitVec.ofInt 64 (a.toInt.tmod b.toInt))
  | .remz .. | .remzImm .. => some (12, if b = 0 then a else BitVec.ofNat 64 (a.toNat % b.toNat))
  | .and .. | .andImm .. => some (1, a &&& b)
  | .or .. | .orImm .. => some (1, a ||| b)
  | .xor .. | .xorImm .. => some (1, a ^^^ b)
  | .andn .. | .andnImm .. => some (1, a &&& ~~~b)
  | .shl .. | .shlImm .. => some (1, a <<< (b.toNat % 64))
  | .shr .. | .shrImm .. => some (1, a >>> (b.toNat % 64))
  | .sar .. | .sarImm .. => some (1, a.sshiftRight (b.toNat % 64))
  | .rol .. | .rolImm .. => some (1, a.rotateLeft (b.toNat % 64))
  | .min .. | .minImm .. => some (1, if a.slt b then a else b)
  | .max .. | .maxImm .. => some (1, if a.slt b then b else a)
  | .minz .. | .minzImm .. => some (1, if a.ult b then a else b)
  | .maxz .. | .maxzImm .. => some (1, if a.ult b then b else a)
  | _ => none

/-- What an integer operation of registers, or of a register and an immediate, reads and writes. -/
def intEffect (v : Env) (i : Instr) : Option Effect :=
  match i with
  | .add _ o | .sub _ o | .mul _ o | .mulh _ o | .mulhz _ o | .div _ o | .divz _ o | .rem _ o | .remz _ o | .and _ o
  | .or _ o | .xor _ o | .andn _ o | .shl _ o | .shr _ o | .sar _ o | .rol _ o | .min _ o | .max _ o | .minz _ o
  | .maxz _ o => (intResult i (v.src o.a) (v.src o.b)).map (fun r => toReg v [o.a, o.b] o.d r.1 r.2)
  | .addImm _ o | .subImm _ o | .mulImm _ o | .mulhImm _ o | .mulhzImm _ o | .divImm _ o | .divzImm _ o | .remImm _ o
  | .remzImm _ o | .andImm _ o | .orImm _ o | .xorImm _ o | .andnImm _ o | .shlImm _ o | .shrImm _ o | .sarImm _ o
  | .rolImm _ o | .minImm _ o | .maxImm _ o | .minzImm _ o | .maxzImm _ o =>
    (intResult i (v.src o.a) (o.imm.signExtend 64)).map (fun r => toReg v [o.a] o.d r.1 r.2)
  | _ => none

/-- Bit counts, bit fields, funnel shifts, selection and moves (R59, R61 to R63), RDSR (R71); supervisor mode has no handles
to read (assumption 53). -/
def moveEffect (v : Env) (i : Instr) : Option Effect :=
  match i with
  | .clz _ o => some (toReg v [o.a] o.d 1
      (BitVec.ofNat 64 (if v.src o.a = 0 then 64 else 63 - Nat.log2 (v.src o.a).toNat)))
  | .ctz _ o => some (toReg v [o.a] o.d 1
      (BitVec.ofNat 64 (((List.range 64).find? (fun i => (v.src o.a).getLsbD i)).getD 64)))
  | .popc _ o => some (toReg v [o.a] o.d 1
      (BitVec.ofNat 64 ((List.range 64).filter (fun i => (v.src o.a).getLsbD i)).length))
  | .bfx _ o => some (toReg v [o.a] o.d 1
      (let f := min (o.wm1.toNat + 1) (64 - o.pos.toNat)
       (((v.src o.a) >>> o.pos.toNat).setWidth f).signExtend 64))
  | .bfxz _ o => some (toReg v [o.a] o.d 1
      (let f := min (o.wm1.toNat + 1) (64 - o.pos.toNat)
       (((v.src o.a) >>> o.pos.toNat).setWidth f).setWidth 64))
  | .bfi _ o => some (toReg v [o.a, o.b] o.d 1
      (let f := min (o.wm1.toNat + 1) (64 - o.pos.toNat)
       let m := BitVec.ofNat 64 ((2 ^ f - 1) <<< o.pos.toNat)
       (v.src o.a &&& ~~~m) ||| (v.src o.b <<< o.pos.toNat &&& m)))
  | .fshl _ o => some (toReg v [o.a, o.b, o.c] o.d 1
      (((v.src o.a ++ v.src o.b) <<< ((v.src o.c).toNat % 64)).extractLsb' 64 64))
  | .fshr _ o => some (toReg v [o.a, o.b, o.c] o.d 1
      (((v.src o.a ++ v.src o.b) >>> ((v.src o.c).toNat % 64)).extractLsb' 0 64))
  | .sel _ o => some (toReg v [o.a, o.b] o.d 1 (if v.x.pred o.q.toNat then v.src o.a else v.src o.b))
  | .selImm _ o => some (toReg v [o.a] o.d 1 (if v.x.pred o.q.toNat then v.src o.a else o.imm.signExtend 64))
  | .movi _ o => some (toReg v [] o.d 1 (o.imm.signExtend 64))
  | .movhi _ o => some (toReg v [o.a] o.d 1 (o.imm ++ (v.src o.a).setWidth 32))
  | .rdsr _ o => some (toReg v [] o.d 1
      (if v.c.inSup = true ∧ o.num.toNat = SR.handles then 0 else v.s.special v.core v.x o.num.toNat))
  | _ => none

/-- Compares and predicate operations (R64, R65). -/
def predEffect (v : Env) (i : Instr) : Option Effect :=
  match i with
  | .cmpeq _ o => some (toPred v [o.a, o.b] o.pd 1 (v.src o.a == v.src o.b))
  | .cmpne _ o => some (toPred v [o.a, o.b] o.pd 1 (v.src o.a != v.src o.b))
  | .cmplt _ o => some (toPred v [o.a, o.b] o.pd 1 ((v.src o.a).slt (v.src o.b)))
  | .cmple _ o => some (toPred v [o.a, o.b] o.pd 1 ((v.src o.a).sle (v.src o.b)))
  | .cmpltz _ o => some (toPred v [o.a, o.b] o.pd 1 ((v.src o.a).ult (v.src o.b)))
  | .cmplez _ o => some (toPred v [o.a, o.b] o.pd 1 ((v.src o.a).ule (v.src o.b)))
  | .cmpeqImm _ o => some (toPred v [o.a] o.pd 1 (v.src o.a == o.imm.signExtend 64))
  | .cmpneImm _ o => some (toPred v [o.a] o.pd 1 (v.src o.a != o.imm.signExtend 64))
  | .cmpltImm _ o => some (toPred v [o.a] o.pd 1 ((v.src o.a).slt (o.imm.signExtend 64)))
  | .cmpleImm _ o => some (toPred v [o.a] o.pd 1 ((v.src o.a).sle (o.imm.signExtend 64)))
  | .cmpltzImm _ o => some (toPred v [o.a] o.pd 1 ((v.src o.a).ult (o.imm.signExtend 64)))
  | .cmplezImm _ o => some (toPred v [o.a] o.pd 1 ((v.src o.a).ule (o.imm.signExtend 64)))
  | .pand _ o => some (toPred v [] o.pd 1 ((v.x.pred o.pa.toNat != o.na) && (v.x.pred o.pb.toNat != o.nb)))
  | .por _ o => some (toPred v [] o.pd 1 ((v.x.pred o.pa.toNat != o.na) || (v.x.pred o.pb.toNat != o.nb)))
  | .pxor _ o => some (toPred v [] o.pd 1 ((v.x.pred o.pa.toNat != o.na) ^^ (v.x.pred o.pb.toNat != o.nb)))
  | .pandn _ o => some (toPred v [] o.pd 1 ((v.x.pred o.pa.toNat != o.na) && !(v.x.pred o.pb.toNat != o.nb)))
  | .pset _ o =>
    let ps := (List.range 16).filter (fun k => k != 0 && o.imm.getLsbD (16 + k))
    some { dsts := ps.map .pred, results := ps.map (fun k => res v (.pred k (o.imm.getLsbD k)) 1) }
  | _ => none

/-- How a scalar FP32 operation rounds: the key of R67 is the issue count. -/
def scalarRound (v : Env) (rm : BitVec 3) : Num.Rnd :=
  v.x.rnd rm.toNat 0 ((v.x.spec SR.issues).toNat % 2 ^ 20) false

/-- An f32 operand: the low half of a register. -/
def f32Of (v : Env) (s : Src) : Num.FVal := Num.f32.val ((v.src s).toNat % 2 ^ 32)

/-- Scalar FP32 (R66 to R70): arithmetic in four issues, minimum, maximum and compares in two. -/
def fpEffect (v : Env) (i : Instr) : Option Effect :=
  match i with
  | .fadd _ o => some (toRegF v [o.a, o.b] o.d 4 o.rm
      (Num.fadd Num.f32 (scalarRound v o.rm) 0 (f32Of v o.a) (f32Of v o.b)))
  | .fsub _ o => some (toRegF v [o.a, o.b] o.d 4 o.rm
      (Num.fadd Num.f32 (scalarRound v o.rm) 0 (f32Of v o.a) (f32Of v o.b).neg))
  | .fmul _ o => some (toRegF v [o.a, o.b] o.d 4 o.rm
      (Num.fmul Num.f32 (scalarRound v o.rm) (f32Of v o.a) (f32Of v o.b)))
  | .faddImm _ o => some (toRegF v [o.a] o.d 4 o.rm
      (Num.fadd Num.f32 (scalarRound v o.rm) 0 (f32Of v o.a) (Num.f32.val o.imm.toNat)))
  | .fsubImm _ o => some (toRegF v [o.a] o.d 4 o.rm
      (Num.fadd Num.f32 (scalarRound v o.rm) 0 (f32Of v o.a) (Num.f32.val o.imm.toNat).neg))
  | .fmulImm _ o => some (toRegF v [o.a] o.d 4 o.rm
      (Num.fmul Num.f32 (scalarRound v o.rm) (f32Of v o.a) (Num.f32.val o.imm.toNat)))
  | .fma _ o => some (toRegF v [o.a, o.b, o.c] o.d 4 o.rm
      (Num.ffma Num.f32 (scalarRound v o.rm) (f32Of v o.a) (f32Of v o.b) (f32Of v o.c)))
  | .fmin _ o => some (toRegF v [o.a, o.b] o.d 2 o.rm
      (Num.fminmax Num.f32 false ((v.src o.a).toNat % 2 ^ 32) ((v.src o.b).toNat % 2 ^ 32)))
  | .fmax _ o => some (toRegF v [o.a, o.b] o.d 2 o.rm
      (Num.fminmax Num.f32 true ((v.src o.a).toNat % 2 ^ 32) ((v.src o.b).toNat % 2 ^ 32)))
  | .fminImm _ o => some (toRegF v [o.a] o.d 2 o.rm
      (Num.fminmax Num.f32 false ((v.src o.a).toNat % 2 ^ 32) o.imm.toNat))
  | .fmaxImm _ o => some (toRegF v [o.a] o.d 2 o.rm
      (Num.fminmax Num.f32 true ((v.src o.a).toNat % 2 ^ 32) o.imm.toNat))
  | .fcmpeq _ o => let r := Num.fcmp .eq (f32Of v o.a) (f32Of v o.b); some (toPred v [o.a, o.b] o.pd 2 r.1 r.2)
  | .fcmplt _ o => let r := Num.fcmp .lt (f32Of v o.a) (f32Of v o.b); some (toPred v [o.a, o.b] o.pd 2 r.1 r.2)
  | .fcmple _ o => let r := Num.fcmp .le (f32Of v o.a) (f32Of v o.b); some (toPred v [o.a, o.b] o.pd 2 r.1 r.2)
  | .fcmpeqImm _ o =>
    let r := Num.fcmp .eq (f32Of v o.a) (Num.f32.val o.imm.toNat); some (toPred v [o.a] o.pd 2 r.1 r.2)
  | .fcmpltImm _ o =>
    let r := Num.fcmp .lt (f32Of v o.a) (Num.f32.val o.imm.toNat); some (toPred v [o.a] o.pd 2 r.1 r.2)
  | .fcmpleImm _ o =>
    let r := Num.fcmp .le (f32Of v o.a) (Num.f32.val o.imm.toNat); some (toPred v [o.a] o.pd 2 r.1 r.2)
  | .fcvti _ o =>
    let n := if o.wide then 64 else 32
    let r := Num.toInt (if Num.tySigned o.ty then -(2 ^ (n - 1)) else 0)
      (if Num.tySigned o.ty then 2 ^ (n - 1) - 1 else 2 ^ n - 1) (scalarRound v o.rm) (f32Of v o.a)
    some { srcs := [srcRef o.a], dsts := [.reg o.d.toNat], mode := o.rm.toNat,
           results := [res v (.sreg o.d.toNat (BitVec.ofInt 64 r.1)) 4 r.2] }
  | .fcvtf _ o =>
    let n := if o.wide then 64 else 32
    let x : Int := if Num.tySigned o.ty then Num.signExt (v.src o.a).toNat n else ((v.src o.a).toNat % 2 ^ n : Nat)
    some (toRegF v [o.a] o.d 4 o.rm (Num.f32.roundVal (scalarRound v o.rm) (Num.ofInt x)))
  | _ => none

/-- The instruction, alone in its bundle and with its operands ready, completes: the machine goes to a next state in which
its changes are made, its results are in flight and everything else is as an issue leaves it. -/
def Completes (effect : Env → Instr → Option Effect) : Prop :=
  ∀ (i : Instr) (h : Hdr) (s : State) (e : Effect), CanIssue i h s → ModeHas i h s →
    effect (seen i h s) i = some e → SrcsReady (seen i h s).c [] e.srcs → DstsReady (seen i h s).c e.dsts e.pushes →
    (seen i h s).x.srStall e.mode = false → e.ready →
    ∃ w, Issued s.turn 2 e.results (popsOf e.srcs) e.pushes (e.change (begun i s)) w ∧ exec i s = .next (e.after w)
/-! ## Vector operations (R108 to R129) -/

/-- The element width in bits of an operation, and the number of elements of a line. -/
def vw (o : VF) : Nat := tyWidth o.ty
def vn (o : VF) : Nat := 4096 / vw o

/-- Element `j` of the first source, of the second source, and of the destination as it stood. -/
def elemA (o : VF) (v : Env) (j : Nat) : Nat := lineElem (vw o) (v.line o.s1 (vw o) 0) j
def elemB (o : VF) (v : Env) (j : Nat) : Nat := lineElem (vw o) (v.line2 o.s1 o.s2 (vw o)) j
def elemD (o : VF) (v : Env) (j : Nat) : Nat := lineElem (vw o) (tileLine v.c.tiles o.dst false) j

/-- Whether element `j` of width `w` is active under mask `k` (R108): the mask bit of its lowest byte. -/
def active (v : Env) (k : BitVec 4) (w j : Nat) : Bool := (v.c.mask k.toNat).getLsbD (j * w / 8)

/-- How element `j` rounds (R116). -/
def vRound (o : VF) (v : Env) (j : Nat) : Num.Rnd := v.x.rnd o.mode.toNat (specRow o.dst) j o.sat

/-- The line of elements `f 0`, `f 1`, …, of width `w`. -/
def lineBy (w : Nat) (f : Nat → Nat) : Line := lineOf w ((List.range (4096 / w)).map f)

/-- The enables of the elements for which `f` holds. -/
def enablesBy (w : Nat) (f : Nat → Bool) : Line := lineBy w (fun j => if f j then 2 ^ w - 1 else 0)

/-- The union of the flags `f 0`, …, `f (n - 1)`. -/
def flagsBy (n : Nat) (f : Nat → Nat) : Nat := orAll ((List.range n).map f)

/-- Values and flags of all elements, landed under the mask (R109): an inactive element is zero with Z and keeps its value
otherwise, and raises no flag. -/
def maskedLine (o : VF) (v : Env) (srcs : List SrcRef) (l : Nat) (f : Nat → Nat × Nat) : Effect :=
  let act := active v o.k (vw o)
  { srcs := srcs, dsts := [.line o.dst 1 false], pushes := pushesOf o.dst, mode := o.mode.toNat,
    results := [res v (lineEff o.dst (if o.z then fullLine else enablesBy (vw o) act)
      [lineBy (vw o) (fun j => if act j then (f j).1 else 0)]) l (flagsBy (vn o) (fun j => if act j then (f j).2 else 0))] }

/-- The lesser or the greater of two elements. -/
def elemMinMax (o : VF) (isMax : Bool) (a b : Nat) : Nat × Nat :=
  if tyF o.ty then Num.fminmax (Num.fmtOf o.ty) isMax a b
  else (if (Num.intVal o.ty a ≤ Num.intVal o.ty b) = isMax then b else a, 0)

/-- Half of an exact integer, rounded to the width (R115). -/
def elemHalf (o : VF) (r : Num.Rnd) (x : Int) : Nat × Nat :=
  (Num.lowBits (Num.roundInt r (x < 0) x.natAbs (-1)).1 (vw o), 0)

/-- The position and the width of the field that VBFX and VBFXZ extract under a control element. -/
def elemField (o : VF) (b : Nat) : Nat × Nat := (b % vw o, min (b / 256 % vw o + 1) (vw o - b % vw o))

/-- Results element by element on one source, on two, and on two with the destination first. -/
def onOne (o : VF) (v : Env) (l : Nat) (f : Nat → Nat × Nat) : Option Effect :=
  some (maskedLine o v [lineRef o.s1 (vw o)] l (fun j => f (elemA o v j)))
def onTwo (o : VF) (v : Env) (l : Nat) (f : Num.Rnd → Nat → Nat → Nat × Nat) : Option Effect :=
  some (maskedLine o v [lineRef o.s1 (vw o), lineRef o.s2 (vw o)] l
    (fun j => f (vRound o v j) (elemA o v j) (elemB o v j)))
def onThree (o : VF) (v : Env) (l : Nat) (f : Num.Rnd → Nat → Nat → Nat → Nat × Nat) : Option Effect :=
  some (maskedLine o v [lineRef o.s1 (vw o), lineRef o.s2 (vw o)] l
    (fun j => f (vRound o v j) (elemD o v j) (elemA o v j) (elemB o v j)))

/-- Two issues for integers, four for the floating types. -/
def lat (o : VF) : Nat := if tyF o.ty then 4 else 2
/-- The value of an element of a floating type and of an integer type. -/
def fv (o : VF) : Nat → Num.FVal := (Num.fmtOf o.ty).val
def iv (o : VF) : Nat → Int := Num.intVal o.ty
/-- An integer result kept to the width, or saturated (R114). -/
def fitted (o : VF) (x : Int) : Nat × Nat := (Num.fit o.ty o.sat x, 0)

/-- Element-wise operations (R114, R115, R117, R118, R122). -/
def elementEffect (v : Env) (i : Instr) : Option Effect :=
  match i with
  | .vadd _ o => onTwo o v (lat o) (fun r a b =>
      if tyF o.ty then Num.fadd (Num.fmtOf o.ty) r 0 (fv o a) (fv o b) else fitted o (iv o a + iv o b))
  | .vsub _ o => onTwo o v (lat o) (fun r a b =>
      if tyF o.ty then Num.fadd (Num.fmtOf o.ty) r 0 (fv o a) (fv o b).neg else fitted o (iv o a - iv o b))
  | .vmul _ o => onTwo o v (lat o) (fun r a b =>
      if tyF o.ty then Num.fmul (Num.fmtOf o.ty) r (fv o a) (fv o b) else fitted o (iv o a * iv o b))
  | .vfma _ o => onThree o v (lat o) (fun r d a b =>
      if tyF o.ty then Num.ffma (Num.fmtOf o.ty) r (fv o a) (fv o b) (fv o d)
      else fitted o (iv o d + iv o a * iv o b))
  | .vadds _ o => onTwo o v (lat o) (fun r a b =>
      if tyF o.ty then Num.fadd (Num.fmtOf o.ty) r (-1) (fv o a) (fv o b) else elemHalf o r (iv o a + iv o b))
  | .vsubs _ o => onTwo o v (lat o) (fun r a b =>
      if tyF o.ty then Num.fadd (Num.fmtOf o.ty) r (-1) (fv o a) (fv o b).neg else elemHalf o r (iv o a - iv o b))
  | .vmin _ o => onTwo o v 2 (fun _ a b => elemMinMax o false a b)
  | .vmax _ o => onTwo o v 2 (fun _ a b => elemMinMax o true a b)
  | .vmulh _ o => onTwo o v 2 (fun _ a b => (Num.lowBits (iv o a * iv o b / 2 ^ vw o) (vw o), 0))
  | .vand _ o => onTwo o v 2 (fun _ a b => (a &&& b, 0))
  | .vor _ o => onTwo o v 2 (fun _ a b => (a ||| b, 0))
  | .vxor _ o => onTwo o v 2 (fun _ a b => (a ^^^ b, 0))
  | .vshl _ o => onTwo o v 2 (fun _ a b => fitted o (iv o a * 2 ^ min b (vw o)))
  | .vshr _ o => onTwo o v 2 (fun _ a b => (a / 2 ^ min b (vw o), 0))
  | .vsar _ o => onTwo o v 2 (fun _ a b => (Num.lowBits (Num.signExt a (vw o) / 2 ^ min b (vw o)) (vw o), 0))
  | .vbfx _ o => onTwo o v 2 (fun _ a b =>
      (Num.lowBits (Num.signExt (a / 2 ^ (elemField o b).1 % 2 ^ (elemField o b).2) (elemField o b).2) (vw o), 0))
  | .vbfxz _ o => onTwo o v 2 (fun _ a b => (a / 2 ^ (elemField o b).1 % 2 ^ (elemField o b).2, 0))
  | .vfshr _ o => onThree o v 2 (fun _ d a b => ((a * 2 ^ vw o + b) / 2 ^ (d % vw o) % 2 ^ vw o, 0))
  | .vabs _ o => onOne o v 2 (fun a =>
      if tyF o.ty then (a % 2 ^ (vw o - 1), 0) else fitted o ((iv o a).natAbs : Int))
  | .vneg _ o => onOne o v 2 (fun a => if tyF o.ty then (a ^^^ 2 ^ (vw o - 1), 0) else fitted o (-iv o a))
  | .vclz _ o => onOne o v 2 (fun a => ((if a = 0 then vw o else vw o - 1 - Nat.log2 a) % 2 ^ vw o, 0))
  | .vpopc _ o => onOne o v 2 (fun a =>
      (((List.range (vw o)).filter (fun i => a.testBit i)).length % 2 ^ vw o, 0))
  | .vmov _ o => onOne o v 2 (fun a => (a, 0))
  | _ => none

/-- A line without flags and without a mask. -/
def wholeLine (o : VF) (v : Env) (srcs : List SrcRef) (l : Nat) (f : Nat → Nat) (flags : Nat := 0) : Effect :=
  { srcs := srcs, dsts := [.line o.dst 1 false], pushes := pushesOf o.dst,
    results := [res v (lineEff o.dst fullLine [lineBy (vw o) f]) l flags] }

/-- The elements of the first source that are active, in order (R124). -/
def activeElems (o : VF) (v : Env) : List Nat :=
  ((List.range (vn o)).filter (active v o.k (vw o))).map (elemA o v)

/-- A reduction: one value in every element, six issues (R124). -/
def reduced (o : VF) (v : Env) (r : Nat × Nat) : Option Effect :=
  some (wholeLine o v [lineRef o.s1 (vw o)] 6 (fun _ => r.1) r.2)

/-- Selection, moves, permutes, reductions and scans (R121 to R125). -/
def permuteEffect (v : Env) (i : Instr) : Option Effect :=
  match i with
  | .vsel _ o => some (wholeLine o v [lineRef o.s1 (vw o), lineRef o.s2 (vw o)] 2
      (fun j => if active v o.k (vw o) j then elemA o v j else elemB o v j))
  | .vbcast _ o => some (maskedLine o v [lineRef o.s1 (vw o)] 3 (fun _ => (elemA o v (o.s2.toNat % 1024), 0)))
  | .vperm _ o => some (maskedLine o v [lineRef o.s1 (vw o), lineRef o.s2 (vw o)] 3
      (fun j => (elemA o v (elemB o v j % vn o), 0)))
  | .vrot _ o => some (maskedLine o v [lineRef o.s1 (vw o)] 3
      (fun j => (elemA o v ((j + o.s2.toNat % 1024) % vn o), 0)))
  | .viota _ o => some (maskedLine o v [lineRef o.s1 (vw o)] 2 (fun j => ((elemA o v 0 + j) % 2 ^ vw o, 0)))
  | .vins _ o => some { (wholeLine o v [lineRef o.s1 (vw o)] 3 (fun j =>
      if j = o.s2.toNat % 1024 then elemA o v j else elemD o v j)) with pushes := [] }
  | .vextr _ o => some
    { srcs := [lineRef o.s1 (vw o)], dsts := [.reg o.dst.toNat],
      results := [res v (.sreg (o.dst.toNat % 64) 
        (if tyInt o.ty then BitVec.ofInt 64 (iv o (elemA o v (o.s2.toNat % 1024)))
        else BitVec.ofNat 64 (elemA o v (o.s2.toNat % 1024)))) 3] }
  | .vrsum _ o => reduced o v (rsum o.ty (activeElems o v))
  | .vrmax _ o => reduced o v (rminmax o true (activeElems o v))
  | .vrmin _ o => reduced o v (rminmax o false (activeElems o v))
  | .vror _ o => reduced o v ((activeElems o v).foldl (· ||| ·) 0, 0)
  | .vscan _ o => some (maskedLine o v [lineRef o.s1 (vw o)] 6 (fun j =>
      (scanSums o.ty (if tyF o.ty then 2 ^ 31 else 0)
        ((List.range (vn o)).map (fun j => (active v o.k (vw o) j, elemA o v j)))).getD j (0, 0)))
  | _ => none

/-- Widening, narrowing and byte products (R126 to R128): a line of the narrow type is spread over, or woven from,
consecutive lines of the wide type. -/
def widthEffect (v : Env) (i : Instr) : Option Effect :=
  match i with
  | .vwiden _ o =>
    let st := BitVec.ofNat 4 o.s2.toNat
    let ws := tyWidth st
    let r := vw o / ws
    some { srcs := [lineRef o.s1 ws], dsts := [.line o.dst r false],
           results := [res v (.lines o.dst fullLine ((List.range r).map (fun i => lineBy (vw o) (fun e =>
             let x := lineElem ws (v.line o.s1 ws 0) (r * e + i)
             if tyInt st then Num.lowBits (Num.intVal st x) (vw o)
             else (Num.f32.roundVal Num.rne ((Num.fmtOf st).val x)).1)))) 3] }
  | .vnarrow _ o =>
    let st := BitVec.ofNat 4 o.s2.toNat
    let ws := tyWidth st
    let r := ws / vw o
    let x (j : Nat) : Nat := if r = 1 then lineElem ws (v.line o.s1 ws 0) j
      else lineElem ws (tileLine v.c.tiles (specAdvance o.s1 (j % r)) false) (j / r)
    let y (j : Nat) : Nat × Nat := if tyInt o.ty then (Num.fit o.ty o.sat (Num.intVal st (x j)), 0)
      else (Num.fmtOf o.ty).roundVal (vRound o v j) ((Num.fmtOf st).val (x j))
    some { srcs := [.line o.s1 r ws false false], dsts := [.line o.dst 1 false], pushes := pushesOf o.dst,
           mode := o.mode.toNat,
           results := [res v (lineEff o.dst fullLine [lineBy (vw o) (fun j => (y j).1)]) (if tyF o.ty then 4 else 3)
             (flagsBy (vn o) (fun j => (y j).2))] }
  | .vdot4 _ o =>
    let acc : BitVec 4 := if Num.tySigned o.ty then 4 else 5
    let byte (l : Line) (j t : Nat) : Int := Num.intVal o.ty (lineElem 8 l (4 * j + t))
    let a := v.line o.s1 8 0
    let b := v.line2 o.s1 o.s2 8
    some { srcs := [lineRef o.s1 8, lineRef o.s2 8], dsts := [.line o.dst 1 false],
           results := [res v (.lines o.dst (if o.z then fullLine else enablesBy 32 (active v o.k 32)) [lineBy 32 (fun j =>
             if active v o.k 32 j then
               Num.fit acc o.sat (Num.intVal acc (lineElem 32 (tileLine v.c.tiles o.dst false) j) +
                 ((List.range 4).map (fun t => byte a j t * byte b j t)).sum)
             else 0)]) 2] }
  | _ => none

/-- A mask of one bit for each byte of a line: the bits of the bytes of element `j` are `f j`. -/
def maskBy (w : Nat) (f : Nat → Bool) : Mask :=
  BitVec.ofNat 512 (joinBits (w / 8) ((List.range (4096 / w)).map (fun j => if f j then 2 ^ (w / 8) - 1 else 0)))

/-- A mask result of active elements (R113, R119): inactive bits are zero with Z and stay otherwise. -/
def maskResult (o : VF) (v : Env) (srcs : List SrcRef) (f : Nat → Bool × Nat) : Option Effect :=
  some { srcs := srcs,
         results := [res v (.mask o.dst.toNat (maskBy (vw o) (fun j => active v o.k (vw o) j && (f j).1))
           (maskBy (vw o) (fun j => active v o.k (vw o) j || o.z))) 2
           (flagsBy (vn o) (fun j => if active v o.k (vw o) j then (f j).2 else 0))] }

/-- One compare of two elements. -/
def elemCmp (o : VF) (c : Num.Cmp) (a b : Nat) : Bool × Nat :=
  if tyF o.ty then Num.fcmp c (fv o a) (fv o b) else (c.holds (compare (iv o a) (iv o b)), 0)

/-- A compare of two sources into a mask. -/
def compared (o : VF) (v : Env) (c : Num.Cmp) : Option Effect :=
  maskResult o v [lineRef o.s1 (vw o), lineRef o.s2 (vw o)] (fun j => elemCmp o c (elemA o v j) (elemB o v j))

/-- A whole mask. -/
def wholeMask (o : VF) (v : Env) (m : Mask) : Option Effect :=
  some { results := [res v (.mask o.dst.toNat m (BitVec.allOnes 512)) 2] }

/-- Compares, classes and mask operations (R119, R120, R129). -/
def maskEffect (v : Env) (i : Instr) : Option Effect :=
  let k1 (o : VF) := v.c.mask o.s1.toNat
  let k2 (o : VF) := v.c.mask o.s2.toNat
  match i with
  | .vcmpeq _ o => compared o v .eq
  | .vcmpne _ o => compared o v .ne
  | .vcmplt _ o => compared o v .lt
  | .vcmple _ o => compared o v .le
  | .vclass _ o => maskResult o v [lineRef o.s1 (vw o)] (fun j =>
      ((o.s2.toNat % 1024).testBit ((Num.fmtOf o.ty).classBit (elemA o v j)), 0))
  | .kand _ o => wholeMask o v (k1 o &&& k2 o)
  | .kor _ o => wholeMask o v (k1 o ||| k2 o)
  | .kxor _ o => wholeMask o v (k1 o ^^^ k2 o)
  | .knot _ o => wholeMask o v (~~~k1 o)
  | .kpopc _ o => some
    { dsts := [.reg o.dst.toNat],
      results := [res v (.sreg (o.dst.toNat % 64)
      (BitVec.ofNat 64 ((List.range 512).filter (fun i => (k1 o).getLsbD i)).length)) 2] }
  | .kany _ o => some { dsts := [.pred (o.dst.toNat % 16)], results := [res v (.pred (o.dst.toNat % 16) (k1 o != 0)) 2] }
  | _ => none

/-! ## Special functions and conversion (R130 to R143) -/

/-- How an element of an X operation rounds: the line that receives it and its column are the key (R132). -/
def xRound (o : XF) (v : Env) (line : BitVec 13) (col : Nat) : Num.Rnd :=
  v.x.rnd o.mode.toNat (specRow line) col (o.md.toNat % 2 == 1)

/-- A line of results with flags, whatever the destination. -/
def flaggedLine (o : XF) (v : Env) (srcs : List SrcRef) (l : Nat) (f : Nat → Nat × Nat) : Option Effect :=
  some { srcs := srcs, dsts := [.line o.dst 1 false], pushes := pushesOf o.dst, mode := o.mode.toNat,
         results := [res v (lineEff o.dst fullLine [lineBy (tyWidth o.dt) (fun j => (f j).1)]) l
           (flagsBy (4096 / tyWidth o.dt) (fun j => (f j).2))] }

/-- A special function of each element, ten issues. -/
def special (o : XF) (v : Env) (f : Num.Fmt → Num.Rnd → Num.FVal → Nat × Nat) : Option Effect :=
  let w := tyWidth o.dt
  flaggedLine o v [lineRef o.s1 w] 10 (fun j =>
    f (Num.fmtOf o.dt) (xRound o v o.dst j) ((Num.fmtOf o.dt).val (lineElem w (v.line o.s1 w 0) j)))

/-- Element `j` of the line woven from `n` lines from a specifier on, or of the one source line. -/
def woven (v : Env) (s : BitVec 13) (n w j : Nat) : Nat :=
  if n = 1 then lineElem w (v.line s w 0) j
  else lineElem w (tileLine v.c.tiles (specAdvance s (j % n)) false) (j / n)

/-- Element-wise functions, division and conversion (R133 to R136). -/
def functionEffect (v : Env) (i : Instr) : Option Effect :=
  match i with
  | .xrcp _ o => special o v Num.frcp
  | .xrsq _ o => special o v Num.frsq
  | .xsqrt _ o => special o v Num.fsqrt
  | .xexp2 _ o => special o v Num.fexp2
  | .xlog2 _ o => special o v Num.flog2
  | .xtanh _ o => special o v Num.ftanh
  | .xsig _ o => special o v Num.fsig
  | .xdiv _ o =>
    let w := tyWidth o.dt
    flaggedLine o v [lineRef o.s1 w, lineRef o.s2 w] 10 (fun j =>
      Num.fdiv (Num.fmtOf o.dt) (xRound o v o.dst j) ((Num.fmtOf o.dt).val (lineElem w (v.line o.s1 w 0) j))
        ((Num.fmtOf o.dt).val (lineElem w (v.line2 o.s1 o.s2 w) j)))
  | .xcvt _ o =>
    let ws := tyWidth o.st
    let wd := tyWidth o.dt
    if ws < wd then
      let r := wd / ws
      let y (i e : Nat) : Nat × Nat :=
        Num.convert o.dt o.st (xRound o v (specAdvance o.dst i) e) (lineElem ws (v.line o.s1 ws 0) (r * e + i))
      some { srcs := [.line o.s1 (max 1 (ws / wd)) ws false false], dsts := [.line o.dst (max 1 r) false],
             pushes := pushesOf o.dst, mode := o.mode.toNat,
             results := [res v (lineEff o.dst fullLine ((List.range r).map (fun i => lineBy wd (fun e => (y i e).1)))) 4
               (flagsBy (4096 / ws) (fun j => (y (j % r) (j / r)).2))] }
    else
      let n := max 1 (ws / wd)
      let y (j : Nat) : Nat × Nat := Num.convert o.dt o.st (xRound o v o.dst j) (woven v o.s1 n ws j)
      some { srcs := [.line o.s1 n ws false false], dsts := [.line o.dst (max 1 (wd / ws)) false],
             pushes := pushesOf o.dst, mode := o.mode.toNat,
             results := [res v (lineEff o.dst fullLine [lineBy wd (fun j => (y j).1)]) 4
               (flagsBy (4096 / wd) (fun j => (y j).2))] }
  | _ => none

/-- Row `t` of the sixteen rows of a block, column `c`. -/
def blockElem (v : Env) (s : BitVec 13) (w t c : Nat) : Nat :=
  lineElem w (tileLine v.c.tiles (specAdvance s t) false) c

/-- Square blocks (R137 to R141) and stipple (R142, R143). -/
def blockEffect (v : Env) (i : Instr) : Option Effect :=
  match i with
  | .xamax _ o =>
    let w := tyWidth o.st
    let nb := 4096 / w / 16
    let pad := List.replicate (16 * (specIndex o.s1 / 16)) 0
    let amax (b : Nat) : Nat := blockAmax (Num.fmtOf o.st)
      ((List.range 16).flatMap (fun t => (List.range 16).map (fun c => blockElem v o.s1 w t (16 * b + c))))
    some { srcs := [.line o.s1 16 w false false], dsts := [.line o.dst 1 false], pushes := pushesOf o.dst,
           results := [res v (lineEff o.dst (lineOf 32 (pad ++ (List.range nb).map (fun _ => 2 ^ 32 - 1)))
             [lineOf 32 (pad ++ (List.range nb).map amax)]) 3] }
  | .xscale _ o =>
    some { srcs := [lineRef o.s1 32], dsts := [.line o.dst 1 false], pushes := pushesOf o.dst,
           results := [res v (lineEff o.dst (BitVec.ofNat 4096 (2 ^ 1024 - 1)) [lineOf 8 ((List.range 128).map (fun j =>
             scaleCode (match o.md.toNat with | 0 => 8 | 1 => 15 | _ => 2) (lineElem 32 (v.line o.s1 32 0) j)))]) 3] }
  | .xqnt _ o =>
    let ws := tyWidth o.st
    let wd := tyWidth o.dt
    let r := ws / wd
    let y (q p : Nat) : Nat × Nat := quantise o.dt o.st (xRound o v (specAdvance o.dst q) p)
      (lineElem 8 (v.line o.s2 8 0) (16 * (specIndex o.s1 / 16) + p / r / 16)) (blockElem v o.s1 ws (r * q + p % r) (p / r))
    some { srcs := [.line o.s1 16 ws false false, lineRef o.s2 8], dsts := [.line o.dst (16 / r) false],
           mode := o.mode.toNat,
           results := [res v (.lines o.dst fullLine ((List.range (16 / r)).map (fun q => lineBy wd (fun p => (y q p).1)))) 4
             (orAll ((List.range (16 / r)).flatMap (fun q => (List.range (4096 / wd)).map (fun p => (y q p).2))))] }
  | .xdqnt _ o =>
    let ws := tyWidth o.st
    let wd := tyWidth o.dt
    let r := wd / ws
    let y (t e : Nat) : Nat × Nat := dequantise o.dt o.st (xRound o v (specAdvance o.dst t) e)
      (lineElem 8 (v.line o.s2 8 0) (16 * (specIndex o.dst / 16) + e / 16)) (blockElem v o.s1 ws (t / r) (r * e + t % r))
    some { srcs := [.line o.s1 (16 / r) ws false false, lineRef o.s2 8], dsts := [.line o.dst 16 false],
           mode := o.mode.toNat,
           results := [res v (.lines o.dst fullLine ((List.range 16).map (fun t => lineBy wd (fun e => (y t e).1)))) 4
             (orAll ((List.range 16).flatMap (fun t => (List.range (4096 / wd)).map (fun e => (y t e).2))))] }
  | .xseed _ o => some
    { srcs := [lineRef o.s1 64],
      results := [res v (.special (if o.md.toNat % 2 = 1 then SR.stipstream else SR.stipseed)
        (v.x.sreg (specLow o.s1 - 0x40))) 1] }
  | .xrand _ o => some
    { dsts := [.line o.dst 1 false], pushes := pushesOf o.dst, mode := 5,
      results := [res v (lineEff o.dst fullLine [lineBy 32 (fun i =>
        let z := v.x.stip (specRow o.dst) i
        if o.dt = 8 then (Num.f32.round Num.rne false (z.toNat / 2 ^ 40) (-24) false).1 else z.toNat / 2 ^ 32)]) 4] }
  | _ => none

/-! ## Matrix beats (R144 to R160) -/

/-- A beat with the inputs it reads at its issue. -/
def beatRes (v : Env) (l : Nat) (src : Line) (reads : Bool) : Flight :=
  res v (.beat { word := v.word, sc := if reads then v.c.arr.sc else 0, plane := if reads then v.c.arr.active.2 else 0,
                 src := src, buf := if reads then v.c.arr.active.1 else 0 }) l

/-- Segment SEG of the source line, 64 bytes (R152). -/
def seg (o : MF) (v : Env) (w : Nat) : Line :=
  BitVec.ofNat 4096 ((v.line o.line w 0).toNat >>> (512 * o.seg.toNat) % 2 ^ 512)

/-- A port's line is popped with its last segment. -/
def segSource (o : MF) (w : Nat) : SrcRef := .line o.line 1 w false (o.seg != 7)

/-- Beats: what each puts into flight. MSWAP acts at its issue. A contribution lands after four issues, a load of the shadow buffer
or of the streaming scales after two, the others after one; a drain lands its line after ten and zeroes at its own issue. -/
def beatEffect (v : Env) (i : Instr) : Option Effect :=
  match i with
  | .mwld _ o => some { srcs := [lineRef o.line 64], results := [beatRes v 2 (v.line o.line 64 0) false] }
  | .mshf _ o => some { srcs := [segSource o 64], results := [beatRes v 2 (seg o v 64) false] }
  | .macc _ o | .maccz _ o => some
    { srcs := [segSource o (tyWidth o.sty)], results := [beatRes v 4 (seg o v (tyWidth o.sty)) true] }
  | .mdrn _ o =>
    let w := tyWidth o.wty
    let n := if w = 32 then 16 else 32
    let first := o.seg.toNat * n
    let row := v.c.arr.row o.bank o.row.toNat
    let y (j : Nat) : Nat × Nat :=
      Num.drain o.wty (v.x.rnd (o.low.toNat / 2 ^ 16) (specRow o.line) (first + j) false) (v.c.arr.anchor o.bank - 64)
        (row.tag (first % 128 + j)) (row.value (first % 128 + j))
    let pad := List.replicate first 0
    some { dsts := [.line o.line 1 false], mode := o.low.toNat / 2 ^ 16,
           results := res v (.lines o.line (lineOf w (pad ++ List.replicate n (2 ^ w - 1)))
               [lineOf w (pad ++ (List.range n).map (fun j => (y j).1))]) 10 (flagsBy n (fun j => (y j).2)) ::
             if o.low.toNat.testBit 15 then [beatRes v 1 0 false] else [] }
  | .mswap _ _ => some
    { change := fun u => u.modCore v.core (fun c => { c with arr := { c.arr with activeB := !c.arr.activeB } }) }
  | .mzero _ _ | .manch _ _ => some { results := [beatRes v 1 0 false] }
  | .mscl _ o => some { srcs := [segSource o 64], results := [beatRes v 2 (seg o v 64) false] }
  | .mxsc _ o => some { srcs := [segSource o 64], results := [beatRes v 1 (seg o v 64) false] }
  | _ => none


/-! ## Operations without operands, and WRSR (R42, R71, R73) -/

/-- The NOPs of the six slot classes only issue. -/
def idleEffect (_ : Env) (i : Instr) : Option Effect :=
  match i with
  | .snop _ | .lnop _ | .vnop _ | .xnop _ | .mnop _ | .cnop _ => some {}
  | _ => none

/-- WRSR writes a special register after one issue; a register that may only be read is written by nothing, which
supervisor mode ignores. -/
def wrsrEffect (v : Env) (i : Instr) : Option Effect :=
  match i with
  | .wrsr _ o =>
    if specReadOnly o.num.toNat then (if v.c.inSup then some { srcs := [srcRef o.a] } else none)
    else some { srcs := [srcRef o.a], ready := o.num.toNat = SR.ldepth → (v.src o.a).toNat ≤ 6,
                results := [res v (.special o.num.toNat (v.src o.a)) 1] }
  | _ => none

/-! ## Scalar loads and stores (R84 to R90, R270, R272) -/

/-- An access to local memory performs with its bundle, which therefore stalls until what orders it has performed. -/
def inOrder (v : Env) (t : Target) (rel write : Bool) : Prop :=
  t.bundled = true → (v.c.waitIds rel write).isEmpty = true

/-- The base register takes its new value after one issue. -/
def baseInc (v : Env) (base : Src) (off : W64) : Flight := res v (.sreg base.r.toNat (v.src base + off)) 1

/-- A scalar load of 2^size bytes: from the own unit scratchpad in six issues; from elsewhere outstanding, its register
empty, and read at the issue itself where the space is local. -/
def scalarLoad (v : Env) (srcs : List Src) (a : W64) (d : BitVec 6) (size : Nat) (sx : Bool) (ord : BitVec 2)
    (inc : List Flight) : Option Effect :=
  match v.scalarTarget a size with
  | .error _ => none
  | .ok t =>
    let bits := 8 * 2 ^ size
    let x := v.s.read t.key (2 ^ size)
    let value := if sx then BitVec.ofInt 64 (BitVec.ofNat bits x).toInt else BitVec.ofNat 64 (x % 2 ^ bits)
    some
      { srcs := srcs.map srcRef, dsts := [.reg d.toNat], ready := inOrder v t false false,
        results := if t.fixed then loadRes v (.sreg d.toNat value) 6 :: inc else inc,
        change := fun u =>
          if t.fixed then u
          else
            let cell := { newCell t.key (2 ^ size) 0 0 0 with got := if t.bundled then some x else none, done := t.bundled }
            (u.addAccess v.core v.c .load (ordAcq ord && !t.bundled) false false true [cell] (.sreg d.toNat bits sx) v.pc
              t.handle).modCore v.core (·.emptyDst (.sreg d.toNat bits sx)) }

/-- Loads of a scalar register. -/
def loadEffect (v : Env) (i : Instr) : Option Effect :=
  match i with
  | .ld _ o => scalarLoad v [o.base] (v.src o.base + o.off.signExtend 64) o.reg o.size.toNat o.bit36 o.ord []
  | .ldIndexed _ o =>
    scalarLoad v [o.base, o.index] (v.src o.base + v.src o.index <<< o.size.toNat) o.reg o.size.toNat o.bit36 o.ord []
  | .ldPostinc _ o =>
    scalarLoad v [o.base] (v.src o.base) o.reg o.size.toNat o.bit36 o.ord [baseInc v o.base (o.off.signExtend 64)]
  | _ => none

/-- A scalar store of 2^size bytes: to local memory at its issue, elsewhere outstanding. -/
def scalarStore (v : Env) (srcs : List Src) (a data : W64) (size : Nat) (ord : BitVec 2) (inc : List Flight) :
    Option Effect :=
  match v.scalarTarget a size with
  | .error _ => none
  | .ok t =>
    let d := data.toNat % 2 ^ (8 * 2 ^ size)
    some
      { srcs := srcs.map srcRef, results := inc, ready := inOrder v t (ordRel ord) true,
        change := fun u =>
          if t.bundled then u.write t.key (2 ^ size) d
          else u.addAccess v.core v.c .store false (ordRel ord) true false
            [newCell t.key (2 ^ size) d (2 ^ (2 ^ size) - 1) 0] .none v.pc t.handle }

/-- Where each form of a scalar store goes. -/
def storeAddr (v : Env) (i : Instr) : Option W64 :=
  match i with
  | .st _ o => some (v.src o.base + o.off.signExtend 64)
  | .stIndexed _ o => some (v.src o.base + v.src o.index <<< o.size.toNat)
  | .stPostinc _ o => some (v.src o.base)
  | _ => none

/-- Stores of a scalar register. -/
def storeEffect (v : Env) (i : Instr) : Option Effect :=
  (storeAddr v i).bind (fun a => match i with
    | .st _ o => scalarStore v [⟨o.reg, o.bit36⟩, o.base] a (v.src ⟨o.reg, o.bit36⟩) o.size.toNat o.ord []
    | .stIndexed _ o =>
      scalarStore v [⟨o.reg, o.bit36⟩, o.base, o.index] a (v.src ⟨o.reg, o.bit36⟩) o.size.toNat o.ord []
    | .stPostinc _ o =>
      scalarStore v [⟨o.reg, o.bit36⟩, o.base] a (v.src ⟨o.reg, o.bit36⟩) o.size.toNat o.ord
        [baseInc v o.base (o.off.signExtend 64)]
    | _ => none)

/-! ## Line loads and stores (R91) -/

/-- A line load of 512 bytes. -/
def lineLoad (v : Env) (a : W64) (o : LineMem) (inc : List Flight) : Option Effect :=
  match v.lineTarget a with
  | .error _ => none
  | .ok t =>
    let x := BitVec.ofNat 4096 (v.s.read t.key 512)
    some
      { srcs := [srcRef o.base], dsts := [.line o.line 1 o.ad], pushes := pushesOf o.line,
        ready := v.c.inSup = false ∧ inOrder v t false false,
        results :=
          (if t.fixed then
            [loadRes v (if o.ad then .antidiag o.line fullLine x else lineEff o.line fullLine [x]) 6]
           else []) ++ inc,
        change := fun u =>
          if t.fixed then u
          else
            let cells := lanes.map (fun i =>
              { newCell (t.key + 4 * i) 4 0 0 0 with
                  got := if t.bundled then some (v.s.read (t.key + 4 * i) 4) else none, done := t.bundled })
            let dst := RDst.line o.line o.ad (lanes.map (fun i => (i, i, 0))) 32 false 0
            (u.addAccess v.core v.c .load (ordAcq o.ord && !t.bundled) false false true cells dst v.pc t.handle).modCore
              v.core (·.emptyDst dst) }

/-- The line that STL stores: a tile's line, along the anti-diagonal with AD, a port's, or a register's 8 bytes over and over. -/
def storedLine (o : LineMem) (v : Env) : Line :=
  if specTile o.line then tileLine v.c.tiles o.line o.ad else v.line o.line 64 0

/-- A line store under a byte mask. -/
def lineStore (v : Env) (a : W64) (o : LineMem) (inc : List Flight) : Option Effect :=
  match v.lineTarget a with
  | .error _ => none
  | .ok t =>
    let m := (v.c.mask o.mask.toNat).toNat
    let d := (storedLine o v).toNat
    some
      { srcs := [.line o.line 1 64 o.ad false, srcRef o.base], results := inc,
        ready := v.c.inSup = false ∧ inOrder v t (ordRel o.ord) true,
        change := fun u =>
          if t.bundled then u.writeEn t.key 512 d m
          else u.addAccess v.core v.c .store false (ordRel o.ord) true false
            ((lanes.filter (fun i => m >>> (4 * i) % 16 != 0)).map (fun i =>
              newCell (t.key + 4 * i) 4 (d >>> (32 * i) % 2 ^ 32) (m >>> (4 * i) % 16) 0)) .none v.pc t.handle }

/-- Line loads and stores. -/
def lineMemEffect (v : Env) (i : Instr) : Option Effect :=
  match i with
  | .ldl _ o => lineLoad v (v.src o.base + o.off.signExtend 64) o []
  | .ldlPostinc _ o => lineLoad v (v.src o.base) o [baseInc v o.base (o.off.signExtend 64)]
  | .stl _ o => lineStore v (v.src o.base + o.off.signExtend 64) o []
  | .stlPostinc _ o => lineStore v (v.src o.base) o [baseInc v o.base (o.off.signExtend 64)]
  | _ => none

/-! ## Gathers and scatters (R92) -/

/-- The active lanes with their targets, in lane order. -/
def laneTargets (o : Gather) (v : Env) (store : Bool) : List (Nat × Target) :=
  (lanes.filter (fun i => (v.c.mask o.mask.toNat).getLsbD (4 * i))).filterMap (fun i =>
    match (gatherLane o v (gatherIndexLine o v store) i).2 with
    | .ok t => some (i, t)
    | .error _ => none)

/-- A gather or scatter executes when every active lane's address passes its checks and what orders it has performed. -/
def gatherReady (o : Gather) (v : Env) (rel store : Bool) : Prop :=
  v.c.inSup = false ∧
  (∀ i, i < 128 → (v.c.mask o.mask.toNat).getLsbD (4 * i) = true →
    ∃ t, (gatherLane o v (gatherIndexLine o v store) i).2 = .ok t) ∧
  ((v.src o.base).toNat >>> 56 ≤ 1 → (v.c.waitIds rel store).isEmpty = true)

/-- The 32-bit cells that lanes touch, each once (R269). -/
def touchedCells (ts : List (Nat × Target)) : List Nat := (ts.map (fun t => t.2.key / 4 * 4)).dedup

/-- Byte `b` of what lanes of `n` bytes leave in memory: the highest lane that covers it wins (R89). -/
def scatteredByte (n : Nat) (ts : List (Nat × Target)) (word : Nat → Nat) (b : Nat) : Option Nat :=
  ((ts.filter (fun t => t.2.key ≤ b ∧ b < t.2.key + n)).getLast?).map (fun t => word t.1 / 2 ^ (8 * (b - t.2.key)) % 256)

/-- What a remote scatter writes to a 32-bit cell: the bytes that lanes leave there, and the enables of these. -/
def scatteredCell (n : Nat) (ts : List (Nat × Target)) (word : Nat → Nat) (k : Nat) : RCell :=
  let b (j : Nat) : Option Nat := scatteredByte n ts word (k + j)
  newCell k 4 (ofBytes ((List.range 4).map (fun j => BitVec.ofNat 8 ((b j).getD 0))))
    (((List.range 4).map (fun j => (b j).isSome.toNat * 2 ^ j)).sum) 0

/-- Whether a lane is active, and whether a load writes it: with Z an inactive lane is zero. -/
def laneActive (o : Gather) (v : Env) (i : Nat) : Bool := (v.c.mask o.mask.toNat).getLsbD (4 * i)

/-- LDX and STX: of the local spaces a load reads at its issue and a store writes at its own, lane by lane upwards. -/
def gatherEffect (v : Env) (i : Instr) : Option Effect :=
  match i with
  | .ldx _ o =>
    let ts := laneTargets o v false
    let n := 2 ^ o.size.toNat
    let space := (v.src o.base).toNat >>> 56
    let data := ts.map (fun t => (t.1, if o.sx then Num.lowBits (Num.signExt (v.s.read t.2.key n) (8 * n)) 32
                                       else v.s.read t.2.key n % 2 ^ (8 * n)))
    let cells := (touchedCells ts).map (fun k => { newCell k 4 0 0 0 with
      got := if space ≤ 1 then some (v.s.read k 4) else none, done := decide (space ≤ 1) })
    let zeroed := if o.z then lanes.filter (fun i => !laneActive o v i) else []
    let dst := RDst.line o.line false (ts.map (fun t => (t.1, (touchedCells ts).idxOf (t.2.key / 4 * 4), t.2.key % 4))) (8 * n) o.sx
      (zeroed.foldl (fun (z : BitVec 128) i => z ||| BitVec.ofNat 128 (2 ^ i)) 0)
    some
      { srcs := [lineRef o.index 32, srcRef o.base], dsts := [.line o.line 1 false], pushes := pushesOf o.line,
        ready := gatherReady o v false false,
        results := if space = 0 then
            [loadRes v (lineEff o.line (enablesBy 32 (fun i => laneActive o v i || o.z))
              [lineBy 32 (fun i => (data.find? (·.1 == i)).elim 0 (·.2))]) 8]
          else [],
        change := fun u =>
          if space = 0 then u
          else (u.addAccess v.core v.c .load (ordAcq o.ord && 2 ≤ space) false false true cells dst v.pc
            (ts.head?.bind (·.2.handle))).modCore v.core (·.emptyDst dst) }
  | .stx _ o =>
    let ts := laneTargets o v true
    let n := 2 ^ o.size.toNat
    let word (i : Nat) : Nat := lineElem 32 (v.line o.line 32 0) i % 2 ^ (8 * n)
    some
      { srcs := [lineRef o.line 32, lineRef o.index 32, srcRef o.base], ready := gatherReady o v (ordRel o.ord) true,
        change := fun u =>
          if (v.src o.base).toNat >>> 56 ≤ 1 then ts.foldl (fun u t => u.write t.2.key n (word t.1)) u
          else u.addAccess v.core v.c .store false (ordRel o.ord) true false
            ((touchedCells ts).map (scatteredCell n ts word)) .none v.pc (ts.head?.bind (·.2.handle)) }
  | _ => none

/-! ## Atomics (R93, R94) -/

/-- What an atomic operation stores, by its operation: add, and, or, exclusive or, swap, and the greater and the lesser as
signed and as unsigned numbers. -/
def amoValue (op bits old v : Nat) : Nat :=
  match op with
  | 0 => (old + v) % 2 ^ bits
  | 1 => old &&& v
  | 2 => old ||| v
  | 3 => old ^^^ v
  | 4 => v
  | 5 => if (BitVec.ofNat bits old).toInt < (BitVec.ofNat bits v).toInt then v else old
  | 6 => if (BitVec.ofNat bits v).toInt < (BitVec.ofNat bits old).toInt then v else old
  | 7 => max old v
  | _ => min old v

/-- A scalar atomic: on local memory it reads and writes at its issue, elsewhere it is outstanding. -/
def scalarAtomic (v : Env) (srcs : List Src) (a : W64) (d : BitVec 6) (size : Nat) (ord : BitVec 2) (kind : RKind)
    (data exp : Nat) (stored : Nat → Option Nat) : Option Effect :=
  match v.scalarTarget a size with
  | .error _ => none
  | .ok t =>
    let n := 2 ^ size
    let old := v.s.read t.key n
    let cell := newCell t.key n data (2 ^ n - 1) exp
    let dst := RDst.sreg d.toNat (8 * n) false
    some
      { srcs := srcs.map srcRef, dsts := [.reg d.toNat], ready := inOrder v t (ordRel ord) true,
        results := if t.fixed then [loadRes v (.sreg d.toNat (BitVec.ofNat 64 old)) 6] else [],
        change := fun u =>
          let u' := if t.bundled then (stored old).elim u (u.write t.key n) else u
          if t.fixed then u'
          else if t.bundled then
            (u'.addAccess v.core v.c kind false false false true [{ cell with got := some old, done := true }] dst v.pc
              none).modCore v.core (·.emptyDst dst)
          else (u'.addAccess v.core v.c kind (ordAcq ord) (ordRel ord) true true [cell] dst v.pc t.handle).modCore v.core
            (·.emptyDst dst) }

/-- The byte enables of AMOL: every byte of an active element. -/
def elementBytes (o : Amol) (v : Env) : Nat :=
  (maskBy (tyWidth o.ty) (fun j => (v.c.mask o.mask.toNat).getLsbD (j * tyWidth o.ty / 8))).toNat

/-- AMO, CAS and AMOL. -/
def atomicEffect (v : Env) (i : Instr) : Option Effect :=
  match i with
  | .amo _ o =>
    let bits := 8 * 2 ^ o.size.toNat
    let x := (v.src o.val).toNat % 2 ^ bits
    scalarAtomic v [o.addr, o.val] (v.src o.addr) o.dest o.size.toNat o.ord (.amo o.op.toNat) x 0
      (fun old => some (amoValue o.op.toNat bits old x))
  | .cas _ o =>
    let bits := 8 * 2 ^ o.size.toNat
    let x := (v.src o.new).toNat % 2 ^ bits
    let e := (v.src o.exp).toNat % 2 ^ bits
    scalarAtomic v [o.addr, o.exp, o.new] (v.src o.addr) o.dest o.size.toNat o.ord .cas x e
      (fun old => if old = e then some x else none)
  | .amol _ o =>
    match v.lineTarget (v.src o.base + o.off.signExtend 64) with
    | .error _ => none
    | .ok t =>
      let en := elementBytes o v
      let cells := (lanes.filter (fun i => en >>> (4 * i) % 16 != 0)).map (fun i =>
        newCell (t.key + 4 * i) 4 (lineElem 32 (v.line o.src (tyWidth o.ty) 0) i) (en >>> (4 * i) % 16) 0)
      some
        { srcs := [lineRef o.src (tyWidth o.ty), srcRef o.base],
          ready := v.c.inSup = false ∧ inOrder v t (ordRel o.ord) true,
          results := if t.bundled then [loadRes v .void 6] else [],
          change := fun u =>
            if t.bundled then
              cells.foldl (fun u c => u.write c.key 4 (amolCell o.op.toNat o.ty (u.read c.key 4) c.data c.en)) u
            else u.addAccess v.core v.c (.amol o.op.toNat o.ty) (ordAcq o.ord) (ordRel o.ord) true true cells .none v.pc
              t.handle }
  | _ => none

/-! ## Group loads, ports and handles (R95 to R106) -/

/-- A group load becomes awaited: the core's own member is read at the issue, of the others nothing yet; cell by cell it
follows the core's earlier accesses to what it reads (R269, R272). -/
def awaitGroup (v : Env) (g : Group) (a : W64) (op : Nat) (ty : BitVec 4) (line : Option (BitVec 13)) (d cp : Nat)
    (ord : BitVec 2) (u : State) : State :=
  let cells := if line.isSome then 128 else 1
  let bytes := if line = none ∧ ty = 9 then 2 else 4
  let at_ (m : Nat) : Nat := unitKey m + groupOff g.entry + a.toNat % 2 ^ 21
  let own : FMap W32 := (List.range cells).map (fun i => (i, BitVec.ofNat 32 (v.s.read (at_ v.core + 4 * i) bytes)))
  let others := ((groupMembers g.entry).filter (· != v.core)).map (fun m => newCell (at_ m) (bytes * cells) 0 0 0)
  u.modCtx v.core (fun x =>
    { x with nextId := x.nextId + 1,
             vars := x.vars ++ [{ id := x.nextId, pc := v.pc, handler := v.c.progBank.isSome,
                                  kind := .gload (a.toNat >>> 48 % 256) op ty (a.toNat % 2 ^ 21) line d cp
                                    ((groupMembers g.entry).map (fun m => (m, some (if m = v.core then own else [])))) false
                                    (ordAcq ord) (v.c.conflictIds others ++ v.s.groupConflicts v.core others) }] })

/-- GLD and GLDS: the addresses pass the requester's checks, and the group is installed with the core as a member. -/
def groupLoadEffect (v : Env) (i : Instr) : Option Effect :=
  match i with
  | .gld _ o =>
    let a := v.src o.base + o.off.signExtend 64
    (v.s.groupOf (a.toNat >>> 48 % 256) v.core).map (fun g =>
      { srcs := [srcRef o.base], dsts := [.line o.line 1 false, .pred o.cp.toNat], pushes := pushesOf o.line,
        ready := v.c.inSup = false ∧ groupCheck v.s v.core a 512 64 = none ∧ (v.c.waitIds false false).isEmpty = true,
        change := fun u => (awaitGroup v g a o.op.toNat o.ty (some o.line) 0 o.cp.toNat o.ord u).modCore v.core
          (·.emptyDst (.line o.line false [] 32 false 0)) })
  | .glds _ o =>
    let a := v.src o.base + o.off.signExtend 64
    let n := if o.ty = 9 then 2 else 4
    (v.s.groupOf (a.toNat >>> 48 % 256) v.core).map (fun g =>
      { srcs := [srcRef o.base], dsts := [.reg o.dest.toNat, .pred o.cp.toNat],
        ready := v.c.inSup = false ∧ groupCheck v.s v.core a n n = none ∧ (v.c.waitIds false false).isEmpty = true,
        change := fun u => (awaitGroup v g a o.op.toNat o.ty none o.dest.toNat o.cp.toNat o.ord u).modCore v.core
          (·.emptyDst (.sreg o.dest.toNat 64 false)) })
  | _ => none

/-- PCFG takes a well-formed record and starts the walk anew; PRST leaves the port unconfigured. Both drop what was on its
way to the port. -/
def portEffect (v : Env) (i : Instr) : Option Effect :=
  match i with
  | .pcfg _ o =>
    match resolveAccess v.c v.core true (v.src o.base + o.off.signExtend 64) 64 64 with
    | .error _ => none
    | .ok t =>
      let r := BitVec.ofNat 512 (v.s.read t.key 64)
      some
        { srcs := [srcRef o.base],
          ready := v.c.inSup = false ∧ portMalformed r o.port.toNat = false ∧ (v.c.waitIds false false).isEmpty = true,
          change := fun u => u.modCore v.core (fun c => (c.dropPushes o.port.toNat).setPort o.port.toNat
            { conf := true, record := r, taken := 0, rows := [], queue := [], pushed := 0, early := [] }) }
  | .prst _ o => some
    { ready := v.c.inSup = false ∧ (8 ≤ o.port.toNat → v.c.portBusy o.port.toNat = false),
      change := fun u => u.modCore v.core (fun c => (c.dropPushes o.port.toNat).setPort o.port.toNat
        { conf := false, record := 0, taken := 0, rows := [], queue := [], pushed := 0, early := [] }) }
  | _ => none

/-- HGIVE lends and offers, HTAKE takes the oldest offer or reserves its slot when there is none or an earlier HTAKE still
waits for one, HBACK gives back with status 0. -/
def handleEffect (v : Env) (i : Instr) : Option Effect :=
  match i with
  | .hgive _ o =>
    let d := v.src o.desc
    let base := (v.src o.base).toNat
    let peer := peerOf v.core (d.toNat % 16)
    let size := d.toNat / 256 % 128
    some
      { srcs := [srcRef o.base, srcRef o.desc], dsts := [.reg o.dest.toNat],
        ready := v.c.inSup = false ∧ hgiveCheck v (v.src o.base) d = none ∧ v.c.pendingIds = [] ∧
          (v.s.core peer).offers.length < 16,
        change := fun u =>
          (u.modCore v.core (fun c =>
            { (c.emptyDst (.sreg o.dest.toNat 64 false)) with
                nextLent := c.nextLent + 1,
                lent := c.lent ++ [{ id := c.nextLent, base := base, size := size, peer := d.toNat % 16, taken := false,
                                     slot := 0, dest := o.dest.toNat, status := none,
                                     handler := c.progBank.isSome }] })).modCore peer (fun c =>
            { c with offers := c.offers ++ [{ giver := v.core % 16, region := v.c.nextLent, base := base, size := size }] }) }
  | .htake _ o => some
    { dsts := [.reg o.dest.toNat], ready := v.c.inSup = false ∧ v.c.held.find o.h.toNat = none,
      change := fun u =>
        let u' := u.modCore v.core (·.emptyDst (.sreg o.dest.toNat 64 false))
        if v.c.offers = [] ∨ v.c.waitingTake ≠ none then
          u'.modCore v.core (fun c =>
            { c with held := c.held.put o.h.toNat { reserved := true, base := 0, owner := 0, size := 0, dest := o.dest.toNat },
                     prog := { c.prog with
                       nextId := c.prog.nextId + 1,
                       vars := c.prog.vars ++ [{ id := c.prog.nextId, pc := v.pc, handler := c.progBank.isSome,
                                                 kind := .htake o.dest.toNat o.h.toNat }] } })
        else acceptOffer u' v.core o.h.toNat o.dest.toNat v.c.progBank.isSome }
  | .hback _ o => some
    { ready := v.c.inSup = false ∧ v.c.pendingIds = [] ∧ ∃ d, v.c.held.find o.h.toNat = some d ∧ d.reserved = false,
      change := fun u => u.giveBack v.core o.h.toNat 0 }
  | _ => none

/-! ## Asynchronous commands, tags, synchronisation (R161 to R182) -/

/-- The record of `n` bytes that an operation reads at its issue, from the own unit scratchpad. -/
def recordAt (v : Env) (a : W64) (n : Nat) : Option Nat :=
  match resolveAccess v.c v.core true a n n with
  | .ok t => some (v.s.read t.key n)
  | .error _ => none

/-- The address of a record. -/
def recordAddr (v : Env) (base : Src) (off : BitVec 16) : W64 := v.src base + off.signExtend 64

/-- A standalone fence: later accesses follow the earlier reads (acquire), later writes and commands the earlier accesses
(release). -/
def fenced (v : Env) (acq rel : Bool) (u : State) : State :=
  let f (x : Ctx) : Ctx → Ctx := fun y => { y with afterAcq := (x.fence acq rel).1, afterRel := (x.fence acq rel).2 }
  u.modCore v.core (fun c => { c with prog := f v.c.prog c.prog, sup := f v.c.sup c.sup })

/-- A result of variable latency becomes awaited. -/
def awaited (v : Env) (k : VarKind) (u : State) : State :=
  u.modCtx v.core (fun x =>
    { x with nextId := x.nextId + 1,
             vars := x.vars ++ [{ id := x.nextId, kind := k, pc := v.pc, handler := v.c.progBank.isSome }] })

/-- As above, for a scalar register, which becomes empty. -/
def awaitedReg (v : Env) (d : BitVec 6) (k : VarKind) (u : State) : State :=
  (awaited v k u).modCtx v.core (·.setEmpty d.toNat)

/-- COPY and COPYNB, tags (R166 to R169). -/
def copyEffect (v : Env) (i : Instr) : Option Effect :=
  match i with
  | .copy _ o => (recordAt v (recordAddr v o.base o.off) 64).map (fun n =>
      let r := BitVec.ofNat 512 n
      let w := v.c.commandWaits (ordAcq (trOrd r)) (ordRel (trOrd r))
      { srcs := [srcRef o.base],
        ready := v.x.copynbOut = false ∧ v.s.copyRoom v.core v.c.inSup = true ∧ (v.c.waitIds false false).isEmpty = true,
        change := fun u =>
          (fenced v (ordAcq (trOrd r)) (ordRel (trOrd r)) u).acceptCopy v.core v.c.inSup v.x.nextId r w.1 w.2 })
  | .copynb _ o => (recordAt v (recordAddr v o.base o.off) 64).map (fun n =>
      let r := BitVec.ofNat 512 n
      let w := v.c.commandWaits (ordAcq (trOrd r)) (ordRel (trOrd r))
      { srcs := [srcRef o.base], dsts := [.reg o.dest.toNat], ready := (v.c.waitIds false false).isEmpty = true,
        change := fun u =>
          awaitedReg v o.dest (.copynb o.dest.toNat r w.1 w.2) (fenced v (ordAcq (trOrd r)) (ordRel (trOrd r)) u) })
  | .twany _ o => some
    { srcs := [srcRef o.mask],
      ready := v.src o.mask ≠ 0 → v.x.copynbOut = false ∧ v.x.spec SR.tagmap &&& v.src o.mask ≠ 0 }
  | .twall _ o => some
    { srcs := [srcRef o.mask],
      ready := v.src o.mask ≠ 0 → v.x.copynbOut = false ∧ v.x.spec SR.tagmap &&& v.src o.mask = v.src o.mask }
  | .tfind _ o => some
    { srcs := [srcRef o.mask], dsts := [.reg o.dest.toNat],
      change := awaitedReg v o.dest (.tfind o.dest.toNat (v.src o.mask) 0 0) }
  | .tclr _ o => some { srcs := [srcRef o.mask], results := [res v (.tclr (v.src o.mask)) 1] }
  | _ => none

/-- The flags that FENCE, DRAIN, BWAIT and EXIT would deliver as a trap (R70). -/
def flagsDue (v : Env) : W64 := v.x.spec SR.fpflags &&& v.x.spec SR.fpenable

/-- FENCE and DRAIN (R172 to R174). -/
def fenceEffect (v : Env) (i : Instr) : Option Effect :=
  match i with
  | .fence _ o => some { ready := flagsDue v = 0, change := fenced v (ordAcq o.ord) (ordRel o.ord) }
  | .fenceInstr _ => some
    { ready := flagsDue v = 0, after := fun w => w.modCore v.core (fun c => { c with icache := [] }) }
  | .drain _ o => some
    { ready := flagsDue v = 0 ∧ v.c.pendingIds = [] ∧ v.c.prog.statusOut = false ∧ v.c.sup.statusOut = false ∧
        (o.cp = true → ∀ c ∈ v.s.copies, c.core = v.core → c.orphan = true) ∧
        (o.nt = true → ∀ w ∈ v.s.nt, w.core = v.core → o.cp = false ∧ ∃ c ∈ v.s.copies, c.id = w.copy),
      change := fenced v true true }
  | _ => none

/-- The barrier group that an operation names, when it is installed with the core as a member. -/
def barrierGroup (v : Env) (g : BitVec 8) : Option Group := v.s.groupOf g.toNat v.core

/-- Barriers (R175): BARRIVE counts the core's arrival, BWAIT passes and BTEST answers true when every present member has
arrived as often as the core. -/
def barrierEffect (v : Env) (i : Instr) : Option Effect :=
  let met (g : Group) : Prop := ∀ m ∈ g.present v.s, 0 ≤ (g.arrivals.look 0 m - g.arrivals.look 0 v.core).toInt
  match i with
  | .barrive _ o => (barrierGroup v o.group).map (fun g =>
      { ready := v.c.inSup = false ∧ v.c.pendingIds = [] ∧
          ∀ m ∈ g.present v.s, (g.arrivals.look 0 v.core - g.arrivals.look 0 m).toInt < (65535 : Int),
        change := fun u =>
          let g' := { g with arrivals := g.arrivals.put v.core (g.arrivals.look 0 v.core + 1) }
          { u with groups := u.groups.put o.group.toNat g' } })
  | .bwait _ o => (barrierGroup v o.group).map (fun g => { ready := v.c.inSup = false ∧ flagsDue v = 0 ∧ met g })
  | .btest _ o => (barrierGroup v o.group).map (fun g =>
      { dsts := [.pred o.pd.toNat], ready := v.c.inSup = false,
        results := [res v (.pred o.pd.toNat ((g.present v.s).all (fun m =>
          decide (0 ≤ (g.arrivals.look 0 m - g.arrivals.look 0 v.core).toInt)))) 1] })
  | _ => none

/-- STEP retires the step that the core has claimed and awaits the walker's answer in seven registers; TRIGGER marks the
step (R176 to R178). -/
def stepEffect (v : Env) (i : Instr) : Option Effect :=
  match i with
  | .step _ o => some
    { dsts := (List.range 7).map (fun k => .reg (o.d.toNat + k)),
      ready := v.c.inSup = false ∧ (v.c.preempt = some false → v.c.progBank ≠ none),
      change := fun u =>
        (List.range 7).foldl (fun u k => u.modCtx v.core (·.setEmpty (o.d.toNat + k)))
          (awaited v (.step o.d.toNat none) (u.retireStep v.core)) }
  | .trigger _ o => some
    { ready := v.c.inSup = false ∧ (v.c.waitIds (ordRel o.ord) true).isEmpty = true,
      change := fun u => match v.c.launch, v.c.claim with
        | some l, some (k, false) =>
          (u.modLaunch l (fun z => { z with triggered := z.triggered + 1 })).modCore v.core (fun c =>
            { c with claim := some (k, true) })
        | _, _ => u }
  | _ => none

/-- SUBMIT and SKIM await their status; a record of SKIM that is malformed, or that streams, is answered with 2 and joins
no queue (R180, R181). EVADD is an access to its counter, and EVWAIT passes when the counter has reached its value
(R182). -/
def commandEffect (v : Env) (i : Instr) : Option Effect :=
  match i with
  | .submit _ o => (recordAt v (recordAddr v o.base o.off) 64).map (fun n =>
      { srcs := [srcRef o.base], dsts := [.reg o.dest.toNat],
        ready := v.c.prog.submitsOut + v.c.sup.submitsOut < 8 ∧ (v.c.waitIds false false).isEmpty = true,
        change := awaitedReg v o.dest (.submit o.dest.toNat o.queue.toNat (BitVec.ofNat 512 n) v.c.inSup
          (v.c.waitIds (ordRel o.ord) true) none) })
  | .skim _ o => (recordAt v (recordAddr v o.base o.off) 128).map (fun n =>
      let r := BitVec.ofNat 1024 n
      { srcs := [srcRef o.base], dsts := [.reg o.dest.toNat],
        ready := v.s.skimHeld < 256 ∧ (v.c.waitIds false false).isEmpty = true,
        change := fun u =>
          if skimMalformed r || skStream r then awaitedReg v o.dest (.skim o.dest.toNat 2) u
          else awaitedReg v o.dest (.skim o.dest.toNat 0) (u.addSkim r none (v.c.waitIds (ordRel o.ord) true) v.core) })
  | .evadd _ o => some
    { srcs := [srcRef o.ctr, srcRef o.val], ready := (v.src o.ctr).toNat < 4096,
      change := fun u => u.addAccess v.core v.c .evadd false (ordRel o.ord) true false
        [newCell (v.src o.ctr).toNat 1 (v.src o.val).toNat 0 0] .none v.pc none }
  | .evwait _ o => some
    { srcs := [srcRef o.ctr, srcRef o.val],
      ready := (v.src o.ctr).toNat < 4096 ∧ v.src o.val ≤ v.s.counter (v.src o.ctr).toNat ∧
        v.c.prog.addOut (v.src o.ctr).toNat = false ∧ v.c.sup.addOut (v.src o.ctr).toNat = false ∧ (v.c.waitIds false false).isEmpty = true }
  | _ => none

/-! ## The system instructions (R80 to R83) -/

/-- The words of a loop-stack image: lc0 to lc5, ls0 to ls5, le0 to le5, ldepth. -/
def imageRegs : List Nat :=
  [0x08, 0x09, 0x0A, 0x0B, 0x0C, 0x0D, 0x10, 0x11, 0x12, 0x13, 0x14, 0x15, 0x18, 0x19, 0x1A, 0x1B, 0x1C, 0x1D, 0x1E]

/-- The little-endian number whose 64-bit words are given. -/
def wordsValue : List W64 → Nat
  | [] => 0
  | w :: ws => w.toNat + 2 ^ 64 * wordsValue ws

/-- LSAVE stores the image, with a last word of zero; LLOAD loads it in one issue. -/
def loopEffect (v : Env) (i : Instr) : Option Effect :=
  let target (o : LoopMem) := resolveAccess v.c v.core true (v.src o.base + o.off.signExtend 64) 160 8
  match i with
  | .lsave _ o =>
    match target o with
    | .error _ => none
    | .ok t => some
      { srcs := [srcRef o.base], ready := (v.c.waitIds false true).isEmpty = true,
        change := fun u => u.write t.key 160 (wordsValue (imageRegs.map v.x.spec)) }
  | .lload _ o =>
    match target o with
    | .error _ => none
    | .ok t =>
      let word (k : Nat) : W64 := BitVec.ofNat 64 (v.s.read t.key 152 >>> (64 * k))
      some
        { srcs := [srcRef o.base], ready := (v.c.waitIds false false).isEmpty = true ∧ (word 18).toNat ≤ 6,
          results := (imageRegs.zipIdx).map (fun r => res v (.special r.1 (word r.2)) 1) }
  | _ => none

/-- What a supervisor's RETI leaves of a core (R81, R200): program mode at the pc and the repetition that the supervisor's trap
registers give, or that a load of part 0 has put there; the results that the system trap froze behind those there are, to land
last; the sticky words and everything else of the program as they were frozen, and the supervisor's own state as it is. -/
def LeavesSupervisor (c d : Core) : Prop :=
  d.mode = .program ∧ d.sysBank = none ∧ d.loadedBeats = none ∧
  { d with mode := c.mode, sysBank := c.sysBank, loadedBeats := c.loadedBeats, prog := c.prog } = c ∧
  d.prog.pc = (if c.reloaded then c.prog.pc else c.sup.spec SR.trappc) ∧
  d.prog.rep = (if c.reloaded then c.prog.rep else (c.sup.spec SR.trapcause).toNat / 2 ^ 16 % 64) ∧ d.prog.cur = none ∧
  d.prog.flight = c.prog.flight ++ ((c.sysBank.map (·.entries)).getD []).map (fun f => { f with late := true }) ∧
  { d.prog with pc := c.prog.pc, rep := c.prog.rep, cur := c.prog.cur, flight := c.prog.flight } = c.prog

/-- A supervisor's RETI, no load of its own being under way. -/
def SupervisorReturns : Prop :=
  ∀ (h : Hdr) (s : State), CanIssue (.reti h) h s → (s.core s.turn).inSup = true → (s.ctx s.turn).rep = 0 →
    (∀ k ∈ ((begun (.reti h) s).core s.turn).svCmds, k.save = true) →
    ∃ w t, Issued s.turn 2 [] [] [] (begun (.reti h) s) w ∧ exec (.reti h) s = .next t ∧
      { t with cores := w.cores } = w ∧ (∀ m, m ≠ s.turn → t.core m = w.core m) ∧
      LeavesSupervisor (w.core s.turn) (t.core s.turn)

/-- TRAP is taken at the boundary after its bundle; RETI returns from supervisor mode, or from the program handler. SVSAVE
and SVLOAD hand a command over, whose tag counts as a copy's; a save of part 0 waits until every copy of the program has
completed or parked (R171), and one of a context that its image cannot hold is to fail (R203). -/
def systemEffect (v : Env) (i : Instr) : Option Effect :=
  let command (o : SvOp) (save : Bool) : Option Effect :=
    if 3 < (v.src o.base).toNat >>> 56 then none
    else match resolveAccess v.c v.core false (v.src o.base) (partSize o.part.toNat) 512 with
      | .error _ => none
      | .ok _ => some
        { srcs := [srcRef o.base],
          ready := v.c.inSup = true ∧ (save = true → o.part = 0 → ∀ c ∈ v.s.copies, c.core = v.core → c.sup = false →
            c.orphan = false → c.failed = false ∧ ∃ p r sp a w, c.phase = .parked p r sp a w),
          change := fun u => (fenced v (ordAcq o.ord) (ordRel o.ord) u).modCore v.core (fun c =>
            { c with
                svCmds := c.svCmds ++ [{ id := c.sup.nextId, save := save, part := o.part.toNat, tag := o.tag.toNat,
                                         addr := v.src o.base, waits := (v.c.commandWaits (ordAcq o.ord) (ordRel o.ord)).2,
                                         failed := save && !contextFits v.s v.core o.part.toNat,
                                         image := if save then contextImage v.s v.core o.part.toNat else [],
                                         earlier := if ordRel o.ord && save then
                                           (v.s.copies.filter (fun k => k.core == v.core)).map (·.id) else [] }],
                sup := { (c.sup.tagAccept c.sup.nextId o.tag.toNat) with nextId := c.sup.nextId + 1 } }) }
  match i with
  | .trap _ o => some
    { after := fun w => w.trap v.core ⟨0, o.num.toNat, 64 ≤ o.num.toNat, 0⟩ (w.ctx v.core).pc (w.ctx v.core).rep }
  | .reti _ =>
    if v.c.inSup then some
      { ready := ∀ k ∈ v.c.svCmds, k.save = true, after := fun w => w.modCore v.core Core.leaveSupervisor }
    else v.c.progBank.map (fun b => { after := fun w => w.modCore v.core (fun c => c.leaveHandler b) })
  | .svsave _ o => command o true
  | .svload _ o => command o false
  | _ => none

/-! ## Branches (R36 to R41, R75 to R78) -/

/-- A core that issues and has room in its write ports for what lands at the issue (R102), and a branch operation. -/
def CanBranch (i : Instr) (s : State) : Prop :=
  (s.core s.turn).runs = true ∧ (s.core s.turn).landFull = false ∧ WellFormed i ∧ hdrOfInstr i = none

/-- What the branch word `i`, alone in its bundle, sees at its issue. -/
def branchSeen (i : Instr) (s : State) : Env :=
  { core := s.turn, slot := 9, word := 0, s := begun i s, pc := (s.ctx s.turn).pc, popped := [], pushed := [] }

/-- What one issue on core `n` does when nothing but the context that the core is in, and the count of a handler's issues,
may change: `P` relates that context before and after, given how much the issue counts for. -/
def CtxIssued (n : Nat) (P : Nat → Ctx → Ctx → Prop) (u t : State) : Prop :=
  let c := u.core n
  let d := t.core n
  { t with cores := u.cores } = u ∧ (∀ m, m ≠ n → t.core m = u.core m) ∧
  { d with prog := c.prog, sup := c.sup, handlerIssues := c.handlerIssues } = c ∧
  (if c.inSup then d.prog = c.prog else d.sup = c.sup) ∧ P (if c.inSup then 0 else 1) c.ctx d.ctx

/-- What the issue of a branch word leaves of a context: all but the scalar register it links in, the pc and the loop
stack. The results in flight come one issue nearer, and the issue is counted. -/
def BranchKept (counts : Nat) (x y : Ctx) : Prop :=
  y.empty = x.empty ∧ y.p = x.p ∧ y.oc = x.oc ∧ y.racc = x.racc ∧ y.vars = x.vars ∧ y.nextId = x.nextId ∧
  y.afterAcq = x.afterAcq ∧ y.afterRel = x.afterRel ∧ y.rep = 0 ∧ y.cur = none ∧
  y.flight = x.flight.map (fun f => { f with remain := f.remain - 1 }) ∧
  y.spec SR.issues = x.spec SR.issues + BitVec.ofNat 64 counts ∧
  ∀ k, k < 0x08 ∨ 0x1E < k → k ≠ SR.issues → y.spec k = x.spec k

/-- The address that a 20-bit offset names from a base; the most negative offset names none (R37). -/
def offsetFrom (base : W64) (t : BitVec 20) : Option W64 :=
  if t = 0x80000#20 then none else some (base + t.signExtend 64 * 8)

/-- A branch that is no loop operation: the register it reads, where it goes, the register it links in. -/
structure Jump where
  reg    : Option (BitVec 6) := none
  target : Option W64
  link   : BitVec 6 := 0

/-- The leaf that a tree of tests reaches: its test number, its first leaf's number (R40). -/
def treeLeaf (p : Nat → Bool) : Shape → Nat → Nat → Nat
  | .leaf, _, l => l
  | .test f t, i, l => if p i then treeLeaf p t (i + 1 + f.tests) (l + f.tests + 1) else treeLeaf p f (i + 1) l

/-- The shapes in the order of their codes (R41). -/
def shapeTable : List Shape :=
  let l := Shape.leaf
  let a := Shape.test l l
  let b := [Shape.test l a, .test a l]
  let c := [Shape.test l (.test l a), .test l (.test a l), .test a a, .test (.test l a) l, .test (.test a l) l]
  [a] ++ b ++ c ++ c.map (Shape.test l) ++ b.map (Shape.test a) ++ b.map (Shape.test · a) ++ c.map (Shape.test · l)

/-- The branches of R75 that are no loop operations. -/
def jumpOf (v : Env) (i : Instr) : Option Jump :=
  match i with
  | .brc neg p t => some { target := if (v.x.pred p.toNat ^^ neg) = true then offsetFrom v.pc t else none }
  | .jmp t => some { target := offsetFrom v.pc t }
  | .call t l => some { target := offsetFrom v.pc t, link := l }
  | .ret r => some { reg := some r, target := some (v.x.sreg r.toNat) }
  | .jmpi t r => some { reg := some r, target := offsetFrom (v.x.sreg r.toNat) t }
  | .calli t l r => some { reg := some r, target := offsetFrom (v.x.sreg r.toNat) t, link := l }
  | .brt o =>
    let preds := [o.p0, o.p1, o.p2, o.p3]
    let leaves := [o.leaf0, o.leaf1, o.leaf2, o.leaf3, o.leaf4]
    some { target := offsetFrom v.pc (leaves.getD
      (treeLeaf (fun k => v.x.pred (preds.getD k o.p3).toNat) (shapeTable.getD o.shape.toNat .leaf) 0 0) o.leaf4) }
  | _ => none

/-- What a jump in a bundle of `len` words does to a context. -/
def JumpCtx (len : Nat) (j : Jump) (counts : Nat) (x y : Ctx) : Prop :=
  let seq := x.pc + BitVec.ofNat 64 (8 * len)
  BranchKept counts x y ∧
  (∀ r, y.sreg r = if r = j.link.toNat ∧ r ≠ 0 then seq else x.sreg r) ∧
  match j.target with
  | some a => y.pc = a ∧ ∀ k, k ≠ SR.issues → y.spec k = x.spec k
  | none => (NoLoopEnd x → y.pc = seq ∧ ∀ k, k ≠ SR.issues → y.spec k = x.spec k) ∧
      (∀ k, k ∉ loopStackRegs → k ≠ SR.issues → y.spec k = x.spec k) ∧ LoopTested len x y

/-- LOOP and LOOP_IMM: the register read, the count and the end address. -/
def loopOf (v : Env) (i : Instr) : Option (Option (BitVec 6) × W64 × W64) :=
  match i with
  | .loop e r => some (some r, v.x.sreg r.toNat, v.pc + e.signExtend 64 * 8)
  | .loopImm e n => some (none, n.setWidth 64, v.pc + e.signExtend 64 * 8)
  | _ => none

/-- What the loop-end test of a branch word's bundle leaves of the levels that `keep` names, and of every special register that
is no part of the loop stack (R75, R76): as `LoopTested` has it. -/
def LevelsTested (keep : Nat → Prop) (x y : Ctx) : Prop :=
  (∀ k, k ∉ loopStackRegs → k ≠ SR.issues → y.spec k = x.spec k) ∧
  ∀ l, l < 6 → keep l → y.spec (SR.ls l) = x.spec (SR.ls l) ∧ y.spec (SR.le l) = x.spec (SR.le l) ∧
    y.spec (SR.lc l) =
      if levelsLeft x ≤ l ∧ l < (x.spec SR.ldepth).toNat then 0
      else if levelRepeats x ∧ l + 1 = levelsLeft x then x.spec (SR.lc l) - 1
      else x.spec (SR.lc l)

/-- Where a loop operation's bundle of two words goes: an outer level that ends there and has trips left starts its body
again; else the next bundle follows (R75). -/
def pastLoopOp (x : Ctx) : W64 := if levelRepeats x then x.spec (SR.ls (levelsLeft x - 1)) else x.pc + 16

/-- A loop that starts, whatever ends at its bundle: the loop-end test comes first, and a level is added to what it leaves,
with the loop's count, its first bundle and its end. -/
def LoopPushed (count fin : W64) (counts : Nat) (x y : Ctx) : Prop :=
  let d := levelsLeft x
  BranchKept counts x y ∧ y.s = x.s ∧ y.pc = pastLoopOp x ∧ y.spec SR.ldepth = BitVec.ofNat 64 (d + 1) ∧
  y.spec (SR.lc d) = count ∧ y.spec (SR.ls d) = x.pc + 16 ∧ y.spec (SR.le d) = fin ∧ LevelsTested (· ≠ d) x y

/-- Levels removed, whatever ends at the bundle: of those that the loop-end test leaves. -/
def LevelsPopped (n : Nat) (counts : Nat) (x y : Ctx) : Prop :=
  BranchKept counts x y ∧ y.s = x.s ∧ y.pc = pastLoopOp x ∧ y.spec SR.ldepth = BitVec.ofNat 64 (levelsLeft x - n) ∧
  LevelsTested (fun _ => True) x y

/-- The length in words of a bundle with the header `m`: the header, the branch words that BFORM states, and a word for each
slot that is present (R20, R21). -/
def headerWords (m : W64) : Nat :=
  1 + m.toNat / 2 ^ 24 % 4 + ((List.range 9).filter (fun i => m.getLsbD i)).length

/-- How long a loop's end bundle is (R75, R77): its header is fetched through the translation of its address, through free
values of its own; where the instruction cache holds no other word there, it is what memory holds; where no translation is
found, the fetch faults with the address. -/
def LengthsOfEndBundles : Prop :=
  ∀ (u : State) (n : Nat) (a : W64),
    let w := { u with free := 2 ^ 64 + u.free }
    (∀ e, (w.translate a.toNat false).2 = .error e → lengthAt u n a = .error ⟨17, 9, true, a⟩) ∧
    ∀ v k, w.translate a.toNat false = (v, .ok k) →
      (∀ m, ((u.core n).icache.find (a.toNat / 8) = some m → m = BitVec.ofNat 64 (v.read k 8))) →
      lengthAt u n a = .ok (headerWords (BitVec.ofNat 64 (v.read k 8)))

/-- A loop that starts: a level is added, with the loop's count, its first bundle and its end, and the body follows. -/
def LoopStarts (count fin : W64) (counts : Nat) (x y : Ctx) : Prop :=
  let d := (x.spec SR.ldepth).toNat
  let seq := x.pc + 16
  BranchKept counts x y ∧ y.s = x.s ∧ y.pc = seq ∧
  y.spec (SR.lc d) = count ∧ y.spec (SR.ls d) = seq ∧ y.spec (SR.le d) = fin ∧
  y.spec SR.ldepth = x.spec SR.ldepth + 1 ∧
  ∀ k, k ∉ [SR.issues, SR.lc d, SR.ls d, SR.le d, SR.ldepth] → y.spec k = x.spec k

/-- What goes to another place and changes no loop register. -/
def GoesTo (a : W64) (counts : Nat) (x y : Ctx) : Prop :=
  BranchKept counts x y ∧ y.s = x.s ∧ y.pc = a ∧ ∀ k, k ≠ SR.issues → y.spec k = x.spec k

/-- Levels removed from the loop stack. -/
def LevelsGone (n : Nat) (counts : Nat) (x y : Ctx) : Prop :=
  BranchKept counts x y ∧ y.s = x.s ∧ y.pc = x.pc + 16 ∧
  y.spec SR.ldepth = x.spec SR.ldepth - BitVec.ofNat 64 n ∧
  ∀ k, k ≠ SR.issues → k ≠ SR.ldepth → y.spec k = x.spec k

/-- The end bundle of the innermost level, which has trips left: its count falls by one and the body starts again. -/
def LevelRepeats (counts : Nat) (x y : Ctx) : Prop :=
  let d := (x.spec SR.ldepth).toNat - 1
  BranchKept counts x y ∧ y.s = x.s ∧ y.pc = x.spec (SR.ls d) ∧ y.spec (SR.lc d) = x.spec (SR.lc d) - 1 ∧
  ∀ k, k ≠ SR.issues → k ≠ SR.lc d → y.spec k = x.spec k

/-- Levels that share an end address (R76): the levels above `k` are on their last trip and are removed, with counts of zero;
level `k`, which ends there too, has trips left: it counts one and its body starts again. -/
def LevelsShareEnd (k : Nat) (counts : Nat) (x y : Ctx) : Prop :=
  BranchKept counts x y ∧ y.s = x.s ∧ y.pc = x.spec (SR.ls k) ∧ y.spec SR.ldepth = BitVec.ofNat 64 (k + 1) ∧
  y.spec (SR.lc k) = x.spec (SR.lc k) - 1 ∧
  (∀ l, l < (x.spec SR.ldepth).toNat → k < l → y.spec (SR.lc l) = 0) ∧
  ∀ m, m ≠ SR.issues → m ≠ SR.ldepth → (∀ l, k ≤ l → l < (x.spec SR.ldepth).toNat → m ≠ SR.lc l) → y.spec m = x.spec m

/-- The end bundle of the innermost level on its last trip, the next level not ending there: the level is removed. -/
def LevelEnds (counts : Nat) (x y : Ctx) : Prop :=
  let d := (x.spec SR.ldepth).toNat - 1
  BranchKept counts x y ∧ y.s = x.s ∧ y.pc = x.pc + 16 ∧ y.spec (SR.lc d) = 0 ∧
  y.spec SR.ldepth = x.spec SR.ldepth - 1 ∧
  ∀ k, k ≠ SR.issues → k ≠ SR.lc d → k ≠ SR.ldepth → y.spec k = x.spec k

/-! ## The machine -/

/-- The state in which the core whose turn it is has a bundle under way that has not issued. -/
def underWay (i : Instr) (s : State) : State := s.modCtx s.turn (fun x => { x with cur := some (soloBundle i) })

/-- The state after an attempt to issue that stalls (R164, R189): the bundle stays under way, and what was due to land
lands at the issue itself, but for the clears of TCLR, which are made now (R169). -/
def stalled (i : Instr) (s : State) : State := (underWay i s).modCore s.turn Core.landClears

/-- The scalar register that a branch word reads (R38). -/
def branchReads (i : Instr) : Option (BitVec 6) :=
  match i with
  | .ret r | .jmpi _ r | .calli _ _ r | .loop _ r => some r
  | _ => none

/-- What the operations of some families read and write: those that every form of operand occurs in. -/
def operandsOf (v : Env) (i : Instr) : Option Effect :=
  [intEffect, moveEffect, predEffect, fpEffect, elementEffect, permuteEffect, functionEffect, loadEffect, storeEffect,
    lineMemEffect].findSome? (fun f => f v i)

/-- The fields of trapcause (R74). -/
def causeFields (w : W64) (rep : Nat) (sys : Bool) (cls num : Nat) : Prop :=
  w.toNat % 2 ^ 8 = num ∧ w.toNat / 2 ^ 8 % 2 ^ 7 = cls ∧ w.toNat / 2 ^ 15 % 2 = sys.toNat ∧
  w.toNat / 2 ^ 16 % 2 ^ 6 = rep ∧ w.toNat / 2 ^ 22 = 0

/-- The trap registers of a context hold a trap, its other special registers are those of another. -/
def TrapNoted (t : Trap) (pc : W64) (rep : Nat) (x y : Ctx) : Prop :=
  causeFields (y.spec SR.trapcause) rep t.sys t.cls t.num ∧ y.spec SR.trappc = pc ∧ y.spec SR.trapinfo = t.info ∧
  ∀ k, k ∉ [SR.trapcause, SR.trappc, SR.trapinfo] → y.spec k = x.spec k

/-- What the return from the handler leaves of a core (R81, R195, R197): the sticky words that the trap froze, the results
it froze put back behind those of the handler, the pc and the repetition that the trap registers give, and no bank; what the
handler has left outstanding counts as issued before any later trap (R187, R198). -/
def Returns (c d : Core) (b : Bank) : Prop :=
  d.progBank = none ∧ d.prog.sticky = b.stickies ∧ d.prog.pc = c.prog.spec SR.trappc ∧ d.prog.cur = none ∧
  d.prog.rep = (c.prog.spec SR.trapcause).toNat / 2 ^ 16 % 64 ∧
  d.prog.flight = c.prog.flight ++ b.entries.map (fun f => { f with late := true }) ∧
  d.lent = c.lent.map (fun r => { r with handler := false }) ∧
  d.loadErrors = c.loadErrors.map (fun e => { e with handler := false }) ∧
  d.prog.racc = c.prog.racc.map (fun r => { r with handler := false }) ∧
  d.prog.vars = c.prog.vars.map (fun v => { v with handler := false }) ∧
  { d with progBank := c.progBank, prog := c.prog, lent := c.lent, loadErrors := c.loadErrors } = c ∧
  { d.prog with sticky := c.prog.sticky, flight := c.prog.flight, pc := c.prog.pc, rep := c.prog.rep, cur := c.prog.cur,
                racc := c.prog.racc, vars := c.prog.vars } = c.prog

/-- A trap whose fields fit trapcause. -/
def Trap.Fits (t : Trap) (rep : Nat) : Prop := t.cls < 128 ∧ t.num < 256 ∧ rep < 64

/-- The bytes that a store or an atomic may write at its issue, from the addresses its form gives: the key of the first,
and how many; of STX one range for each active lane. -/
def storedAt (v : Env) (i : Instr) : List (Nat × Nat) :=
  let scalar (a : W64) (size : Nat) : List (Nat × Nat) := match v.scalarTarget a size with
    | .ok t => [(t.key, 2 ^ size)]
    | .error _ => []
  let line (a : W64) : List (Nat × Nat) := match v.lineTarget a with
    | .ok t => [(t.key, 512)]
    | .error _ => []
  match i with
  | .st _ o | .stPostinc _ o => (storeAddr v i).elim [] (fun a => scalar a o.size.toNat)
  | .stIndexed _ o => (storeAddr v i).elim [] (fun a => scalar a o.size.toNat)
  | .stl _ o => line (v.src o.base + o.off.signExtend 64)
  | .stlPostinc _ o => line (v.src o.base)
  | .stx _ o => (laneTargets o v true).map (fun t => (t.2.key, 2 ^ o.size.toNat))
  | .amo _ o => scalar (v.src o.addr) o.size.toNat
  | .cas _ o => scalar (v.src o.addr) o.size.toNat
  | .amol _ o => line (v.src o.base + o.off.signExtend 64)
  | .lsave _ o => match resolveAccess v.c v.core true (v.src o.base + o.off.signExtend 64) 160 8 with
    | .ok t => [(t.key, 160)]
    | .error _ => []
  | _ => []

/-- The stores that `storedAt` speaks of. -/
def isStore (i : Instr) : Bool :=
  match i with
  | .st .. | .stPostinc .. | .stIndexed .. | .stl .. | .stlPostinc .. | .stx .. | .amo .. | .cas .. | .amol .. | .lsave .. => true
  | _ => false

/-- The results of a core that are due. -/
def dueResults (c : Core) : List Flight := c.ctx.flight.filter (fun f => f.remain == 0)

/-- A result writes scalar register `r`. -/
def writesReg (r : Nat) (f : Flight) : Bool :=
  match f.eff with
  | .sreg q _ => q == r
  | _ => false

/-- Of the results due that write a place, `f` lands last: the others are of lower slots, or `f` alone is put back from a
retake bank (R186, R195). -/
def LandsLast (c : Core) (writes : Flight → Bool) (f : Flight) : Prop :=
  f ∈ dueResults c ∧ ∀ g ∈ dueResults c, writes g = true → g = f ∨ (g.late = false ∧ (f.late = true ∨ g.slot < f.slot))

/-- What the results due leave in a place that held `old`, where each may write it: the value of the last, or what was
there. -/
def Lands {α : Type} (c : Core) (writes : Flight → Option α) (old new : α) : Prop :=
  ((∀ f ∈ dueResults c, writes f = none) → new = old) ∧
  ∀ f x, LandsLast c (fun g => (writes g).isSome) f → writes f = some x → new = x

/-- What a result writes into bit `b` of cell (`r`, `q`) of a tile: a line's lane lies in one cell, and only enabled bits
are written (R29, R31, R110); of the lines of one result the last wins. -/
def cellBit (tile r q b : Nat) (f : Flight) : Option Bool :=
  let one (s : BitVec 13) (ad : Bool) (en line : Line) : Option Bool :=
    if s.toNat / 2 ^ 7 % 8 = tile then
      ((List.range 128).find? (fun i => laneCell s ad i == (r, q) && en.getLsbD (32 * i + b))).map (fun i =>
        line.getLsbD (32 * i + b))
    else none
  match f.eff with
  | .lines s en data => data.zipIdx.reverse.findSome? (fun x => one (specAdvance s x.2) false en x.1)
  | .antidiag s en data => one s true en data
  | _ => none

/-- What a register keeps of a value written to it (R71, R74): reserved bits are dropped, and a rounding mode that is none
becomes 000. -/
def specKept (n : Nat) (v : W64) : W64 :=
  let low (k : Nat) : W64 := BitVec.ofNat 64 (v.toNat % 2 ^ k)
  if n = SR.fpflags ∨ n = SR.fpenable then low 6
  else if n = SR.fpctl then (if v.toNat % 8 = 6 ∨ v.toNat % 8 = 7 then 0 else low 3)
  else if n = SR.accflags then low 4
  else if n = SR.stipstream then low 20
  else if n = SR.ldepth then low 3
  else v

/-- What a result writes into special register `n`. -/
def specWritten (n : Nat) (f : Flight) : Option W64 :=
  match f.eff with
  | .special m v => if m = n then some (specKept n v) else none
  | _ => none

/-- A result that clears tags (R169). -/
def clearsTags (f : Flight) : Bool :=
  match f.eff with
  | .tclr _ => true
  | _ => false

/-- A result clears bit `j` of tagmap and tagerr. -/
def clearsTag (j : Nat) (f : Flight) : Bool :=
  match f.eff with
  | .tclr m => m.getLsbD j
  | _ => false

/-- A result that is a beat. -/
def isBeat (f : Flight) : Bool :=
  match f.eff with
  | .beat _ => true
  | _ => false

/-- The line that a result pushes to write port `p`. -/
def pushedLine (p : Nat) (f : Flight) : Option Line :=
  match f.eff with
  | .push q l => if q = p then some l else none
  | _ => none

/-- Where the results due land beside the scalar registers: predicates, lane masks and tile cells bit by bit, special
registers, write ports; and what no landing touches (R7, R70, R71, R102, R110, R155, R169, R186). -/
def OthersLand (c : Core) : Prop :=
  let d := c.landDue
  (∀ p, 0 < p → p < 16 →
    Lands c (fun f => match f.eff with | .pred q v => if q = p then some v else none | _ => none) (c.ctx.pred p) (d.ctx.pred p)) ∧
  (∀ k b, 0 < k → b < 512 →
    Lands c (fun f => match f.eff with
      | .mask q v en => if q = k ∧ en.getLsbD b = true then some (v.getLsbD b) else none
      | _ => none) ((c.mask k).getLsbD b) ((d.mask k).getLsbD b)) ∧
  (∀ t r q b, t < 8 → r < 128 → q < 128 → b < 32 →
    Lands c (cellBit t r q b) ((c.tiles.look 0 (128 * t + r)).getLsbD (32 * q + b))
      ((d.tiles.look 0 (128 * t + r)).getLsbD (32 * q + b))) ∧
  (∀ n, n ∉ [SR.fpflags, SR.accflags, SR.tagmap, SR.tagerr] → Lands c (specWritten n) (c.ctx.spec n) (d.ctx.spec n)) ∧
  ((∀ f ∈ dueResults c, isBeat f = false) →
    Lands c (specWritten SR.accflags) (c.ctx.spec SR.accflags) (d.ctx.spec SR.accflags) ∧
    ∃ base, Lands c (specWritten SR.fpflags) (c.ctx.spec SR.fpflags) base ∧
      d.ctx.spec SR.fpflags = base ||| BitVec.ofNat 64 (orAll ((dueResults c).map (·.flags)))) ∧
  (∀ n j, n = SR.tagmap ∨ n = SR.tagerr → j < 64 → (∀ f ∈ dueResults c, specWritten n f = none) →
    (d.ctx.spec n).getLsbD j = ((c.ctx.spec n).getLsbD j && (dueResults c).all (fun f => !clearsTag j f))) ∧
  (∀ p, p < 4 → ∃ ls, ls.Perm ((dueResults c).filterMap (pushedLine p)) ∧
    d.port (8 + p) = if (c.port (8 + p)).conf then { c.port (8 + p) with queue := (c.port (8 + p)).queue ++ ls }
      else c.port (8 + p)) ∧
  (∀ p, p < 8 → d.port p = c.port p) ∧
  { d with prog := c.prog, sup := c.sup, k := c.k, tiles := c.tiles, ports := c.ports, arr := c.arr } = c ∧
  (if c.inSup then d.prog = c.prog else d.sup = c.sup) ∧
  { d.ctx with s := c.ctx.s, p := c.ctx.p, sr := c.ctx.sr, flight := c.ctx.flight, landed := c.ctx.landed, vars := c.ctx.vars } = c.ctx

/-- What lands while the bundle at whose issue it is due stalls: the clears of TCLR, once, and nothing else (R169). -/
def ClearsLand (c : Core) : Prop :=
  let d := c.landClears
  d.ctx.flight = c.ctx.flight.filter (fun f => !(f.remain == 0 && clearsTags f)) ∧
  (∀ n j, n = SR.tagmap ∨ n = SR.tagerr → j < 64 →
    (d.ctx.spec n).getLsbD j = ((c.ctx.spec n).getLsbD j && (dueResults c).all (fun f => !clearsTag j f))) ∧
  (∀ n, n ∉ [SR.tagmap, SR.tagerr] → d.ctx.spec n = c.ctx.spec n) ∧
  { d with prog := c.prog, sup := c.sup } = c ∧ (if c.inSup then d.prog = c.prog else d.sup = c.sup) ∧
  { d.ctx with sr := c.ctx.sr, flight := c.ctx.flight, vars := c.ctx.vars } = c.ctx

/-- What the operations that supervisor mode does not have read and write, and what they wait for before the test: the
line-form L operations and the port operations (privilege NUM 4); step, barrier and handle operations and GLDS
(NUM 5). -/
def programOnlyForm (v : Env) (i : Instr) : Option Effect :=
  let quiet : Prop := ∀ r w, (v.c.waitIds r w).isEmpty = true
  match i with
  | .ldl _ o | .ldlPostinc _ o => some
    { srcs := [srcRef o.base], dsts := [.line o.line 1 o.ad], pushes := pushesOf o.line, ready := quiet }
  | .stl _ o | .stlPostinc _ o => some { srcs := [.line o.line 1 64 o.ad false, srcRef o.base], ready := quiet }
  | .ldx _ o => some
    { srcs := [lineRef o.index 32, srcRef o.base], dsts := [.line o.line 1 false], pushes := pushesOf o.line, ready := quiet }
  | .stx _ o => some { srcs := [lineRef o.line 32, lineRef o.index 32, srcRef o.base], ready := quiet }
  | .gld _ o => some
    { srcs := [srcRef o.base], dsts := [.line o.line 1 false, .pred o.cp.toNat], pushes := pushesOf o.line }
  | .amol _ o => some { srcs := [lineRef o.src (tyWidth o.ty), srcRef o.base], ready := quiet }
  | .pcfg _ o => some { srcs := [srcRef o.base], ready := quiet }
  | .prst _ o => some { ready := 8 ≤ o.port.toNat → v.c.portBusy o.port.toNat = false }
  | .glds _ o => some { srcs := [srcRef o.base], dsts := [.reg o.dest.toNat, .pred o.cp.toNat] }
  | .hgive _ o => some
    { srcs := [srcRef o.base, srcRef o.desc], dsts := [.reg o.dest.toNat],
      ready := v.c.pendingIds = [] ∧ (v.s.core (peerOf v.core ((v.src o.desc).toNat % 16))).offers.length < 16 }
  | .htake _ o => some { dsts := [.reg o.dest.toNat] }
  | .hback _ _ => some { ready := v.c.pendingIds = [] }
  | .step _ o => some { dsts := (List.range 7).map (fun k => .reg (o.d.toNat + k)) }
  | .trigger _ _ => some { ready := True }
  | .barrive _ _ => some { ready := True }
  | .btest _ o => some { dsts := [.pred o.pd.toNat] }
  | .bwait _ _ | .exit _ => some { ready := flagsDue v = 0 }
  | _ => none

/-- The segment `g` of a line: 64 bytes. -/
def segment (l : Line) (g : Nat) : BitVec 512 := l.extractLsb' (512 * g) 512

/-- Row `k` of a stationary buffer. -/
def bufRow (b : BitVec 65536) (k : Nat) : BitVec 512 := b.extractLsb' (512 * k) 512

/-- Signed byte `k`. -/
def sbyte {w : Nat} (x : BitVec w) (k : Nat) : Int := (x.extractLsb' (8 * k) 8).toInt

/-- The exact sum of a MACC of 64 signed bytes: output `n` (R145, R151). -/
def byteDot (b : Beat) (trans : Bool) (n : Nat) : Int :=
  ((List.range 64).map (fun k =>
    sbyte b.src k * (if trans then sbyte (bufRow b.buf n) k else sbyte (bufRow b.buf k) n))).foldl (· + ·) 0

/-- The bounds of an accumulator cell. -/
def acc96 (x : Int) : Int := max (-(2 ^ 95)) (min (2 ^ 95 - 1) x)

/-! ## Beats of every class (R145, R151, R153 to R155) -/

/-- Streamed element `i` of a beat of class `n`, with its block's scale. -/
def streamed (b : Beat) (o : MF) (n i : Nat) : Num.FVal :=
  operandVal o.sty (b.src.extractLsb' (512 / n * i) (512 / n)).toNat (b.sc.extractLsb' (8 * (i / 16)) 8).toNat

/-- Element W(`k`, `m`) of the stationary tile, with its block's scale. -/
def stationary (b : Beat) (o : MF) (n k m : Nat) : Num.FVal :=
  operandVal o.wty ((bufRow b.buf k).extractLsb' (512 / n * m) (512 / n)).toNat
    (b.plane.extractLsb' (8 * (8 * (k / 16) + m / 16)) 8).toNat

/-- The products of output `out`. -/
def beatProducts (b : Beat) (o : MF) (n out : Nat) : List Num.Prod :=
  (List.range n).map (fun i => Num.product (streamed b o n i) (if o.trans then stationary b o n out i else stationary b o n i out))

/-- The tag of a set of products: NaN where one is NaN or infinities of both signs occur (R154). -/
def productsTag (ps : List Num.Prod) : Num.Tag :=
  let has (t : Num.Tag) : Bool := ps.any (fun p => p.tag == t)
  if has .nan ∨ (has .posInf ∧ has .negInf) then .nan
  else if has .posInf then .posInf
  else if has .negInf then .negInf
  else .finite

/-- Two tags met at landing (R154). -/
def metTag (x y : Num.Tag) : Num.Tag :=
  if x = .nan ∨ y = .nan ∨ (x = .posInf ∧ y = .negInf) ∨ (x = .negInf ∧ y = .posInf) then .nan
  else if x = .finite then y
  else x

/-- The finite products, each truncated to a multiple of 2^`a`, and whether one loses bits (R151). -/
def truncatedProducts (a : Int) (ps : List Num.Prod) : List (Int × Bool) :=
  (ps.filter (fun p => p.tag == .finite)).map (Num.truncAt a)

/-- What a MACC or a MACCZ of any class leaves in the cells of its row, and the flags of its bank and of fpflags: NV for an
infinity times zero and for infinities of both signs, in the beat or at landing; AX where a product of an output that ends
finite loses bits, AO where its sum is clamped (R151, R154, R155). -/
def ContributionLands (zero : Bool) (n : Nat) (b : Beat) (a : ArrayState) : Prop :=
  let o := MF.dec b.word
  let d := (landBeat b a).1
  let fl := (landBeat b a).2
  let col := n * (o.low.toNat / 2 ^ 17)
  let x := a.row o.bank o.row.toNat
  let y := d.row o.bank o.row.toNat
  let ps (out : Nat) : List Num.Prod := beatProducts b o n out
  let ts (out : Nat) : List (Int × Bool) := truncatedProducts (a.anchor o.bank - 64) (ps out)
  let tag (out : Nat) : Num.Tag := if zero then productsTag (ps out) else metTag (x.tag (col + out)) (productsTag (ps out))
  let sum (out : Nat) : Int := (if zero then 0 else x.value (col + out)) + ((ts out).map Prod.fst).sum
  let both (out : Nat) : Bool :=
    ((ps out).any (fun p => p.tag == .posInf) && (ps out).any (fun p => p.tag == .negInf)) ||
    (!zero && ((x.tag (col + out) == .posInf && productsTag (ps out) == .negInf) ||
      (x.tag (col + out) == .negInf && productsTag (ps out) == .posInf)))
  { d with acc := a.acc } = a ∧
  (∀ bank row, accKey bank row ≠ accKey o.bank o.row.toNat → d.row bank row = a.row bank row) ∧
  (∀ out, out < n → y.tag (col + out) = tag out ∧
    y.value (col + out) = if tag out = .finite then acc96 (sum out) else x.value (col + out)) ∧
  (∀ c, c < 128 → c < col ∨ col + n ≤ c → y.tag c = x.tag c ∧ y.value c = x.value c) ∧
  fl.1 = (if (List.range n).any (fun out => (ps out).any (·.nv) || both out) then 1 else 0) ∧
  fl.2 = ((if (List.range n).any (fun out => tag out == .finite && (ts out).any Prod.snd) then 1 else 0) +
    (if (List.range n).any (fun out => tag out == .finite && acc96 (sum out) != sum out) then 2 else 0)) * (if o.bank then 4 else 1)

/-! ## A bundle of two operations -/

/-- What a scalar operation reads and writes. -/
def scalarEffect (v : Env) (i : Instr) : Option Effect :=
  [intEffect, moveEffect, predEffect, fpEffect].findSome? (fun f => f v i)

/-- The bundle of two operations in the slots S0 and S1. -/
def pairBundle (i j : Instr) : Bundle :=
  { len := 3, rep := 0, pres := 3, hold := 0, step := 0, branch := none, slots := [(0, encodeWord i), (1, encodeWord j)] }

/-- The state in which the operations of a bundle under way read, a cycle having passed: what is due has landed. -/
def bundleBegun (n : Nat) (u : State) : State := (u.modCore n Core.countCycle).modCore n Core.landDue

/-- What an operation in slot `k` of a bundle under way sees. -/
def bundleSeen (n k : Nat) (i : Instr) (u : State) : Env :=
  { core := n, slot := k, word := encodeWord i, s := bundleBegun n u, pc := (u.ctx n).pc, popped := [], pushed := [] }

/-- Two scalar operations stand in one bundle that is under way, and both take part. -/
def PairUnderWay (i j : Instr) (g h : Hdr) (n : Nat) (u : State) : Prop :=
  u.sec.halted = false ∧ (u.core n).runs = true ∧ (u.core n).landFull = false ∧
  ((u.modCore n Core.countCycle).core n).dueTrap = none ∧ (u.ctx n).cur = some (pairBundle i j) ∧ (u.ctx n).rep = 0 ∧
  WellFormed i ∧ WellFormed j ∧ hdrOfInstr i = some g ∧ hdrOfInstr j = some h ∧ g.slot = 0 ∧ h.slot = 1 ∧
  ((bundleBegun n u).ctx n).pred g.pred.toNat = !g.neg ∧ ((bundleBegun n u).ctx n).pred h.pred.toNat = !h.neg

/-- Both operations of a bundle read the state before it, and their results go into flight, those of the lower slot first;
where an operand of one is empty and traps for neither, neither has issued (R12, R89, R189). -/
def PairsIssue : Prop :=
  ∀ (i j : Instr) (g h : Hdr) (n : Nat) (u : State) (e f : Effect), PairUnderWay i j g h n u →
    scalarEffect (bundleSeen n 0 i u) i = some e → scalarEffect (bundleSeen n 1 j u) j = some f →
    let c := (bundleBegun n u).core n
    (SrcsReady c [] e.srcs → SrcsReady c [] f.srcs → DstsReady c e.dsts [] → DstsReady c f.dsts [] →
      c.ctx.srStall e.mode = false → c.ctx.srStall f.mode = false →
      ∃ t, Issued n 3 (e.results ++ f.results) [] [] (bundleBegun n u) t ∧
        exec .bundleIssue { u with agenda := .bundleIssue n :: u.agenda } = .next t) ∧
    (firstEmpty c true [] 0 e.srcs = none → firstEmpty c true [] 0 f.srcs = none →
      (firstEmpty c false [] 0 e.srcs ≠ none ∨ firstEmpty c false [] 0 f.srcs ≠ none ∨
        (∃ d ∈ e.dsts ++ f.dsts, dstEmpty c d = true)) →
      exec .bundleIssue { u with agenda := .bundleIssue n :: u.agenda } =
        .next ((u.modCore n Core.countCycle).modCore n Core.landClears))

/-! ## Events -/

/-- The events of a table happen: where the next move is the input of a row and `u` is the state without that move, the
row's instruction answers a next state, and the table says of it what the spec says. `none` is for what the table leaves
out. -/
def Happens (T : Move → State → Option (State → Prop)) : Prop :=
  ∀ (m : Move) (i : Instr) (u : State) (P : State → Prop), u.sec.halted = false → moveInstr m = some i → T m u = some P →
    ∃ t, exec i { u with agenda := m :: u.agenda } = .next t ∧ P t

/-- The state after is this one. -/
def becomes (v : State) : Option (State → Prop) := some (fun t => t = v)

/-- Core `n` becomes `c`; nothing else changes. -/
def coreBecomes (n : Nat) (u : State) (c : Core) : Option (State → Prop) :=
  some (fun t => { t with cores := u.cores } = u ∧ (∀ m, m ≠ n → t.core m = u.core m) ∧ t.core n = c)

/-- The registers window answers (R366). -/
def answering (u : State) : Bool := u.sec.phase != .recovery

/-- An interrupt entry is armed on a counter and met (R358). -/
def irqMet (n : Nat) (c : W64) (v : BitVec 128) : Bool :=
  v.getLsbD 63 && v.toNat % 2 ^ 12 == n && v.toNat / 2 ^ 64 ≤ c.toNat

/-- Of the entries `irqs`, those that are met send their vectors in order and disarm. -/
def IrqsTested (irqs : FMap (BitVec 128)) (n : Nat) (c : W64) (u t : State) : Prop :=
  t.out = u.out ++ (irqs.filter (fun e => irqMet n c e.2)).map (fun e => .msix (e.2.toNat / 2 ^ 16 % 2 ^ 11)) ∧
  (irqs.Pairwise (fun a b => a.1 < b.1) → ∀ e,
    t.irqs.look 0 e = (irqs.look 0 e) &&& ~~~(if irqMet n c (irqs.look 0 e) then (1 : BitVec 128) <<< 63 else 0))

/-- Counter `n` has the value `v`, and what watches it has been tested: interrupt entries, storyboard entries, and the
launches that wait for it, for which the scheduler may ask cores to stop (R182, R248, R257, R296, R357, R358). -/
def Counted (u : State) (n : Nat) (v : W64) (t : State) : Prop :=
  t.counter n = v ∧ (∀ m, m ≠ n → t.counter m = u.counter m) ∧ IrqsTested u.irqs n v u t ∧
  t.coll = ({ u with counters := u.counters.put n v }).dueEntries.coll ∧
  { t with counters := u.counters, irqs := u.irqs, out := u.out, coll := u.coll, sched := u.sched, cores := u.cores } = u ∧
  (∀ k, { t.core k with preempt := (u.core k).preempt } = u.core k) ∧
  ∀ q, t.queue q = u.queue q

/-- A ring whose registers were written: its records are gone (R356). -/
def ringSetTo (r : RingName) (size : Bool) (v : W64) (x : Ring) : Ring :=
  let top := match r with
    | .queue _ => (15, 12)
    | _ => (31, 16)
  if size then
    { x with head := 0, tail := 0, n := let k := (v.toNat &&& top.1); if k < 4 then 4 else if top.2 < k then top.2 else k }
  else { x with head := 0, tail := 0, base := v &&& 0xFFFFFFFFFFE0 }

/-- The registers of REGISTER_WRITE that this table speaks of, by offset (R356, R359, R360, R363, R373). -/
def registerEffect (off : Nat) (v : W64) (u : State) : Option (State → Prop) :=
  let n := (off - 0x100000) / 0x40
  let q := (off - 0x200100) / 0x40
  if off % 8 ≠ 0 ∨ 0xA00000 ≤ off then becomes u
  else if 0x100000 ≤ off ∧ off < 0x110000 then
    (if off % 0x40 = 8 then coreBecomes n u { u.core n with svEntry := v &&& 0xFFFFFFFFFFF8 }
     else if off % 0x40 = 0x10 then
       coreBecomes n u { u.core n with ceRate := let k := v.toNat % 16384; if k = 0 then 1 else if 8192 < k then 8192 else k }
     else none)
  else if off = 0x200000 then becomes { u with sched := { u.sched with deadline := v.toNat % 65536 } }
  else if 0x200100 ≤ off ∧ off < 0x201500 ∧ off % 0x40 = 0 then
    becomes (u.setQueue q { u.queue q with saveBase := v &&& 0xFFFFFFFFF000 })
  else if off = 0x500000 then
    becomes { u with coll := { u.coll with checkK := (let k := v.toNat / 256 % 32; if 16 < k then 16 else k), checkEn := v.getLsbD 0 } }
  else if off = 0x600010 then becomes { u with dm := { u.dm with idle := v.toNat % 2 ^ 32 } }
  else if off = 0x900000 then
    becomes (if v.toNat % 4096 < 800 ∨ 2400 < v.toNat % 4096 then u
      else { u with pow := { u.pow with cap := v.toNat % 4096 } })
  else if off = 0x900008 ∨ off = 8 ∨ off = 0x408 ∨ off = 0x200008 ∨ off = 0x600008 then becomes u
  else none

/-- A run that has begun to arm and is not over: it has been armed, or has its sequence number (R295, R297). -/
def runUnderWay (r : Run) : Bool := r.phase != .completed && (r.phase != .waiting || r.seq != 0)

/-- Writes through the registers window (R15, R323, R327, R332, R356 to R360, R371). -/
def windowTable (m : Move) (u : State) : Option (State → Prop) :=
  if !answering u then none
  else match m with
  | .counterAddWrite n v => if n < 4096 then some (Counted u n (u.counter n + v)) else none
  | .counterSetWrite n v => if n < 4096 then some (Counted u n v) else none
  | .evtIrqWrite e high v =>
    if 1024 ≤ e then none
    else if !high && 2039 < v.toNat / 2 ^ 16 % 2 ^ 11 then becomes u
    else
      let old := u.irqs.look 0 e
      let new : BitVec 128 := if high then v ++ old.extractLsb' 0 64
        else old.extractLsb' 64 64 ++ (v &&& 0x8000000007FF0FFF)
      let n := new.toNat % 2 ^ 12
      some (fun t => { t with irqs := u.irqs, out := u.out } = u ∧ IrqsTested (u.irqs.put e new) n (u.counter n) u t)
  | .fabricPkgidWrite v =>
    becomes (if u.sched.launches.any (fun l => l.2.phase != .queued) ∨ u.coll.runs.any (fun r => runUnderWay r.2) ∨
        u.copies.any (fun c => trRemote c.record) then u
      else { u with coll := { u.coll with pkgid := v.setWidth 12 } })
  | .fabricDimsWrite v =>
    becomes (if u.coll.runs.any (fun r => runUnderWay r.2) then u
      else { u with coll := { u.coll with dims := v.setWidth 12 } })
  | .dmConfigWrite v =>
    let p := v.toNat % 512
    becomes (if u.dm.locked = false ∧ p % 15 = 0 ∧ p ≤ 360 then { u with dm := { u.dm with pgran := p, locked := true } }
      else { u with dm := { u.dm with latewr := if u.dm.latewr + 1 < 2 ^ 32 then u.dm.latewr + 1 else 2 ^ 32 - 1 } })
  | .xlRootWrite v => some (fun t =>
      { t with xl := u.xl } = u ∧ t.xl.root = v &&& 0xFFFFFFFFF000 ∧ t.xl.tlb = [] ∧ t.xl.walks = [] ∧
      { t.xl with root := u.xl.root, tlb := u.xl.tlb, walks := u.xl.walks, epoch := u.xl.epoch } = u.xl)
  | .xlInvalWrite v =>
    let size := v.toNat / 2 ^ 60 % 8
    let n := if size = 0 then 2 ^ 16 else if size = 1 then 2 ^ 21 else if size = 2 then 2 ^ 30 else 2 ^ 39
    if 4 ≤ size then none
    else some (fun t => { t with xl := u.xl } = u ∧ { t.xl with epoch := u.xl.epoch, invals := u.xl.invals } = u.xl ∧
      ∃ i, t.xl.invals = u.xl.invals ++ [i] ∧ i.all = v.getLsbD 63 ∧ i.size = n ∧ i.ctr = some (v.toNat / 2 ^ 48 % 4096) ∧
        i.base = v.toNat / 2 ^ 16 % 2 ^ 32 * 2 ^ 16 / n * n ∧ i.epoch = u.xl.epoch)
  | .ringConfigWrite r size v =>
    if !ringExists r || !(u.ring r).waiting.isEmpty then none
    else becomes (u.setRing r (ringSetTo r size v (u.ring r)))
  | .ringTailWrite r v =>
    if !ringExists r then none
    else
      let x := u.ring r
      let k := v.toNat % 2 ^ 17
      let y := if (x.head + 2 ^ 17 - k) % 2 ^ 17 ≤ 2 ^ x.n then { x with tail := k } else x
      let w := if y = x then u else u.setRing r y
      if !x.waiting.isEmpty then none
      else some (fun t => t.ring r = y ∧ { t with xl := u.xl, err := u.err, sched := u.sched, out := u.out } = u ∧
        (∀ r', r' ≠ r → t.ring r' = u.ring r') ∧
        t.out = w.out ++ if (y.head + 2 ^ 17 - y.tail) % 2 ^ 17 = 0 then [] else [.msix (match r with
          | .translation => 2040
          | .queue _ => 2041
          | .error => 2042)])
  | .secPolicyWrite v =>
    becomes (if u.sec.policy.getLsbD 63 then u
      else { u with sec := { u.sec with policy := v &&& 0x80000000000000FF } })
  | .registerWrite off n v => if n = 8 then registerEffect off v u else becomes u
  | .coreCtlStop n =>
    if 1024 ≤ n then none
    else
      let c := u.core n
      coreBecomes n u (if c.mode = .program ∨ c.mode = .trapping ∨ c.mode = .supervisor then { c with preempt := some true }
        else c)
  | .coreCtlEnd n =>
    if 1024 ≤ n then none
    else
      let c := u.core n
      let d := { c with mode := .exiting, ending := true, preempt := none, progBank := none, sysBank := none,
                        prog := { c.prog with flight := [], vars := [], cur := none } }
      if c.mode = .idle ∨ c.mode = .exited ∨ c.mode = .fenced then some (fun t => t = u)
      else if c.claim = none then coreBecomes n u d
      else becomes ((u.setCore n d).stepFailure n)
  | .coreCtlFence n =>
    if 1024 ≤ n then none
    else some (fun t => (t.core n).mode = .fenced ∧ ((u.core n).mode = .fenced → t = u) ∧
      ((u.core n).claim = none → { t with cores := u.cores, sched := u.sched } = u) ∧
      ((u.core n).claim = none → ∀ k, k ≠ n → (t.core k).mode = (u.core k).mode ∧ (t.core k).ctx.racc = (u.core k).ctx.racc))
  | _ => none

/-- A queue control entry: operation `op`, every other field 0 (R242, R243). -/
def controlEntry (op : Nat) : Entry := BitVec.ofNat 512 (4 * 2 ^ 32 + op * 2 ^ 64)

/-- A queue of the host's moves takes entries: boot is over (R366) and the queue exists. -/
def openQueue (u : State) (q : Nat) : Bool := u.sec.phase == .ready && q < 80

/-- Submissions by the host (R180, R242 to R244, R294, R295, R354). -/
def queueTable (m : Move) (u : State) : Option (State → Prop) :=
  match m with
  | .queueReset q e =>
    if !openQueue u q || e != controlEntry 0 then none
    else if 64 ≤ q then becomes ((u.resetCollective q).send .success)
    else some (fun t =>
      t.queue q = { u.queue q with
        kept := 0, launches := (u.queue q).launches.filter (fun i => !(u.launch i).any (fun l => l.phase == .queued)) } ∧
      (∀ p, p ≠ q → t.queue p = u.queue p) ∧ t.out = u.out ++ [.success] ∧
      { t with sched := u.sched, cores := u.cores, out := u.out } = u)
  | .queueSetInOrder q e =>
    if !openQueue u q || e != controlEntry 1 then none
    else
      let v := u.setQueue q { u.queue q with concurrent := false }
      becomes ((if q < 64 then v.consider else v.takeLoads heldLoads).send .success)
  | .queueSetConcurrent q e =>
    if !openQueue u q || e != controlEntry 2 then none
    else
      let v := u.setQueue q { u.queue q with concurrent := true }
      becomes ((if q < 64 then v.consider else v.takeLoads heldLoads).send .success)
  | .queueDisable q e =>
    if !openQueue u q || e != controlEntry 3 then none
    else becomes ((u.setQueue q { u.queue q with disabled := true }).send .success)
  | .queueEnable q e =>
    if !openQueue u q || e != controlEntry 4 then none
    else becomes ((u.setQueue q { u.queue q with disabled := false }).send .success)
  | .launchByDelta q e =>
    let d0 := entryDword e 0
    let x := applyGroups e 1 (u.queue q).kept
    if !openQueue u q || 64 ≤ q || d0 / 2 ^ 32 != 0 then none
    else if (u.queue q).disabled then becomes ((u.queueRecord q 2 3 false (BitVec.ofNat 64 d0)).send .success)
    else if 64 ≤ (u.queue q).launches.length then becomes (u.send .retry)
    else if !groupsFit e 1 || slateMalformed x then becomes ((u.queueRecord q 1 2 false (BitVec.ofNat 64 d0)).send .success)
    else
      let i := u.sched.nextLaunch
      let v := u.setQueue q { u.queue q with kept := x, launches := (u.queue q).launches ++ [i] }
      becomes ((({ v with sched := { v.sched with nextLaunch := i + 1 } }).setLaunch (newLaunch i q x)).consider.send .success)
  | .launchByReference q e =>
    let p := entryDword e 1
    if !openQueue u q || 64 ≤ q || entryDword e 0 / 2 ^ 32 != 1 || (u.queue q).disabled || 64 ≤ (u.queue q).launches.length ||
      2 ^ 48 ≤ p || p % 256 != 0 || !groupsFit e 2 then none
    else match u.vaRead p 256 with
      | (w, .error _) => becomes ((w.queueRecord q 1 2 false (BitVec.ofNat 64 (entryDword e 0))).send .success)
      | (w, .ok n) =>
        let x := applyGroups e 2 (BitVec.ofNat 2048 n)
        let i := w.sched.nextLaunch
        let v := w.setQueue q { w.queue q with kept := x, launches := (w.queue q).launches ++ [i] }
        if slateMalformed x then becomes ((w.queueRecord q 1 2 false (BitVec.ofNat 64 (entryDword e 0))).send .success)
        else becomes ((({ v with sched := { v.sched with nextLaunch := i + 1 } }).setLaunch (newLaunch i q x)).consider.send
          .success)
  | .storyboardLoad q e =>
    if !openQueue u q || q < 64 || entryDword e 0 != 3 * 2 ^ 32 || (u.queue q).disabled || 64 ≤ (u.queue q).items.length ||
      loadMalformed e then none
    else match u.readLoad e with
      | (_, none) => none
      | (w, some (image, members)) =>
        let i := w.coll.nextRun
        let v := w.setQueue q { w.queue q with items := (w.queue q).items ++ [.load i (entryDword e 1 % 64) image members] }
        becomes ((({ v with coll := { v.coll with nextRun := i + 1 } }).takeLoads heldLoads).send .success)
  | .storyboardRun q e =>
    let b := entryDword e 1
    if !openQueue u q || q < 64 || entryDword e 0 != 2 * 2 ^ 32 || (u.queue q).disabled || 64 ≤ (u.queue q).items.length ||
      runMalformed e || !((u.board b).loaded || u.loadHeld b) then none
    else
      let i := u.coll.nextRun
      let v := u.setQueue q { u.queue q with items := (u.queue q).items ++ [.run i] }
      becomes ((({ v with coll := { v.coll with nextRun := i + 1 } }).setRun
        { id := i, board := b, queue := q, base := BitVec.ofNat 64 (entryDword e 2), seq := 0, phase := .waiting,
          entries := [] }).send .success)
  | .submissionStrayWrite p =>
    let more (n : Nat) : Nat := if n + 1 < 2 ^ 32 then n + 1 else 2 ^ 32 - 1
    becomes (if p < 80 then u.setQueue p { u.queue p with stray := more (u.queue p).stray }
      else if p < 128 then { u with sched := { u.sched with subwinStray := more u.sched.subwinStray } } else u)
  | _ => none

/-- The mailbox has a command of number `k` under way (R369). -/
def mboxHas (u : State) (k : Nat) : Bool := !u.sec.done && u.sec.running == k

/-- A mailbox command ends with a result: DONE, RESULT and CMD, and its vector (R369). -/
def mboxEnds (u : State) (result : Nat) : State :=
  { u with out := u.out ++ [.msix 2044], sec := { u.sec with done := true, result := result, lastCmd := u.sec.running } }

/-- The answer to an attestation (R370): MAGIC, LEN, the nonce, serial, pkgid, the SVNs, the measurements, SEC_STATUS, time
and public key; then the signature and three bytes of zero. The identity key is that of the fused seed, and that of seed zero
once it is erased (log 11). -/
def attestation (u : State) : List Byte :=
  let mem (i : Nat) : Byte := u.sec.data.look 0 i
  let seed := toBytes 32 (if u.sec.erased then 0 else Config.identitySeed.toNat)
  let body := toBytes 4 0x41544C58 ++ toBytes 4 2576 ++ (List.range 32).map mem ++ fitBytes 16 Config.serial ++
    toBytes 8 u.coll.pkgid.toNat ++ (List.range 8).flatMap (fun i => toBytes 4 (u.sec.svns.look 0 i).toNat) ++
    (List.range 8).flatMap (fun i => toBytes 64 (u.sec.meas.look 0 i).toNat) ++
    toBytes 8 (u.sec.fired.toNat * 4 + u.sec.level % 4) ++ toBytes 8 u.time ++ (dsKeyGen seed).public
  body ++ dsSign seed (toBytes 32 (Config.signingNoise u.free).toNat) body ++ [0, 0, 0]

/-- A count of an error class at a unit after one more event, by the window of R363: the time it starts at, the count, and
whether the fault is lasting. -/
def countedError (u : State) (cls : Nat) (k : UnitKind) (unit : Nat) : Nat × Nat × Bool :=
  let old := u.err.counts.look (0, 0) (cls * 2 ^ 24 + unitNo k unit)
  let window := (u.classcfg cls).toNat / 2 ^ 16 % 2 ^ 32 * 1000000
  let thresh := (u.classcfg cls).toNat % 256
  let start := if window < u.time - old.1 then u.time else old.1
  let count := (if window < u.time - old.1 then 0 else old.2) + 1
  (start, count, cls == 0x23 || cls == 0x25 || cls == 0x26 || cls == 0x27 || (thresh != 0 && thresh ≤ count))

/-- The counts of the error classes with one more event (R363): a lasting fault starts a new count. -/
def withCount (u : State) (cls : Nat) (k : UnitKind) (unit : Nat) : State :=
  let c := countedError u cls k unit
  let v := if c.2.2 then (u.time, 0) else (c.1, c.2.1)
  { u with err := { u.err with counts := u.err.counts.put (cls * 2 ^ 24 + unitNo k unit) v } }

/-- An error event with its record and an action that is no change of state (R362, R363). -/
def noted (u : State) (cls : Nat) (k : UnitKind) (unit addr action : Nat) : State :=
  let c := countedError u cls k unit
  (withCount u cls k unit).errorRecord cls k unit addr c.2.1 action c.2.2

/-- The package after a reset (R366, R372): device memory and the level last recorded are what `mem` and `level` say, every
other state is as at reset; the model's own bookkeeping goes on. -/
def afterRelease (u : State) (mem : List Host.Cell) (level : Nat) : State :=
  { State.reset with out := u.out, agenda := u.agenda, turn := u.turn, free := u.free, mem := mem,
                     sec := { State.reset.sec with level := level } }

/-- The clock goes to step `k` (R373). -/
def atStep (u : State) (k : Nat) : State :=
  if u.pow.step = k then u else { u with out := u.out ++ [.msix 2045], pow := { u.pow with step := k } }

/-- A transfer on the sideband names another target: not the dynamic address, nor, before ENTDAA, the straps' (R375). -/
def otherTarget (u : State) (a : BitVec 7) : Bool := a != u.pow.address.getD Config.strapAddress

/-- Boot, the mailbox, alarms, power and the sideband (R366 to R375). -/
def serviceTable (m : Move) (u : State) : Option (State → Prop) :=
  match m with
  | .mboxAttest =>
    if !mboxHas u 1 then becomes u
    else if u.sec.len ≠ 32 ∨ u.sec.verified = false then becomes (mboxEnds u 1)
    else some (fun t =>
      { t with sec := { t.sec with data := u.sec.data } } =
        mboxEnds { u with free := u.free + 1, sec := { u.sec with len := 5888 } } 0 ∧
      ∀ i, t.sec.data.look 0 i = (attestation u).getD i 0)
  | .mboxImageChunk =>
    if !mboxHas u 2 then becomes u
    else
      let more := (List.range u.sec.len).map (fun i => u.sec.data.look 0 i)
      if u.sec.phase ≠ .recovery ∧ u.sec.phase ≠ .awaiting ∨ 2 ^ 26 < u.sec.image.length + more.length then
        becomes (mboxEnds u 1)
      else becomes (mboxEnds { u with sec := { u.sec with image := u.sec.image ++ more } } 0)
  | .mboxImageEnd more trained =>
    if !mboxHas u 3 then becomes u
    else if u.sec.phase ≠ .recovery ∧ u.sec.phase ≠ .awaiting then becomes (mboxEnds u 1)
    else becomes (mboxEnds ({ u with sec := { u.sec with image := [] } }.bootImages trained 0
      ((u.sec.image :: more).take 8)) 0)
  | .mboxImageReset => becomes (if mboxHas u 4 then mboxEnds { u with sec := { u.sec with image := [] } } 0 else u)
  | .mboxUnknownCommand =>
    becomes (if u.sec.done = false ∧ (u.sec.running = 0 ∨ 4 < u.sec.running) then mboxEnds u 2 else u)
  | .resetRelease b =>
    let v := afterRelease u (u.mem.filter (fun c => c.1 < 2 ^ 40)) u.sec.level
    let sec := { v.sec with bootSrc := b.bootSrc }
    if b.bootSrc then becomes { v with sec := { sec with phase := .awaiting } }
    else if b.images.isEmpty then becomes { v with sec := { sec with phase := .recovery, status := 0x81 } }
    else becomes ({ v with sec := sec }.bootImages b.trained 0 (b.images.take 8))
  | .powerCycle => becomes (afterRelease u [] 0)
  | .sensorAlarm x =>
    let on := (List.range 4).filter (fun i => x.getLsbD i)
    let level (i : Nat) : Nat := let k := u.sec.policy.toNat / 2 ^ (2 * i) % 4; if k = 0 then 1 else k
    let top := (on.map level).foldl max 0
    if on.isEmpty then becomes u
    else some (fun t =>
      t.sec.fired = (u.sec.fired ||| x) ∧ t.sec.level = (if u.sec.level < top then top else u.sec.level) ∧
      (t.sec.halted = true ↔ 2 ≤ top) ∧ t.sec.erased = (u.sec.erased || top == 3) ∧
      (top = 3 → (∀ k, 2 ^ 40 ≤ k → memByte t.mem k = 0) ∧ ∀ n, (t.core n).tiles = [] ∧ (t.core n).arr.acc = [] ∧
        (t.core n).arr.bufA = 0 ∧ (t.core n).arr.bufB = 0 ∧ (t.core n).arr.planeA = 0 ∧ (t.core n).arr.planeB = 0) ∧
      (2 ≤ top → (∀ n, (t.core n).mode = .idle ∨ (t.core n).mode = .fenced) ∧ ∀ p, p < 6 → (t.link p).down = true) ∧
      (top = 1 → t.cores = u.cores ∧ t.coll = u.coll ∧ t.pow = u.pow) ∧
      ∃ before, t.out = u.out ++ before ++ [.msix 2043, .inBand])
  | .powerManagerTick p =>
    let cap := if u.pow.sideCap < u.pow.cap then u.pow.sideCap else u.pow.cap
    let ticks := if 10 * p < 9 * cap then u.pow.lowTicks + 1 else 0
    let v (k : Nat) : State := { u with pow := { u.pow with power := p, lowTicks := k } }
    becomes (if cap < p then atStep (v 0) (if u.pow.step < 7 then u.pow.step + 1 else 7)
      else if ticks < 10 then v ticks
      else if u.pow.hot then v 0
      else atStep (v 0) (u.pow.step - 1))
  | .thermalStepTick x =>
    let hot := decide (100 ≤ x) || (u.pow.hot && decide (95 ≤ x))
    let v := { u with pow := { u.pow with temp := x, hot := hot } }
    if 110 ≤ x then becomes u
    else if hot = false ∨ 7 ≤ u.pow.step then becomes v
    else becomes ((atStep (noted v 0x28 .sensor 0 0 0) (u.pow.step + 1)).send .inBand)
  | .thermalTrip x =>
    if x < 110 then becomes u
    else some (fun t => t.sec.halted = true ∧ t.pow.temp = x ∧ (∀ q, (t.queue q).disabled = true) ∧
      (∀ n, (t.core n).mode = .idle ∨ (t.core n).mode = .fenced) ∧ ∀ p, p < 6 → (t.link p).down = true)
  | .i3cTelemetryRead a =>
    becomes <| if otherTarget u a then u else { u with out := u.out ++ [.telemetry u.pow.power u.pow.temp
      ((List.range 16).map (fun i => u.pow.telemetry.look 0 i)) u.pow.step u.err.ring.head] }
  | .i3cCapWrite a v =>
    becomes (if otherTarget u a ∨ v < 800 ∨ 2400 < v then u else { u with pow := { u.pow with sideCap := v } })
  | .i3cStatusRead a =>
    becomes <| if otherTarget u a then u else { u with out := u.out ++ [.status (u.sec.fired.toNat * 4 + u.sec.level % 4) u.sec.status.toNat] }
  | .i3cFenceMapRead a => if otherTarget u a then becomes u else some (fun t => { t with out := u.out } = u ∧ ∃ cores sets,
      t.out = u.out ++ [.fenceMap cores u.err.clusters sets u.err.ports u.err.alus] ∧
      (u.cores.Pairwise (fun a b => a.1 < b.1) → ∀ n, n < 1024 → cores.getLsbD n = ((u.core n).mode == .fenced)) ∧
      (u.dm.sets.Pairwise (fun a b => a.1 < b.1) → ∀ i, i < 32 → sets.getLsbD i = ((u.pset i).mode == .fenced)))
  | .i3cUnknownCommand a c => becomes (if otherTarget u a = false ∧ (c = 0 ∨ 4 < c) then { u with out := u.out ++ [.nack] } else u)
  | .entdaa a => becomes { u with pow := { u.pow with address := some a } }
  | _ => none

/-- An error event: counted, with the next action of the ladder where it makes the fault lasting, and recorded (R363, R364);
and the number of its record. -/
def eventOf (u : State) (cls : Nat) (k : UnitKind) (unit addr : Nat) : State × Nat :=
  let c := countedError u cls k unit
  let v := withCount u cls k unit
  let w := if c.2.2 then v.nextAction cls k unit else (v, 0)
  (w.1.errorRecord cls k unit addr c.2.1 w.2 c.2.2, w.1.err.seq)

/-- A line is lost: an event of class LOST at its pseudo-channel, and its 64 KiB frame is lost (R334, R344). -/
def lostLineOf (u : State) (pa : Nat) : State :=
  (eventOf u 0x1C .pseudoChannel (u.channelOf pa) pa).1.loseFrame (pa / 65536)

/-- The 16 pseudo-channels of a parity set have a request: each leaves self-refresh and restarts its timer (R338). -/
def setWoken (u : State) (i : Nat) : State :=
  (List.range 16).foldl (fun v k => { v with dm := { v.dm with
    selfRefresh := v.dm.selfRefresh.filter (fun ch => ch != 16 * i + k), lastUse := v.dm.lastUse.put (16 * i + k) v.time } }) u

/-- An uncorrectable error at a line, and whether the line is lost: in a healthy set the line is rebuilt from its stripe,
an event of class PARFIX, unless another line of the stripe, data line 0 to 14 or 15 for the parity, does not read correctly
either, with which it is lost; in make-good it is lost with the line of its stripe that is not rebuilt; elsewhere it is lost
alone (R333, R334, R337, R340). -/
def settledLine (u : State) (pa : Nat) (other : Option Nat) : State × Bool :=
  let i := u.setOf pa
  let t := u.pset i
  let sigma := u.setLine pa / 15
  let both (b : Nat) : State := lostLineOf (lostLineOf u pa) (lineAddr i (15 * sigma + b))
  if 2 ^ 30 * u.dm.pgran ≤ pa ∨ (t.mode ≠ .healthy ∧ t.mode ≠ .makeGood) then (lostLineOf u pa, true)
  else if t.mode = .healthy then
    match other with
    | some b =>
      if 16 ≤ b ∨ b = u.setLine pa % 15 then ((eventOf (setWoken u i) 0x1B .pseudoChannel (u.channelOf pa) pa).1, false)
      else (if b < 15 then both b else lostLineOf u pa, true)
    | none => ((eventOf (setWoken u i) 0x1B .pseudoChannel (u.channelOf pa) pa).1, false)
  else
    match t.lostLine sigma with
    | some j => (if t.isRebuilt sigma then lostLineOf u pa else both j, true)
    | none => (lostLineOf u pa, true)

/-- A pseudo-channel of a healthy set is retired, which is an event itself: where its class makes it lasting, the action after
it is taken, the fence of the set, and its record shows that (R339, R363, R364). -/
def retirement (u : State) (ch : Nat) : State :=
  let v := u.retireChannel (ch / 16) (ch % 16)
  let c := countedError v 0x1D .pseudoChannel ch
  let w := withCount v 0x1D .pseudoChannel ch
  if c.2.2 then (noted (w.fenceSet (ch / 16)) 0x1E .pseudoChannel ch 0 3).errorRecord 0x1D .pseudoChannel ch 0 c.2.1 3 true
  else w.errorRecord 0x1D .pseudoChannel ch 0 c.2.1 2 false

/-- Hardware errors, the rebuild, training and the links (R315, R337 to R341, R361 to R364). -/
def hardwareTable (m : Move) (u : State) : Option (State → Prop) :=
  match m with
  | .hwErrorEvent cls k unit addr a other =>
    let e := eventOf u cls k unit addr
    if !classFits cls k then becomes u
    else if cls = 0x12 ∨ cls = 0x1A then
      let l := settledLine u addr other
      let e := eventOf l.1 cls k unit addr
      becomes (if l.2 then e.1.accessFailed e.2 a else e.1)
    else if cls = 0x11 then
      becomes (match a with
        | .copyEngine id => { e.1 with copies := e.1.copies.map (fun c => if c.id = id then { c with lifted := true } else c) }
        | _ => e.1)
    else if cls = 0x1C then becomes ((e.1.loseFrame (addr / 65536)).accessFailed e.2 a)
    else if cls = 0x21 then becomes (e.1.accessFailed e.2 a)
    else becomes e.1
  | .makeGoodRebuild i none =>
    let t := u.pset i
    let v := if t.mgptr < u.stripes ∧ t.isRebuilt t.mgptr = false then setWoken u i else u
    if 32 ≤ i ∨ t.mode ≠ .makeGood then becomes u
    else if t.mgptr + 1 < u.stripes then
      becomes (v.setPset i { t with mgptr := t.mgptr + 1, rebuilt := t.rebuilt.filter (fun x => t.mgptr < x) })
    else becomes (v.setPset i { t with mode := .unprotected, mgptr := u.stripes, rebuilt := [] })
  | .makeGoodRebuild i (some b) =>
    let t := u.pset i
    if 32 ≤ i ∨ t.mode ≠ .makeGood then becomes u
    else some (fun v => ((v.pset i).mode = .fenced ∨
        ((v.pset i).mgptr = (if t.mgptr + 1 < u.stripes then t.mgptr + 1 else u.stripes) ∧
          (v.pset i).mode = (if t.mgptr + 1 < u.stripes then .makeGood else .unprotected))) ∧
      ∀ j, t.mgptr < u.stripes → t.isRebuilt t.mgptr = false → t.lostLine t.mgptr = some j → b < 16 → b ≠ j →
        v.dm.lostFrames.contains (lineAddr i (15 * t.mgptr + j) / 65536) = true ∧
        (b < 15 → v.dm.lostFrames.contains (lineAddr i (15 * t.mgptr + b) / 65536) = true))
  | .hbmRetrain ch good =>
    let t := u.pset (ch / 16)
    if good ∨ 512 ≤ ch then becomes u
    else match t.mode with
      | .healthy => becomes (retirement u ch)
      | .fenced => becomes u
      | _ => becomes (if t.retired = ch % 16 then u else noted (u.fenceSet (ch / 16)) 0x1E .pseudoChannel ch 0 3)
  | .selfRefreshEntry ch =>
    becomes (if u.dm.idle = 0 ∨ 512 ≤ ch ∨ ch ∈ u.dm.selfRefresh ∨ u.time < u.dm.lastUse.look 0 ch + u.dm.idle then u
      else { u with dm := { u.dm with selfRefresh := u.dm.selfRefresh ++ [ch] } })
  | .portRetrainingComplete p good =>
    let v := u.setLink p { u.link p with down := false, attempts := 0 }
    let c := countedError u 0x24 .port p
    if 6 ≤ p ∨ (u.link p).down = false then becomes u
    else if good = false then
      some (fun t => t.err.ports.getLsbD p = true ∧ (t.link p).down = true ∧ (t.link p).buffer = [] ∧ (t.link p).waiting = [] ∧
        { t.coll with links := u.coll.links } = u.coll ∧
        { t with err := u.err, mem := u.mem, dm := u.dm, out := u.out, coll := u.coll } = u)
    else if c.2.2 ∨ (u.link p).waiting ≠ [] then none
    else becomes ((noted v 0x24 .port p 0 0).send (.replay p))
  | .flitReceive p flit =>
    let l := u.link p
    let again : Link := { l with attempts := l.attempts + 1, replays := if l.attempts = 0 then l.replays
      else if l.replays + 1 < 2 ^ 32 then l.replays + 1 else 2 ^ 32 - 1 }
    if 6 ≤ p ∨ l.down = true ∨ u.err.ports.getLsbD p = true then becomes u
    else if flit.length ≠ 256 ∨ Config.flitGood flit = false then
      becomes (if 15 ≤ l.attempts then u.setLink p { l with attempts := 0, down := true }
        else (u.setLink p again).send (.replay p))
    else
      let brings := match Config.flitBrings p flit with
        | some m => if m.isArrival then [m] else []
        | none => []
      becomes (if Config.flitSequence flit % 4096 = l.expected then
          { u.setLink p { l with attempts := 0, expected := (l.expected + 1) % 4096 } with agenda := brings ++ u.agenda }
        else u)
  | _ => none

/-! ## Events at a core (R7, R87, R97 to R106, R166, R176 to R181, R187 to R202) -/

/-- No fixed-latency result of a context of core `c` is in flight or in a bank: an arriving result lands at once (R186). -/
def nothingInFlight (c : Core) (sup : Bool) : Bool :=
  (c.side sup).flight.isEmpty && (sup || (c.sysBank.isNone && c.progBank.isNone))

/-- A core whose context has a scalar register written and full. -/
def withReg (c : Core) (sup : Bool) (r : Nat) (v : W64) : Core :=
  c.modSide sup (fun x =>
    { x with s := if r = 0 then x.s else x.s.put r v, empty := x.empty &&& ~~~(BitVec.ofNat 64 (2 ^ r)) })

/-- A core that awaits a result no longer. -/
def unawaited (c : Core) (sup : Bool) (id : Nat) : Core :=
  c.modSide sup (fun x => { x with vars := x.vars.filter (fun v => v.id != id) })

/-- The core takes a trap, at its pc and repetition, with its pending causes as `d` has them. -/
def trapsWith (n : Nat) (u : State) (d : Core) (t : Trap) : Option (State → Prop) :=
  coreBecomes n u (d.takeTrap t (u.core n).prog.pc (u.core n).prog.rep)

/-- `d` with the pre-emption request, the loans and the offers of `c`. -/
def likeCore (c d : Core) : Core := { d with preempt := c.preempt, lent := c.lent, offers := c.offers }

/-- A group after core `n` has left its barriers (R175, R179). -/
def leavesGroup (n : Nat) (g : Group) : Group :=
  if recField g.entry 0 n 1 = 1 ∧ n ∉ g.left then { g with left := g.left ++ [n] } else g

/-- What a STEP delivers: an index with its coordinates, or that none is left (R176). -/
def stepValues (u : State) (n : Nat) (i : Option Nat) : List W64 :=
  match i with
  | some i => (coords ((((u.core n).launch.bind u.launch).map (·.slate)).getD 0) i).map (BitVec.ofNat 64) ++ [0]
  | none => [0, 0, 0, 0, 0, 0, 1]

/-- What the core has still to do before its EXIT completes (R179): results in flight, accesses, statuses other than that of
an HTAKE that waits, copies, supervisor commands, write ports and non-temporal writes, of both modes. -/
def exitWaits (u : State) (n : Nat) : Bool :=
  let c := u.core n
  !(c.prog.flight.isEmpty && c.prog.racc.isEmpty && c.sup.racc.isEmpty && c.svCmds.isEmpty) ||
  u.copies.any (fun k => k.core == n && !k.orphan) || u.nt.any (fun w => w.core == n) ||
  (c.prog.vars ++ c.sup.vars).any (fun v => match v.kind with
    | .htake .. => false
    | _ => true) ||
  (List.range 4).any (fun p => c.portBusy (8 + p))

/-- A cell of a load by core `n` meets one of the accesses `waits` that has not performed there: of a remote access, or of
another group load (R272). -/
def heldAt (u : State) (n : Nat) (waits : List Nat) (k : RCell) : Bool :=
  ((u.core n).prog.racc ++ (u.core n).sup.racc).any (fun r => waits.contains r.id && r.cells.any (fun q => !q.done && q.overlaps k)) ||
  (u.core n).prog.vars.any (fun v => waits.contains v.id && (u.unread v).any k.overlaps)

/-- Events at a core. -/
def coreTable (m : Move) (u : State) : Option (State → Prop) :=
  match m with
  | .bundleIssue n =>
    let v := u.modCore n Core.countCycle
    let x := v.ctx n
    if (u.core n).runs = false then becomes u
    else match (v.core n).dueTrap, x.cur with
      | some t, _ => becomes (v.takeDue n t)
      | none, some b => becomes (issueWhole n b v)
      | none, none =>
        let start (w : State) (b : Bundle) : Option (State → Prop) :=
          becomes (issueWhole n b (w.modCtx n (fun x => { x with cur := some b })))
        match fetchBundle v n x.pc (x.sticky.look 0 6) with
        | (w, .error t) => becomes (w.trap n t x.pc (if t.cls = 16 then 0 else x.rep))
        | (w, .ok b) =>
          if x.rep ≤ b.rep then start w b
          else
            let pc := x.pc + BitVec.ofNat 64 (8 * b.len)
            match fetchBundle (w.modCtx n (fun x => { x with pc := pc, rep := 0 })) n pc (x.sticky.look 0 6) with
            | (w, .error t) => becomes (w.trap n t pc 0)
            | (w, .ok b) => start w b
  | .nullifierSkip n =>
    let c := u.core n
    if c.runs = false ∨ c.dueTrap ≠ none ∨ c.ctx.cur ≠ none ∨ c.ctx.rep ≠ 0 then becomes u
    else match fetchBundle u n c.ctx.pc (c.ctx.sticky.look 0 6) with
      | (_, .error _) => becomes u
      | (w, .ok b) => becomes (if c.ctx.nullified b then skipReps n b (b.rep + 1) w else u)
  | .resultLanding n =>
    let d := (u.core n).landDue
    if (u.core n).mode = .exiting ∧ (u.core n).landFull = true then coreBecomes n u (u.core n).landRoom.landClears
    else if (u.core n).mode = .exiting then
      coreBecomes n u { d with prog :=
        { d.prog with flight := d.prog.flight.map (fun f => { f with remain := f.remain - 1 }), lately := d.prog.landed, landed := 0 } }
    else coreBecomes n u (u.core n)
  | .variableResultArrival n id =>
    let c := u.core n
    let x := c.side (supId id)
    match x.racc.find? (fun r => r.id == id), x.vars.find? (fun v => v.id == id) with
    | some r, _ =>
      if r.cells.any (fun k => !k.done) ∨ (match r.dst with
          | .line spec _ _ _ _ _ => !c.lineRoom spec
          | _ => false) = true then becomes u
      else
        let d := c.modSide (supId id) (fun x => { x with racc := x.racc.filter (fun q => q.id != id) })
        match r.dst with
        | .none => coreBecomes n u d
        | .sreg k bits sx =>
          if nothingInFlight c (supId id) then
            coreBecomes n u (withReg d (supId id) k (BitVec.ofNat 64 (extend sx bits ((r.cells.map (fun k => k.got.getD 0)).headD 0) 64)))
          else none
        | .line .. => coreBecomes n u (c.arriveAccess (supId id) r)
    | none, some { kind := .tfind d k seen err, .. } =>
      if k ≠ 0 ∧ x.vars.any (fun w => w.id < id && (match w.kind with
          | .copynb .. => true
          | _ => false)) = true then becomes u
      else if nothingInFlight c (supId id) then
        coreBecomes n u (withReg (unawaited c (supId id) id) (supId id) d
          (tfindValue (x.spec SR.tagmap ||| seen) (x.spec SR.tagerr ||| err) k))
      else none
    | none, _ => becomes u
  | .deferredLoadErrorTrap n =>
    let c := u.core n
    match c.loadErrors with
    | e :: es => if c.mode = .program ∧ c.progBank = none then trapsWith n u { c with loadErrors := es } ⟨4, 0, false, e.pc⟩ else none
    | [] => becomes u
  | .machineErrorTrap n =>
    let c := u.core n
    match c.loadErrors, c.machineErr with
    | [], some k => if c.mode = .program then trapsWith n u { c with machineErr := none } ⟨20, 0, true, k⟩ else none
    | [], none => becomes u
    | _, _ => none
  | .preemptionStop n =>
    let c := u.core n
    if c.mode = .program ∧ c.preempt = some true ∧ c.progBank = none ∧ c.loadErrors = [] ∧ c.machineErr = none then
      trapsWith n u { c with preempt := none } ⟨19, 1, true, 0⟩
    else none
  | .preemptHeldTimeout n =>
    let c := u.core n
    if c.mode = .program ∧ c.preempt.isSome = true ∧ c.progBank.isSome = true ∧ c.loadErrors = [] ∧ c.machineErr = none then
      (if 65536 ≤ c.handlerIssues then trapsWith n u { c with preempt := none } ⟨19, 0, true, 0⟩ else becomes u)
    else none
  | .systemTrapEntry n =>
    let c := u.core n
    let waits := c.prog.racc ≠ [] ∨ c.lent.any (fun r => r.status.isSome) = true ∨ c.prog.vars.any (fun v => match v.kind with
      | .step .. | .htake .. => false
      | _ => true) = true ∨ u.copies.any (fun k => k.core == n && !k.sup && !k.orphan && (k.failed || (match k.phase with
      | .parked .. => false
      | _ => true))) = true
    if c.mode ≠ .trapping ∨ waits then becomes u
    else coreBecomes n u { c with mode := .supervisor, sup := { c.sup with pc := c.svEntry, rep := 0, cur := none } }
  | .stepDelivery n =>
    let c := u.core n
    match c.prog.vars.findSome? (fun v => match v.kind with
        | .step d (some i) => some (v, d, i)
        | _ => none) with
    | none => becomes u
    | some (v, d, i) =>
      if c.mode ≠ .program ∧ c.mode ≠ .trapping ∧ c.mode ≠ .exiting then becomes u
      else if nothingInFlight c false = false then none
      else some (fun t => { t with cores := u.cores } = u ∧ (∀ k, k ≠ n → t.core k = u.core k) ∧
        let y := (t.core n).prog
        { t.core n with prog := c.prog } = c ∧ { y with s := c.prog.s, empty := c.prog.empty, sr := c.prog.sr, vars := c.prog.vars } = c.prog ∧
        y.vars = c.prog.vars.filter (fun w => w.id != v.id) ∧
        (∀ j, j < 7 → d + j ≠ 0 → y.sreg (d + j) = (stepValues u n i).getD j 0 ∧ y.isEmpty (d + j) = false) ∧
        (∀ r, r < d ∨ d + 7 ≤ r → y.sreg r = c.prog.sreg r ∧ y.isEmpty r = c.prog.isEmpty r) ∧
        y.spec SR.stepidx = (match i with
          | some i => BitVec.ofNat 64 i
          | none => c.prog.spec SR.stepidx) ∧
        ∀ k, k ≠ SR.stepidx → y.spec k = c.prog.spec k)
  | .copynbStatus n id =>
    let c := u.core n
    let sup := supId id
    match (c.side sup).vars.findSome? (fun v => match v.kind with
      | .copynb d r _ _ => some (v, d, r)
      | _ => none) with
    | none => becomes u
    | some (v, d, r) =>
      if v.id ≠ id then becomes u
      else if nothingInFlight c sup = false then none
      else if u.copyRoom n sup = false then coreBecomes n u (withReg (unawaited c sup id) sup d 1)
      else some (fun t => { t with cores := u.cores, copies := u.copies, nextCopy := u.nextCopy } = u ∧
        (∀ k, k ≠ n → t.core k = u.core k) ∧ t.nextCopy = u.nextCopy + 1 ∧
        (∃ k, t.copies = u.copies ++ [k] ∧ k.id = u.nextCopy ∧ k.core = n ∧ k.sup = sup ∧ k.record = r ∧ k.phase = .queued ∧
          k.failed = false ∧ k.progress = 0 ∧ k.orphan = false) ∧
        let x := c.side sup
        let y := (t.core n).side sup
        y.sreg d = 0 ∧ y.isEmpty d = false ∧ (∀ k, k ≠ d → y.sreg k = x.sreg k) ∧
        y.oc.look 0 (trTag r) = x.oc.look 0 (trTag r) + 1 ∧ (∀ k, k ≠ trTag r → y.oc.look 0 k = x.oc.look 0 k) ∧
        y.spec SR.tagmap = x.spec SR.tagmap &&& ~~~(BitVec.ofNat 64 (2 ^ trTag r)) ∧
        ∀ k, k ≠ SR.tagmap → y.spec k = x.spec k)
  | .submitStatus n id =>
    let c := u.core n
    match (c.side (supId id)).vars.find? (fun v => v.id == id) with
    | some { kind := .submit d _ _ _ _ (some st), .. } =>
      if nothingInFlight c (supId id) then
        coreBecomes n u (withReg (unawaited c (supId id) id) (supId id) d (BitVec.ofNat 64 st))
      else none
    | some { kind := .submit d q e sup ws none, .. } =>
      if nothingInFlight c (supId id) = false ∨ c.performed ws = false ∨
          (c.side (supId id)).vars.any (fun w => w.id < id && (match w.kind with
            | .submit _ q' _ _ _ none => q' == q
            | _ => false)) = true then none
      else some (fun t => ∃ c', { t with cores := (u.submit q e (.core sup)).1.cores } = (u.submit q e (.core sup)).1 ∧
        (∀ k, k ≠ n → t.core k = (u.submit q e (.core sup)).1.core k) ∧
        { c' with preempt := c.preempt } = c ∧
        t.core n = withReg (unawaited c' (supId id) id) (supId id) d (BitVec.ofNat 64 (u.submit q e (.core sup)).2))
    | _ => none
  | .skimStatus n id =>
    let c := u.core n
    match (c.side (supId id)).vars.find? (fun v => v.id == id) with
    | some { kind := .skim d st, .. } =>
      if nothingInFlight c (supId id) then
        coreBecomes n u (withReg (unawaited c (supId id) id) (supId id) d (BitVec.ofNat 64 st))
      else none
    | _ => none
  | .readPortFill n p =>
    let c := u.core n
    let q := c.port p
    let got : FMap W32 := q.early.look [] q.aheadKey
    let now := u.read (unitKey n + q.nextAddr.toNat) 512
    let line := if got.isEmpty then BitVec.ofNat 4096 now
      else lineBy 32 (fun i => (got.find i).elim (now >>> (32 * i) % 2 ^ 32) (·.toNat))
    let q := { q with early := q.early.drop q.aheadKey }
    if c.mode ≠ .program ∧ c.mode ≠ .trapping ∧ c.mode ≠ .exiting then becomes u
    else if q.conf = false ∨ 8 ≤ p ∨ 8 ≤ q.queue.length ∨ q.exhausted = true ∨ c.portStop q ≠ none then becomes u
    else
      let next : Port := match q.rows with
        | _ :: rows => { q with rows := rows, queue := q.queue ++ [line] }
        | [] =>
          if portIndexed q.record then { q with taken := q.taken + 1, rows := (List.range 128).map (lineElem 32 line) }
          else { q with taken := q.taken + 1, queue := q.queue ++ [line] }
      coreBecomes n u { c with ports := c.ports.put p next }
  | .writePortWrite n p =>
    let c := u.core n
    let q := c.port p
    match q.queue with
    | [] => becomes u
    | l :: r =>
      if c.mode ≠ .program ∧ c.mode ≠ .trapping ∧ c.mode ≠ .exiting ∨ q.conf = false ∨ p < 8 then becomes u
      else some (fun t => { t with cores := u.cores, mem := u.mem } = u ∧ (∀ k, k ≠ n → t.core k = u.core k) ∧
        t.core n = { c with ports := c.ports.put p { q with queue := r, taken := q.taken + 1 } } ∧
        t.mem = (u.write (unitKey n + (portAddr q.record q.taken).toNat) 512 l.toNat).mem)
  | .groupLoadMemberRead n id k cells =>
    match (u.core n).prog.vars.find? (fun v => v.id == id && !supId id) with
    | some { kind := .gload g op ty off line dest cp members fenced acq waits, .. } =>
      (match members.find? (fun p => p.1 == k), u.groups.find g with
        | some (_, some got), some grp =>
          let c := u.core n
          let put (x : Option (FMap W32)) (f : Bool) : Core :=
            let ms := members.map (fun (j, o) => if j == k then (j, x) else (j, o))
            let kind := VarKind.gload g op ty off line dest cp ms f acq waits
            let vars := c.prog.vars.map (fun v => if v.id == id then { v with kind := kind } else v)
            { c with prog := { c.prog with vars := vars } }
          if (u.coreFenced k || grp.absent.contains k) && got.isEmpty then
            some (fun t => { t with cores := u.cores, groups := u.groups } = u ∧ (∀ j, j ≠ n → t.core j = u.core j) ∧
              t.core n = put none true ∧ t.groups = if fenced then u.groups else u.groups.put g
                { grp with degraded := if grp.degraded + 1 < 2 ^ 32 then grp.degraded + 1 else 2 ^ 32 - 1 })
          else some (fun t => { t with cores := u.cores } = u ∧ (∀ j, j ≠ n → t.core j = u.core j) ∧
            let bytes := if line = none ∧ ty = 9 then 2 else 4
            let at_ (i : Nat) : Nat := unitKey k + groupOff grp.entry + off + 4 * i
            ∃ now, t.core n = put (some now) fenced ∧ ∀ i, now.find i =
              if i < (if line.isSome then 128 else 1) ∧ cells.getLsbD i = true ∧ got.find i = none ∧
                  heldAt u n waits (newCell (at_ i) bytes 0 0 0) = false then
                some (BitVec.ofNat 32 (u.read (at_ i) bytes))
              else got.find i)
        | _, _ => becomes u)
    | _ => none
  | .groupLoadComplete n id =>
    match (u.core n).prog.vars.find? (fun v => v.id == id && !supId id) with
    | some { kind := .gload _ op ty _ none dest cp members _ _ _, .. } =>
      let c := u.core n
      let r := groupElement op ty (groupOperands op ty none members 0)
      if members.any (fun p => p.2.any (fun got => got.length < 1)) then becomes u
      else if nothingInFlight c false = false then none
      else some (fun t => { t with cores := u.cores } = u ∧ (∀ k, k ≠ n → t.core k = u.core k) ∧
        let x := c.prog
        let y := (t.core n).prog
        { t.core n with prog := x } = c ∧ y.vars = x.vars.filter (fun v => v.id != id) ∧
        { y with s := x.s, empty := x.empty, p := x.p, sr := x.sr, vars := x.vars } = x ∧
        (∀ k, k ≠ 0 → y.sreg k = if k = dest then BitVec.ofNat 64 (extend (ty == 4) (tyWidth ty) r.1 64) else x.sreg k) ∧
        y.isEmpty dest = false ∧ (∀ k, k < 16 → y.pred k = if k = cp ∧ k ≠ 0 then members.all (fun p => p.2.isSome) else x.pred k) ∧
        y.spec SR.fpflags = x.spec SR.fpflags ||| BitVec.ofNat 64 r.2 ∧ ∀ k, k ≠ SR.fpflags → y.spec k = x.spec k)
    | some { kind := .gload _ op ty _ (some spec) _ cp members _ _ _, handler := handler, .. } =>
      let c := u.core n
      let w := tyWidth ty
      let rs := (List.range (4096 / w)).map (fun j => groupElement op ty (groupOperands op ty (some spec) members j))
      if members.any (fun p => p.2.any (fun got => got.length < 128)) ∨ c.lineRoom spec = false then becomes u
      else coreBecomes n u
        ((({ c with prog := (c.prog.dropVar id).orFlags (rs.foldl (fun f (r : Nat × Nat) => f ||| r.2) 0) }).arriveLine handler spec false
          (lanes.zip (splitBits 32 128 (joinBits w (rs.map Prod.fst))))).arrivePred false handler cp (members.all (fun p => p.2.isSome)))
    | _ => none
  | .htakeOfferAccept n =>
    let c := u.core n
    match c.waitingTake, c.offers with
    | some (id, d, h, _), f :: fs =>
      let g := peerOf n f.giver
      let lent := (u.core g).lent.map (fun r =>
        if r.base = f.base ∧ r.peer = n % 16 ∧ r.taken = false ∧ r.status = none then { r with taken := true, slot := h } else r)
      if g = n ∨ nothingInFlight c false = false then none
      else some (fun t => { t with cores := u.cores } = u ∧ (∀ k, k ≠ n → k ≠ g → t.core k = u.core k) ∧
        t.core g = { u.core g with lent := lent } ∧
        t.core n = { withReg (unawaited c false id) false d (BitVec.ofNat 64 (f.giver + 256 * f.size)) with
          offers := fs, held := c.held.put h { reserved := false, base := f.base, owner := f.giver, size := f.size, dest := d } })
    | _, _ => becomes u
  | .handleReturnComplete n region =>
    let c := u.core n
    match c.lent.find? (fun r => r.id == region) with
    | none => becomes u
    | some r =>
      if r.taken && (u.core (peerOf n r.peer)).handleBusy r.slot then becomes u
      else match r.status with
        | none => becomes u
        | some k =>
          if nothingInFlight c false then
            coreBecomes n u { withReg c false r.dest (BitVec.ofNat 64 k) with lent := c.lent.filter (fun q => q.id != region) }
          else none
  | .exitComplete n =>
    let c := u.core n
    if c.mode ≠ .exiting then becomes u
    else if c.ending = true ∧ u.copiesOf n false ≠ [] then becomes u
    else if c.ending = false ∧ exitWaits u n = true then becomes u
    else if c.ending = false ∧ c.prog.spec SR.tagerr ≠ 0 then becomes (u.finishExit n)
    else some (fun t => { t with cores := u.cores, sched := u.sched, groups := u.groups } = u ∧
      (t.core n).mode = .exited ∧ (t.core n).offers = [] ∧ (t.core n).prog.vars = [] ∧ (t.core n).ending = false ∧
      (c.ending = false → c.launch.isSome = true → (t.core n).claim = none) ∧
      (∀ k, k ≠ n → likeCore (u.core k) (t.core k) = u.core k) ∧
      t.groups = u.groups.map (fun p => (p.1, leavesGroup n p.2)))
  | .svCommandComplete n id =>
    let c := u.core n
    match c.svCmds.find? (fun k => k.id == id) with
    | none => becomes u
    | some k =>
      let ended (d : Core) (failed : Bool) : Core :=
        { d with svCmds := d.svCmds.filter (fun q => q.id != id), sup := d.sup.tagComplete k.tag failed }
      if c.performed k.waits = false ∨ u.copies.any (fun q => k.earlier.contains q.id) = true then becomes u
      else if k.failed then coreBecomes n u (ended c true)
      else match resolveAccess { c with mode := .supervisor } n false k.addr (partSize k.part) 512 with
        | .error _ => coreBecomes n u (ended c true)
        | .ok a =>
          if k.save then
            some (fun t => { t with cores := u.cores, mem := u.mem } = u ∧ t.mem = (u.writeImage a.key (partSize k.part) k.image).mem ∧
              (∀ j, j ≠ n → t.core j = u.core j) ∧ t.core n = ended c false)
          else match loadPart u n k.part (u.reader a.key) with
            | none => coreBecomes n u (ended c true)
            | some w => some (fun t => { t with cores := w.cores } = w ∧ (∀ j, j ≠ n → t.core j = w.core j) ∧
                t.core n = ended (w.core n) false)
  | _ => none

/-! ## Copies, translation, the host's window (R166, R167, R319, R327 to R329, R354) -/

/-- Entry `x` of run `i` is a notice whose source did not translate and is parked (R329). -/
def isParkedNotice (u : State) (i x : Nat) : Bool :=
  match u.run i with
  | none => false
  | some r => match r.entries[x]? with
    | none => false
    | some e => eKind e.entry == 0 && (match e.phase with
      | .parked _ => true
      | _ => false)

/-- Copy engines, invalidations, parked requests and the host's window to device memory. -/
def engineTable (m : Move) (u : State) : Option (State → Prop) :=
  match m with
  | .copyStart k =>
    match u.copies.find? (fun c => c.phase == .queued && c.core / 16 == k) with
    | none => becomes u
    | some c =>
      let bad := trMalformed c.sup c.record || (trRemote c.record && trPkg c.record != u.coll.pkgid.toNat &&
        (u.outside (trPkg c.record) || (u.route (trPkg c.record)).isNone))
      becomes { u with copies := u.copies.map (fun q =>
        if q.id = c.id then { c with phase := .started, failed := c.failed || bad } else q) }
  | .copyComplete id =>
    match u.copies.find? (fun c => c.id == id) with
    | none => becomes u
    | some c =>
      if c.phase = .queued ∨ (c.failed = false ∧ u.copyWrites c = false) then becomes u
      else if c.failed = false ∧ c.progress < trCount c.record then none
      else if c.failed = false ∧ c.sent ≠ [] then becomes u
      else some (fun t => { t with cores := u.cores, copies := u.copies, xl := u.xl } = u ∧
        t.xl = (if c.failed then { u.xl with parked := u.xl.parked.filter (fun p => !(p.2.kind == .copy && p.2.ident == id)) }
          else u.xl) ∧
        (t.copies.all (fun q => q.id != id)) = true ∧
        (∀ n, n ≠ c.core → t.core n = u.core n) ∧
        ((u.copies.map (·.id)).Nodup → ∀ q, q ∈ u.copies → q.id ≠ id → ∃ q', q' ∈ t.copies ∧ q'.id = q.id ∧ q'.record = q.record ∧ q'.phase = q.phase ∧
          q'.failed = (q.failed || (q.earlier.contains id && c.failed)) ∧ q'.progress = q.progress) ∧
        let x := (u.core c.core).side c.sup
        let y := (t.core c.core).side c.sup
        let k := trTag c.record
        y.oc.look 0 k = (if c.orphan then x.oc.look 0 k else x.oc.look 0 k - 1) ∧
        (∀ j, j ≠ k → y.oc.look 0 j = x.oc.look 0 j) ∧
        y.spec SR.tagerr = (if c.failed && !c.orphan then x.spec SR.tagerr ||| BitVec.ofNat 64 (2 ^ k) else x.spec SR.tagerr) ∧
        y.spec SR.tagmap = (if !c.orphan && x.oc.look 0 k ≤ 1 then x.spec SR.tagmap ||| BitVec.ofNat 64 (2 ^ k) else x.spec SR.tagmap) ∧
        { y with sr := x.sr, oc := x.oc } = x)
  | .translationFaultPark q =>
    if q.kind ≠ .copy then becomes u
    else match u.copies.find? (fun c => c.id == q.ident) with
      | none => becomes u
      | some c =>
        let a := q.space.toNat * 2 ^ 56 + q.va.toNat
        let mine := if q.write then !c.remoteDst u.self && u.copyWrites c
          else !trFill c.record && !c.remoteSrc u.self && u.copyReads c
        if (mine && isDevice a && (c.elementAt q.write a).isSome) = false then becomes u
        else match u.translate q.va.toNat q.write with
          | (_, .ok _) => becomes u
          | (w, .error r) =>
            if 65536 ≤ w.xl.parked.length then none
            else some (fun t => ∃ id : BitVec 16, w.xl.parked.find id.toNat = none ∧
              (∃ p, t.xl.parked.find id.toNat = some p ∧ p.kind = .copy ∧ p.ident = q.ident ∧ p.va = q.va ∧ p.write = q.write ∧
                p.reason = BitVec.ofNat 8 r) ∧
              (∀ k, k ≠ id.toNat → t.xl.parked.find k = u.xl.parked.find k) ∧
              t.copies = u.copies.map (fun k => if k.id = c.id then
                { c with phase := .parked id r q.space q.va.toNat q.write, data := [], done := [], sent := [] } else k) ∧
              t.cores = u.cores)
  | .xlInvalComplete =>
    match u.xl.invals with
    | [] => becomes u
    | i :: is =>
      if u.nt ≠ [] then none
      else
        let hit (epoch base size : Nat) : Bool :=
          epoch ≤ i.epoch && (i.all || (base < i.base + i.size && i.base < base + size))
        let v := { u with xl := { u.xl with
          invals := is, tlb := u.xl.tlb.filter (fun e => !hit e.epoch (e.vpage * 65536 / e.size * e.size) e.size),
          walks := u.xl.walks.filter (fun w => !hit w.epoch (w.index * 2 ^ levelShift w.level) (2 ^ levelShift w.level)) } }
        match i.ctr with
        | some k => some (Counted v k (v.counter k + 1))
        | none => becomes v
  | .xlResolveResume id =>
    if u.sec.phase = .recovery then none
    else match u.xl.parked.find id.toNat with
      | none => becomes u
      | some q =>
        let v := { u with xl := { u.xl with parked := u.xl.parked.drop id.toNat } }
        match q.kind with
        | .copy => becomes ({ v with copies := u.copies.map (fun c : Copy =>
            if c.id = q.ident then { c with phase := .started, data := [], done := [], sent := [] } else c) } : State).retryFabric
        | .skim => becomes (v.resumeSkim q id).retryFabric
        | .sequencer => becomes (v.resumeSequencer q).retryFabric
        | .fabric => becomes v.retryFabric
  | .xlResolveAbort id =>
    if u.sec.phase = .recovery then none
    else match u.xl.parked.find id.toNat with
      | none => becomes u
      | some q =>
        let v := { u with xl := { u.xl with parked := u.xl.parked.drop id.toNat } }
        match q.kind with
        | .copy => becomes ({ v with copies := u.copies.map (fun c : Copy =>
            if c.id = q.ident then { c with phase := .started, failed := true, data := [], done := [], sent := [] } else c) } : State).retryFabric
        | .skim => becomes (v.failSkim q.ident 9 q.unit.toNat).retryFabric
        | .sequencer =>
          let x := q.place.toNat / 2 ^ 16 % 2 ^ 12
          if q.place.getLsbD 32 then becomes (v.failRun q.ident 9 none).retryFabric
          else becomes ((if isParkedNotice v q.ident x then v.abortNotice q.ident x else v).failRun q.ident 9 (some x)).retryFabric
        | .fabric => becomes (match u.coll.fabric.find q.ident with
          | some a => { v with coll := { u.coll with fabric := u.coll.fabric.drop q.ident } }.sendPacket a.peer true .failed
          | none => v).retryFabric
  | .hostDevmemAccess off n data =>
    let pa := u.sec.devwin.toNat + off
    let lost := (List.range n).any (fun i => u.frameLost ((pa + i) / 65536))
    if u.sec.phase = .recovery ∨ u.deviceEnd < pa + n then becomes { u with out := u.out ++ [.unsupported] }
    else if n = 0 then becomes u
    else match data with
      | none =>
        if lost then becomes { u with out := u.out ++ [.poisoned] }
        else some (fun t => { t with out := u.out, dm := u.dm } = u ∧ ∃ bytes, t.out = u.out ++ [.deviceData bytes] ∧
          bytes.length = n ∧ ∀ i, i < n → bytes.getD i 0 = BitVec.ofNat 8 (u.read pa n / 2 ^ (8 * i)))
      | some bytes =>
        if lost then becomes (eventOf u 0x1C .pseudoChannel (u.channelOf pa) pa).1
        else some (fun t => { t with mem := u.mem, dm := u.dm } = u ∧ (memWf u.mem = true →
          (∀ i, i < n → memByte t.mem (pa + i) = bytes.getD i 0) ∧
          ∀ k, k < pa ∨ pa + n ≤ k → memByte t.mem k = memByte u.mem k))
  | _ => none

/-! ## Launches (R209, R246 to R261) -/

/-- A core's state when it starts for a launch (R209). Stores of an aborted launch that have issued there and not performed are
still to come (assumption 39). -/
def StartsFor (c d : Core) (l : Launch) : Prop :=
  let x := d.prog
  let y := ArrayState.start
  d.mode = .program ∧ d.launch = some l.id ∧ d.claim = none ∧ d.progBank = none ∧ d.sysBank = none ∧ d.held = [] ∧
  d.lent = [] ∧ d.offers = [] ∧ d.k = [] ∧ d.tiles = [] ∧ d.cellEmpty = [] ∧ d.ports = [] ∧ d.icache = [] ∧
  d.loadErrors = [] ∧ d.machineErr = none ∧ d.arr = y ∧ d.sup = c.sup ∧ d.svEntry = c.svEntry ∧ d.ceRate = c.ceRate ∧
  (∀ r, r < 48 → x.sreg r = 0) ∧
  (∀ r, r < 16 → x.sreg (48 + r) = l.slate.extractLsb' (1024 + 64 * r) 64) ∧
  x.empty = 0 ∧ (∀ p, 0 < p → x.pred p = false) ∧ x.pc = (l.slate.extractLsb' 0 48).setWidth 64 ∧ x.rep = 0 ∧ x.cur = none ∧
  x.spec SR.stipseed = l.slate.extractLsb' 768 64 ∧ x.spec SR.launchid = l.launchid ∧
  (∀ k, k ≠ SR.stipseed → k ≠ SR.launchid → x.spec k = 0) ∧
  x.sticky = [] ∧ x.oc = [] ∧ x.flight = [] ∧ x.racc = c.prog.racc ∧ x.vars = []

/-- The cores of some clusters that are not fenced. -/
def workingCores (u : State) (clusters : List Nat) : List Nat :=
  (clusters.flatMap (fun k => (List.range 16).map (fun j => 16 * k + j))).filter (fun n => (u.core n).mode != .fenced)

/-- Cores start for a launch and the others are as they were. -/
def CoresStart (u t : State) (l : Launch) (cores : List Nat) : Prop :=
  ∀ n, if n ∈ cores then StartsFor (u.core n) (t.core n) l else t.core n = u.core n

/-- The scheduler and the walkers. -/
def launchTable (m : Move) (u : State) : Option (State → Prop) :=
  match m with
  | .groupListRead i =>
    match u.launch i with
    | none => becomes u
    | some l =>
      if l.phase ≠ .queued ∨ slGcount l.slate = 0 ∨ l.groups ≠ none ∨ u.readyButGroups l = false then becomes u
      else match readGroups (slGlist l.slate) (slGcount l.slate) u with
        | (w, .error _) => becomes (w.abortLaunch l)
        | (w, .ok gs) => becomes (w.setLaunch { l with groups := some gs }).consider
  | .launchAdmission i =>
    match u.chosen with
    | none => becomes u
    | some l =>
      if l.id ≠ i ∨ l.phase ≠ .queued then becomes u
      else if l.groups.any (u.groupsInvalid l.slate) then becomes (u.abortLaunch l)
      else some (fun t => ∃ v new, t = v.consider ∧
        { v with cores := u.cores, sched := u.sched, groups := u.groups, free := u.free } = u ∧
        v.free = u.free + 1 ∧ v.sched.admissions = u.sched.admissions + 1 ∧ v.launch i = some new ∧
        (∀ j, j ≠ i → v.launch j = u.launch j) ∧ CoresStart u v new (workingCores u (u.takable l)) ∧ new.id = i ∧ new.slate = l.slate ∧
          new.launchid = Config.launchId u.free ∧ new.phase = .running ∧ new.clusters = u.usable l ∧ new.held = u.takable l ∧
          new.walkers = partition l.slate (u.usable l) (u.takable l) ∧ new.started = workingCores u (u.takable l) ∧
          new.triggered = l.triggered ∧ new.retired = l.retired ∧ new.restart = l.restart)
  | .clusterJoin i k =>
    match u.launch i with
    | none => becomes u
    | some l =>
      if u.mayJoin l k = false then becomes u
      else if l.id ≠ i then none
      else some (fun t => ∃ v new, t = v.consider ∧ { v with cores := u.cores, sched := u.sched } = u ∧ v.launch i = some new ∧
          (∀ j, j ≠ i → v.launch j = u.launch j) ∧
          CoresStart u v new (workingCores u [k]) ∧ new.slate = l.slate ∧ new.id = i ∧ new.launchid = l.launchid ∧
          new.held = (List.range 64).filter (fun c => l.held.contains c || c == k) ∧
          new.started = l.started ++ workingCores u [k] ∧
          new.walkers = l.walkers.map (fun w => if w.cluster = k then { w with owned := true } else w))
  | .stepService n =>
    match (u.core n).prog.openStep, (u.core n).launch.bind u.launch with
    | some id, some l =>
      if l.active = false ∨ u.coreFenced n = true then becomes u
      else if (u.core n).launch ≠ some l.id then none
      else
        let l := match (u.core n).claim with
          | some (_, true) => { l with retired := l.retired + 1 }
          | some (_, false) => { l with retired := l.retired + 1, triggered := l.triggered + 1 }
          | none => l
        let a := (l.serve (n / 16)).2
        let vars := (u.core n).prog.vars.map (fun v => match v.kind with
            | .step d none => if v.id = id then { v with kind := .step d (some (a.map Prod.fst)) } else v
            | _ => v)
        some (fun t => { t with cores := u.cores, sched := u.sched } = u ∧ (∀ k, k ≠ n → t.core k = u.core k) ∧
          t.core n = { u.core n with claim := a, prog := { (u.core n).prog with vars := vars } } ∧
          t.sched = (u.setLaunch (l.serve (n / 16)).1).sched)
    | _, _ => becomes u
  | .earlyTriggerAdd i =>
    match u.launch i with
    | none => becomes u
    | some l =>
      if l.active = false ∨ l.early = true ∨ l.triggered ≠ slSteps l.slate ∨ l.walkers.any (fun w => w.next < w.stop) = true then
        becomes u
      else
        let v := u.setLaunch { l with early := true }
        if sl l.slate 88 12 1 = 1 then
          some (Counted v (sl l.slate 88 0 12) (v.counter (sl l.slate 88 0 12) + BitVec.ofNat 64 (sl l.slate 88 16 48)))
        else becomes v
  | .launchCompletion i =>
    match u.launch i with
    | none => becomes u
    | some l =>
      if l.active = false ∨ l.retired ≠ slSteps l.slate ∨ l.started.any (fun n => !l.finished.contains n) = true then becomes u
      else if l.id ≠ i ∨ l.early = false ∧ l.earlyDue = true then none
      else
        let v := u.dropLaunch l
        if sl l.slate 80 12 1 = 1 then
          becomes (v.addCounter (sl l.slate 80 0 12) (BitVec.ofNat 64 (sl l.slate 80 16 48))).consider
        else becomes v.consider
  | .preemptionDeadlineExpiry i =>
    match u.launch i with
    | none => becomes u
    | some l =>
      if l.phase ≠ .stopping false ∨ l.deadline.any (· ≤ u.time) = false then becomes u
      else some (fun t => { t with cores := u.cores, sched := u.sched } = u ∧
        t.sched = (u.setLaunch { l with phase := .stopping true, deadline := none }).sched ∧
        ∀ n, t.core n = if n ∈ l.started ∧ n ∉ l.finished ∧ ((u.core n).mode ≠ .idle ∧ (u.core n).mode ≠ .exited ∧
          (u.core n).mode ≠ .fenced) ∧ (u.core n).stoppedByRequest = false then { u.core n with preempt := some true } else u.core n)
  | .launchPreempted i =>
    match u.launch i with
    | none => becomes u
    | some l =>
      if u.allStopped l = false then becomes u
      else
        let saved := u.savedPositions l
        match u.pieces (u.queue l.queue).saveBase.toNat (saveCores + (saved.map SavedPos.size).foldl (· + ·) 0) true with
        | (w, .error _) => becomes w
        | (w, .ok ps) =>
          let v := l.live.foldl State.dropParked (savePositions l.held ps saved saveCores ((w.clearPieces ps).imageOut ps (w.launchImage l)))
          let r := v.releaseCores l
          becomes (({ r with groups := v.groups.filter (fun g => g.2.launch != l.id) }).setLaunch
            { l with phase := .preempted, deadline := none, savedAt := (u.queue l.queue).saveBase.toNat, savedHeld := l.held,
                     saved := saved, held := [], started := [], finished := [], since := none }).consider
  | .launchResume i =>
    match u.chosen with
    | none => becomes u
    | some l => becomes (if l.id = i ∧ l.phase = .preempted then u.resume l else u)
  | .priorityAgeing _ => some (fun t => t = u.consider ∧ { t with cores := u.cores, sched := u.sched } = u ∧
      (∀ n, { t.core n with preempt := (u.core n).preempt } = u.core n) ∧ ∀ q, t.queue q = u.queue q)
  | _ => none

/-! ## Collectives (R294 to R313) -/

/-- The run and the entry that a move of the sequencer names. -/
def entryAt (u : State) (i x : Nat) : Option (Run × EntryState) :=
  match u.run i with
  | some r => (r.entries[x]?).map (fun e => (r, e))
  | none => none

/-- Whether a record repeats one that is held or has been consumed (R304). -/
def repeats (u : State) (r : NoticeRec) : Bool :=
  u.coll.tables.any (fun t => t.2.any (fun n => n.r.board == r.board && n.r.runseq == r.runseq && n.r.sender == r.sender &&
    n.r.key == r.key)) ||
  (u.board r.board).consumed.any (fun k => k == (r.runseq, r.sender, r.key))

/-- An entry goes to a phase. -/
def inPhase (u : State) (r : Run) (e : EntryState) (x : Nat) (p : EntryPhase) : State :=
  u.setRun { r with entries := r.entries.set x { e with phase := p } }

/-- The record of a notice (R303): its span is that of a source in the chunk buffers, and empty for device memory. -/
def noticeRecord (u : State) (r : Run) (e : BitVec 256) : NoticeRec :=
  let a := e.extractLsb' 128 64
  let len := e.toNat / 2 ^ 16 % 2 ^ 13
  let span := if inChunk a.toNat then u.spanAt (a.toNat % 2 ^ 26) (256 * len) else (0, 0)
  { board := r.board, runseq := r.seq, key := e.toNat / 2 ^ 72 % 2 ^ 8, sender := u.coll.pkgid.toNat, len := len,
    wfmt := e.toNat / 2 ^ 68 % 2 ^ 4, addrA := a, spanLo := span.1, spanHi := span.2 }

/-- A chunk of `len` units of the chunk buffers holds the elements of wire data, with their span. -/
def chunkLanded (u : State) (dst len fmt lo hi : Nat) (data : Nat) : State :=
  (u.write (chunkKey + dst % 2 ^ 26) (256 * len) (joinBits 32 (dequantised len fmt data))).putRegion (dst % 2 ^ 26) (256 * len) lo hi

/-- The sequencer. -/
def collectiveTable (m : Move) (u : State) : Option (State → Prop) :=
  match m with
  | .runArming i =>
    match u.run i with
    | none => becomes u
    | some r =>
      if r.phase ≠ .waiting ∨ u.itemReady r.queue (.run i) = false then becomes u
      else if r.seq ≠ 0 ∨ r.id ≠ i then none
      else
        let b := u.board r.board
        let v := (u.cqPut r.queue 22 6 r.board).cqPut r.queue 0 6 0
        let r' := { r with seq := b.runseq + 1 }
        let w := (v.setBoard r.board { b with runseq := b.runseq + 1 }).setRun r'
        if b.loaded = false then becomes (v.failRun i 1 none)
        else if u.notices.any (fun n => n.dup && n.r.board == r.board && n.r.runseq == b.runseq + 1) then
          becomes (w.failRun i 5 none)
        else match w.vaRead (r.base.toNat % 2 ^ 48) 128 with
          | (_, .error _) => none
          | (s, .ok n) =>
            let es := b.entries.map (substEntry ((List.range 16).map (fun k => n / 2 ^ (64 * k) % 2 ^ 64)))
            match es.findIdx? (fun e => e.isNone) with
            | some x => becomes (s.failRun i 2 (some x))
            | none =>
              let armed := es.filterMap (fun o => o.map (fun e =>
                (⟨e, if e.toNat / 2 ^ 61 % 8 ≤ 2 ∧ e.toNat / 2 ^ 80 % 2 ^ 16 = 0xFFFF then .completed else .armed, 0⟩ : EntryState)))
              becomes (((s.setRun { r' with phase := .armed, entries := armed }).cqPut r.queue 16 1 1).dueEntries.settleRun i)
  | .entryFire i x =>
    match entryAt u i x with
    | none => becomes u
    | some (r, e) =>
      let far := ePeer e.entry != u.self && u.outside (ePeer e.entry)
      if r.phase ≠ .armed ∨ e.phase ≠ .due then becomes u
      else if eKind e.entry ≤ 2 ∧ far = true then becomes (u.failRun i 8 (some x))
      else if eKind e.entry = 0 then
        (if ePeer e.entry = u.self then none
         else if (u.route (ePeer e.entry)).isNone then becomes (u.failRun i 8 (some x))
         else becomes ((inPhase u r e x (.posted 0)).sendPacket (ePeer e.entry) false (.notice (noticeRecord u r e.entry))))
      else if eKind e.entry ≤ 2 then becomes (inPhase u r e x .matching)
      else if eKind e.entry = 3 then becomes (u.deliver i x)
      else if eKind e.entry = 4 then
        becomes (if inChunk (eDst e.entry) ∧ u.roomFor i x e = false then inPhase u r e x (.waiting none) else u.localCopy i x)
      else becomes (inPhase u r e x .moved)
  | .noticeReceive p r =>
    let full := decide (256 ≤ (u.noticeTable p).length)
    let count := u.coll.refused.look 0 p
    if 6 ≤ p ∨ 64 ≤ r.board then becomes u
    else if repeats u r then
      (if u.coll.runs.any (fun q => q.2.board == r.board && q.2.seq == r.runseq && q.2.phase == .armed) ∨ full = true then none
       else becomes (u.setTable p (u.noticeTable p ++ [⟨r, true⟩])))
    else if full then
      becomes ({ u with coll := { u.coll with
        refused := u.coll.refused.put p (if count + 1 < 2 ^ 32 then count + 1 else 2 ^ 32 - 1) } }.sendPacket r.sender true
          (.noticeRefused r))
    else becomes (u.setTable p (u.noticeTable p ++ [⟨r, false⟩]))
  | .noticeRepost i x =>
    match entryAt u i x with
    | none => becomes u
    | some (r, e) =>
      match e.phase with
      | .backoff n t =>
        if u.time < t ∨ r.phase ≠ .armed then becomes u
        else if ePeer e.entry ≠ u.self ∧ (u.outside (ePeer e.entry) = true ∨ (u.route (ePeer e.entry)).isNone) then
          becomes (u.failRun i 8 (some x))
        else if ePeer e.entry = u.self then none
        else becomes ((inPhase u r e x (.posted n)).sendPacket (ePeer e.entry) false (.notice (noticeRecord u r e.entry)))
      | _ => becomes u
  | .pullNoticeMatch i x =>
    match entryAt u i x with
    | none => becomes u
    | some (r, e) =>
      if e.phase ≠ .matching then becomes u
      else match u.coll.tables.findSome? (fun (p, t) => (t.find? (fun n => !n.dup && n.r.board == r.board && n.r.runseq == r.seq &&
          n.r.sender == ePeer e.entry && n.r.key == eKey e.entry)).map (fun n => (p, n))) with
        | none => becomes u
        | some (p, n) =>
          let b := u.board r.board
          let v := (u.setTable p ((u.noticeTable p).filter (fun k => k != n))).setBoard r.board
            { b with consumed := b.consumed ++ [(n.r.runseq, n.r.sender, n.r.key)] }
          if n.r.len = eLen e.entry ∧ (inChunk (eDst e.entry) = false ∨ n.r.wfmt ≠ 0) then
            becomes (inPhase v r e x (.waiting (some n.r)))
          else if n.r.len = eLen e.entry then becomes (v.failRun i 3 (some x))
          else if n.r.sender = u.self then none
          else becomes ((v.sendPacket n.r.sender true (.noticeLength n.r)).failRun i 3 (some x))
  | .roomAcquire i x =>
    match entryAt u i x with
    | none => becomes u
    | some (r, e) =>
      match e.phase with
      | .waiting none => becomes (if r.phase = .armed ∧ u.roomFor i x e = true then u.localCopy i x else u)
      | .waiting (some n) =>
        let ask (again : Bool) (s : State) : State :=
          s.sendPacket n.sender false (.pull n.addrA (wireBytes n.len n.wfmt) again) again
        let checked := u.coll.checkEn && u.coll.reduces % 2 ^ u.coll.checkK == 0
        let v := { u with coll := { u.coll with reduces := u.coll.reduces + 1 } }
        if r.phase ≠ .armed ∨ u.roomFor i x e = false then becomes u
        else if u.reachable n.sender = false then becomes (u.failRun i 8 (some x))
        else if n.sender = u.self then
          becomes (if eKind e.entry = 2 then inPhase v r e x (.reading n checked false) else inPhase u r e x (.reading n false false))
        else if eKind e.entry = 2 then
          (if checked then becomes (ask true (ask false (inPhase v r e x (.reading n true false))))
           else becomes (ask false (inPhase v r e x (.reading n false false))))
        else becomes (ask false (inPhase u r e x (.reading n false false)))
      | _ => becomes u
  | .pullDataArrival i x data second =>
    match entryAt u i x with
    | none => becomes u
    | some (r, e) =>
      match e.phase with
      | .reading n checked again =>
        let k := wireBytes n.len n.wfmt
        let fit (d : List Byte) : List Byte := d.take k ++ List.replicate (k - d.length) 0
        let span := if inChunk n.addrA.toNat then (n.spanLo, n.spanHi) else match leafOf (u.board r.board).members n.sender with
          | some l => (l, l + 1)
          | none => (0, 0)
        if n.sender = u.self ∨ r.id ≠ i then none
        else if eKind e.entry = 2 then
          (if inChunk (eSrc e.entry) then
            becomes (u.reduceInto i x n checked again (fit data) (fit second)
              (u.read (chunkKey + eSrc e.entry % 2 ^ 26) (256 * eLen e.entry)))
           else none)
        else if inChunk (eDst e.entry) then
          becomes (inPhase (chunkLanded u (eDst e.entry) (eLen e.entry) n.wfmt span.1 span.2 (ofBytes (fit data))) r e x .moved)
        else match u.vaWrite (eDst e.entry % 2 ^ 48) (wireBytes (eLen e.entry) n.wfmt) (ofBytes (fit data)) with
          | (v, .ok ()) => becomes (inPhase v r e x .moved)
          | (_, .error _) => none
      | _ => becomes u
  | .noticeComplete i x =>
    match entryAt u i x with
    | none => becomes u
    | some (r, e) =>
      let read := match e.phase with
        | .moved => eKind e.entry == 0
        | .posted _ => ePeer e.entry != u.self
        | _ => false
      let v := inPhase u r e x .completed
      if read = false then becomes u
      else becomes ((if r.phase = .armed then v.addCounter (eDctr e.entry) (BitVec.ofNat 64 (eDinc e.entry)) else v).settleRun i)
  | .entryComplete i x =>
    match entryAt u i x with
    | none => becomes u
    | some (r, e) =>
      let v := inPhase u r e x .completed
      if e.phase ≠ .moved ∨ eKind e.entry = 0 then becomes u
      else becomes ((if r.phase = .armed then v.addCounter (eDctr e.entry) (BitVec.ofNat 64 (eDinc e.entry)) else v).settleRun i)
  | _ => none

/-! ## Skim engines (R347 to R352) -/

/-- Rounded f32 arithmetic on patterns, in RNE: pattern and flags (R349). -/
def mul32 (a b : Nat) : Nat × Nat := Num.fmul Num.f32 Num.rne (Num.f32.val a) (Num.f32.val b)
def add32 (a b : Nat) : Nat × Nat := Num.fadd Num.f32 Num.rne 0 (Num.f32.val a) (Num.f32.val b)
def div32 (a b : Nat) : Nat × Nat := Num.fdiv Num.f32 Num.rne (Num.f32.val a) (Num.f32.val b)
def sqrt32 (a : Nat) : Nat × Nat := Num.fsqrt Num.f32 Num.rne (Num.f32.val a)
def fma32 (a b c : Nat) : Nat × Nat := Num.ffma Num.f32 Num.rne (Num.f32.val a) (Num.f32.val b) (Num.f32.val c)

/-- +1, -1 or the value itself, by the sign of an f32 that is neither a zero nor a NaN (R349). -/
def sign32 (c : Nat) : Nat :=
  match Num.f32.val c with
  | .nan _ => c
  | .num n m _ => if m = 0 then c else if n then 0xBF800000 else 0x3F800000
  | .inf n => if n then 0xBF800000 else 0x3F800000

/-- The new master, first and second moment of an element, and the flags that its operations raise (R349): SGD with the
moment or with its look-ahead, AdamW, Lion. `rs` is the loss-scale reciprocal. -/
def elementUpdate (r : SkimRec) (rs : Option Nat) (grad w m v : Nat) : Nat × Nat × Nat × Nat :=
  let g := match rs with
    | some x => mul32 grad x
    | none => (grad, 0)
  let lr := skLr r ^^^ 2 ^ 31
  let c1 := oneMinus (skBeta1 r) 1
  let c2 := oneMinus (skBeta2 r) 1
  if skAlg r = 0 then
    let ga := fma32 (skWd r) w g.1
    let m' := fma32 (skBeta1 r) m ga.1
    let w' := fma32 lr m'.1 w
    (w'.1, m'.1, v, g.2 ||| ga.2 ||| m'.2 ||| w'.2)
  else if skAlg r = 1 then
    let ga := fma32 (skWd r) w g.1
    let m' := fma32 (skBeta1 r) m ga.1
    let d := fma32 (skBeta1 r) m'.1 ga.1
    let w' := fma32 lr d.1 w
    (w'.1, m'.1, v, g.2 ||| ga.2 ||| m'.2 ||| d.2 ||| w'.2)
  else if skAlg r = 2 then
    let p := mul32 c1 g.1
    let m' := fma32 (skBeta1 r) m p.1
    let q := mul32 g.1 g.1
    let q' := mul32 c2 q.1
    let v' := fma32 (skBeta2 r) v q'.1
    let x := div32 v'.1 (oneMinus (skBeta2 r) (skStep r))
    let y := sqrt32 x.1
    let den := add32 y.1 (skEps r)
    let n := div32 m'.1 (oneMinus (skBeta1 r) (skStep r))
    let k := div32 n.1 den.1
    let u := fma32 (skWd r) w k.1
    let w' := fma32 lr u.1 w
    (w'.1, m'.1, v'.1, g.2 ||| p.2 ||| m'.2 ||| q.2 ||| q'.2 ||| v'.2 ||| x.2 ||| y.2 ||| den.2 ||| n.2 ||| k.2 ||| u.2 ||| w'.2)
  else
    let p := mul32 c1 g.1
    let c := fma32 (skBeta1 r) m p.1
    let u := fma32 (skWd r) w (sign32 c.1)
    let w' := fma32 lr u.1 w
    let q := mul32 c2 g.1
    let m' := fma32 (skBeta2 r) m q.1
    (w'.1, m'.1, v, g.2 ||| p.2 ||| c.2 ||| u.2 ||| w'.2 ||| q.2 ||| m'.2)

/-- How element `i` of row `a` rounds to bf16 or to e4m3: mode RM, in SR by the key of R349. -/
def elementRound (r : SkimRec) (a i : Nat) : Num.Rnd :=
  ⟨skRm r, if skRm r = 5 then Num.rnd16 (Num.stipple (BitVec.ofNat 64 (skStep r)) 0 a (i % 2 ^ 20) (i / 2 ^ 20)) else 0, false⟩

/-- Out(x, type, a) of element `i` (R349). -/
def elementOut (r : SkimRec) (ty : BitVec 4) (a i x : Nat) : Nat × Nat :=
  if ty = 8 then (x, 0) else Num.convert ty 8 (elementRound r a i) x

/-- What the update of element `i` writes, as address, bytes and value, and the flags it raises. -/
def elementWrites (r : SkimRec) (rs : Option Nat) (i grad w m v : Nat) : List (Nat × Nat × Nat) × Nat :=
  let mw := if skMomtype r = 8 then 4 else 2
  let (w', m', v', f) := elementUpdate r rs grad w m v
  let mo := elementOut r (skMomtype r) 1 i m'
  let vo := elementOut r (skMomtype r) 2 i v'
  let wo := elementOut r 9 3 i w'
  ((if skAlg r = 2 then [(skMom2 r + mw * i, mw, vo.1)] else []) ++ [(skMaster r + 4 * i, 4, w'), (skMom1 r + mw * i, mw, mo.1)] ++
      (if skWkind r = 1 then [(skWork r + 2 * i, 2, wo.1)] else []),
    f ||| mo.2 ||| (if skAlg r = 2 then vo.2 else 0) ||| (if skWkind r = 1 then wo.2 else 0))

/-- The operands of an element, read one after another: gradient, master, first moment, and with AdamW the second. -/
def operandsRead (u : State) (j : SkimJob) (i : Nat) : State × Option (Nat × Nat × Nat × Nat) :=
  let r := j.record
  let mw := if skMomtype r = 8 then 4 else 2
  match u.skGradient j i with
  | (s, .error _) => (s, none)
  | (s, .ok g) =>
    match s.vaRead ((skMaster r + 4 * i) % 2 ^ 48) 4 with
    | (s, .error _) => (s, none)
    | (s, .ok w) =>
      match s.vaRead ((skMom1 r + mw * i) % 2 ^ 48) mw with
      | (s, .error _) => (s, none)
      | (s, .ok m) =>
        if skAlg r = 2 then
          (match s.vaRead ((skMom2 r + mw * i) % 2 ^ 48) mw with
            | (s, .error _) => (s, none)
            | (s, .ok v) => (s, some (g, w, widened (skMomtype r) m, widened (skMomtype r) v)))
        else (s, some (g, w, widened (skMomtype r) m, widened (skMomtype r) 0))

/-- Flags go into SKIM_FLAGS of the engine, and those of a delivered range into the CQ_STATUS of its run's queue too
(R313, R349). -/
def flagsRaised (u : State) (j : SkimJob) (e f : Nat) : State :=
  let v := { u with skim := { u.skim with flags := u.skim.flags.put e (u.skim.flags.look 0 e ||| f % 64) } }
  match j.range with
  | none => v
  | some x => match u.run x.1 with
    | none => v
    | some r => v.cqFlags r.queue f

/-- An element whose operands can be read and whose places translate is updated: the new values of R349 stand in its
places, and the flags are raised. -/
def ElementsUpdate : Prop :=
  ∀ (u v w : State) (j : SkimJob) (e i : Nat) (rs : Option Nat) (g x m n : Nat), skAlg j.record < 4 →
    operandsRead u j i = (v, some (g, x, m, n)) →
    v.skWrites (elementWrites j.record rs i g x m n).1 = (w, .ok ()) →
    u.skElement j e i rs = (flagsRaised w j e (elementWrites j.record rs i g x m n).2, .ok ())

/-- The engine finds the first element of a job that it has not begun to be its own, and may work. -/
def Begins (u : State) (j : SkimJob) (e i n : Nat) : Prop :=
  e < 32 ∧ u.sec.halted = false ∧ u.nextJob e u.skim.jobs = some j ∧ j.engines.find e = none ∧ j.span = (i, n + 1) ∧
  u.ownerOf (skMaster j.record % 2 ^ 48 + 4 * i) = some e ∧ (u.pset e).mode ≠ .fenced ∧
  u.skim.jobs.Pairwise (fun a b => a.id ≠ b.id)

/-- The job after an engine has found who owns the page of an element. -/
def ownerKnown (u : State) (j : SkimJob) (i e : Nat) : State :=
  { u with skim := { u.skim with jobs := u.skim.jobs.map (fun k =>
    if k.id = j.id then { k with owners := k.owners.put ((skMaster j.record % 2 ^ 48 + 4 * i) / 65536) e } else k) } }

/-- A guard that is not zero: the engine reads and writes nothing else of the job and counts the skip (R348). -/
def GuardsSkip : Prop :=
  ∀ (u v : State) (j : SkimJob) (e i n g : Nat), Begins u j e i n → skGuard j.record ≠ 0 →
    (ownerKnown u j i e).vaRead (skGuard j.record % 2 ^ 48) 4 = (v, .ok g) → g ≠ 0 →
    v.skim.jobs.find? (fun k => k.id == j.id) ≠ none →
    ∃ t, exec .skimEngineStart { u with agenda := .skimEngineStart e :: u.agenda } = .next t ∧
      { t with skim := v.skim } = v ∧ t.skim.flags = v.skim.flags ∧ t.skim.next = v.skim.next ∧
      t.skim.skips.look 0 e = min (2 ^ 32 - 1) (v.skim.skips.look 0 e + 1) ∧
      (∀ d, d ≠ e → t.skim.skips.look 0 d = v.skim.skips.look 0 d) ∧
      ∀ k ∈ t.skim.jobs, k.id = j.id → k.engines.find e = some .skipped

/-- One element that is all of a job, its guard none or zero: the engine reads the loss-scale reciprocal, unless it is none,
updates the element and has done its part (R348, R349). -/
def SingleElementIsUpdated : Prop :=
  ∀ (u a b v w : State) (j : SkimJob) (e i : Nat) (rs : Option Nat) (g x m n : Nat), Begins u j e i 0 → skAlg j.record < 4 →
    (if skGuard j.record = 0 then a = ownerKnown u j i e
     else (ownerKnown u j i e).vaRead (skGuard j.record % 2 ^ 48) 4 = (a, .ok 0)) →
    (if skRscale j.record = 0 then b = a ∧ rs = none
     else ∃ y, y < 2 ^ 32 ∧ rs = some y ∧ a.vaRead (skRscale j.record % 2 ^ 48) 4 = (b, .ok y)) →
    operandsRead b j i = (v, some (g, x, m, n)) →
    v.skWrites (elementWrites j.record rs i g x m n).1 = (w, .ok ()) →
    exec .skimEngineStart { u with agenda := .skimEngineStart e :: u.agenda } = .next
      ((flagsRaised w j e (elementWrites j.record rs i g x m n).2).endWork j.id e .updated)

/-- A block of the working copy: the code of its 256 new master values, each element quantised by it in mode RM with the key
of row 3, the code written where there is a place for it, and the flags of the quantising raised (R228, R350). -/
def BlocksQuantise : Prop :=
  ∀ (u v w : State) (j : SkimJob) (e b : Nat) (xs : List Nat), u.blockMasters j.record b (List.range 16) = (v, .ok xs) →
    let cols := skCols j.record
    let place (y x : Nat) : Nat := (16 * (b / (cols / 16)) + y) * cols + 16 * (b % (cols / 16)) + x
    let code := scaleCode (targetEmax 0) (blockAmax Num.f32 xs)
    let q (y x : Nat) : Nat × Nat := quantise 11 8 (elementRound j.record 3 (place y x)) code (xs.getD (16 * y + x) 0)
    let rows := (List.range 16).map (fun y => (skWork j.record + place y 0, 16,
      joinBits 8 ((List.range 16).map (fun x => (q y x).1))))
    xs.length = 256 → 16 ≤ cols →
    v.skWrites (rows ++ if skWscale j.record = 0 then [] else [(skWscale j.record + b, 1, code)]) = (w, .ok ()) →
    u.quantBlock j e b = (flagsRaised w j e (orAll ((List.range 256).map (fun k => (q (k / 16) (k % 16)).2))), .ok ())

/-- The first job of a fenced engine that it has begun and not finished: it waits in it, or has blocks left. -/
def begunUnfinished (u : State) (e : Nat) : Option SkimJob :=
  u.skim.jobs.find? (fun j => match j.engines.find e with
    | some .updated => j.allBlocks.any (fun b => !j.blocks.contains b && j.blockOwner b == some e)
    | some .skipped | none => false
    | some _ => true)

/-- Every element of a block has an owner, and its owner has finished or skipped it: an engine takes its elements in ascending
order (R347, R350). -/
def blockFinished (j : SkimJob) (b : Nat) : Bool :=
  let cols := skCols j.record
  (List.range 16).all (fun y => (List.range 16).all (fun x =>
    let i := (16 * (b / (cols / 16)) + y) * cols + 16 * (b % (cols / 16)) + x
    match j.owners.find ((skMaster j.record % 2 ^ 48 + 4 * i) / 65536) with
    | none => false
    | some e => match j.engines.find e with
      | some .updated | some .skipped => true
      | some (.parked k _ _) | some (.held k _) => decide (i < k)
      | none => false))

/-- The skim engines. -/
def skimTable (m : Move) (u : State) : Option (State → Prop) :=
  match m with
  | .skimEngineStart e =>
    let begun := if (u.pset e).mode = .fenced then begunUnfinished u e else none
    if 32 ≤ e then becomes u
    else match begun with
    | some j => becomes (u.failSkim j.id 7 e)
    | none => match u.nextJob e u.skim.jobs with
      | none => becomes u
      | some j =>
        let (i, g) := match j.engines.find e with
          | some (.held i g) => (i, g)
          | _ => (j.span.1, none)
        let w := skimWork j e (j.span.1 + j.span.2 - i) i g u
        becomes (w.1.endWork j.id e w.2)
  | .skimBlockQuantise id b =>
    match u.skim.jobs.find? (fun j => j.id == id) with
    | none => becomes u
    | some j =>
      let put (s : State) : State := { s with skim := { s.skim with jobs := s.skim.jobs.map (fun q =>
        if q.id = j.id then { j with blocks := j.blocks ++ [b] } else q) } }
      let owner := (j.blockOwner b).getD 0
      if blockFinished j b = false ∨ b ∉ j.allBlocks ∨ b ∈ j.blocks ∨ j.stuck.find b ≠ none then becomes u
      else if j.engines.find owner = some .skipped then becomes (put u)
      else if (u.pset owner).mode = .fenced then becomes (u.failSkim id 7 owner)
      else match u.translate (skMaster j.record % 2 ^ 48 + 4 * blockFirst (skCols j.record) b) false with
        | (_, .error _) => none
        | (v, .ok pa) =>
          if (v.pset (v.setOf pa)).mode = .fenced then becomes (v.failSkim id 7 (v.setOf pa))
          else match v.quantBlock j (v.setOf pa) b with
            | (_, .error _) => none
            | (w, .ok ()) => becomes (put w)
  | .skimRecordComplete id =>
    match u.skim.jobs.find? (fun j => j.id == id) with
    | none => becomes u
    | some j =>
      let skim := { u.skim with jobs := u.skim.jobs.filter (fun k => k.id != id) }
      let xl := { u.xl with parked := u.xl.parked.filter (fun p => !(p.2.kind == .skim && p.2.ident == id)) }
      let v := { u with skim := skim, xl := xl }
      if j.enginesDone = false ∨ j.allBlocks.any (fun b => !j.blocks.contains b) = true then becomes u
      else match j.range with
        | some (i, x, _) => becomes (v.setPhase i x .moved)
        | none =>
          if skDoneEn j.record then
            some (Counted v (skDoneCtr j.record) (v.counter (skDoneCtr j.record) + BitVec.ofNat 64 (skDoneInc j.record)))
          else becomes v
  | _ => none

/-- A job none of whose elements the engine owns, by tables that translate them with nothing stale: nothing is read, written
or counted, and the engine's part is done (R347). -/
def OthersElementsAreLeft : Prop :=
  ∀ (u : State) (j : SkimJob) (e i n : Nat), e < 32 → u.sec.halted = false → (u.pset e).mode ≠ .fenced →
    u.nextJob e u.skim.jobs = some j → j.engines.find e = none → j.span = (i, n) →
    u.skim.jobs.Pairwise (fun a b => a.id ≠ b.id) →
    (∀ k, k < n → ∃ d, d ≠ e ∧ u.ownerOf (skMaster j.record % 2 ^ 48 + 4 * (i + k)) = some d) →
    ∃ t, exec .skimEngineStart { u with agenda := .skimEngineStart e :: u.agenda } = .next t ∧
      { t with skim := u.skim } = u ∧ t.skim.skips = u.skim.skips ∧ t.skim.flags = u.skim.flags ∧
      ∃ k ∈ t.skim.jobs, k = { j with engines := j.engines.put e .updated, owners := k.owners }

/-! ## Whole-machine rules -/

/-- The moves that a halted package still answers (R372): the boot and security block, the sideband, a reset. -/
def answeredWhenHalted (m : Move) : Bool :=
  match m with
  | .resetRelease _ | .powerCycle | .mboxAttest | .mboxImageChunk | .mboxImageEnd _ _ | .mboxImageReset
  | .mboxUnknownCommand | .secPolicyWrite _ | .sensorAlarm _ | .registerWrite .. | .i3cTelemetryRead _ | .i3cCapWrite ..
  | .i3cStatusRead _ | .i3cFenceMapRead _ | .i3cUnknownCommand .. | .entdaa _ => true
  | _ => false

/-- The indices that a launch has still to hand out: its restart set and what its walkers hold (R250, R251). -/
def remaining (l : Launch) : List Nat :=
  l.restart.map Prod.fst ++ l.walkers.flatMap (fun w => List.range' w.next (w.stop - w.next))

/-! ## Runs that fail (R313) -/

/-- Whether an entry stands when its run fails: what has begun its transfer, a notice that is posted, what is over. -/
def standsAtFailure (e : EntryState) : Bool :=
  match e.phase with
  | .completed | .posted _ | .parked _ => true
  | .reading .. | .landing .. | .delivering _ | .moved => eKind e.entry != 0
  | _ => false

/-- Whether an entry's transfer is under way. -/
def underTransfer (e : EntryState) : Bool :=
  match e.phase with
  | .parked _ | .reading .. | .landing .. | .delivering _ | .moved => eKind e.entry != 0
  | _ => false

/-- The entries of a run that entry `x` has failed. -/
def entriesAtFailure (r : Run) (x : Nat) : List EntryState :=
  r.entries.zipIdx.map (fun (e, k) => if k = x ∨ standsAtFailure e = false then { e with phase := .abandoned } else e)

/-- Bits [lo + n - 1 : lo] of a register. -/
def bitsOf (w : W64) (lo n : Nat) : Nat := w.toNat / 2 ^ lo % 2 ^ n

/-- A failing entry fails its run: its class and number stand in CQ_STATUS; what has begun its transfer goes on, what waits is
abandoned; once nothing of it is under way the run is over, FAILED is set and the queue disabled. -/
def RunsFail : Prop :=
  ∀ (u : State) (i x cls : Nat) (r : Run), u.run i = some r → r.id = i → r.phase = .armed → cls < 256 → x < 4096 →
    let t := u.failRun i cls (some x)
    let st := t.coll.status.look 0 r.queue
    bitsOf st 40 8 = cls ∧ bitsOf st 28 12 = x ∧ (∀ q, q ≠ r.queue → t.coll.status.look 0 q = u.coll.status.look 0 q) ∧
    t.counters = u.counters ∧ (∀ n, t.core n = u.core n) ∧
    if (entriesAtFailure r x).any underTransfer then
      t.run i = some { r with phase := .failed cls x, entries := entriesAtFailure r x } ∧ (∀ j, j ≠ i → t.run j = u.run j) ∧
      { t with coll := u.coll } = u ∧ { t.coll with runs := u.coll.runs, status := u.coll.status } = u.coll
    else
      bitsOf st 17 1 = 1 ∧ (t.queue r.queue).disabled = true ∧ (∀ k ∈ (t.queue r.queue).items, k.id ≠ i) ∧
      ∀ q, t.run i = some q → q.phase = .completed

/-! ## Local copies (R309, R310) -/

/-- Element `k` of a chunk as bf16 or f16, rounded in the entry's mode, in SR by the key of R310. -/
def copyElement (e : EntryState) (seq x f k : Nat) (y : Nat) : Nat × Nat :=
  let m := if eRm e.entry = 7 then 0 else eRm e.entry
  Num.convert (BitVec.ofNat 4 f) 8
    ⟨m, if m = 5 then Num.rnd16 (Num.stipple 0 (BitVec.ofNat 64 seq) 0 k x) else 0, eSat e.entry⟩ y

/-- What a local copy does, by where it reads and where it writes, when its addresses translate. -/
def LocalCopiesMove : Prop :=
  ∀ (u : State) (i x : Nat) (r : Run) (e : EntryState), u.entryOf i x = some (r, e) →
    let n := eLen e.entry
    let src := eSrc e.entry
    let dst := eDst e.entry
    let from_ := chunkKey + src % 2 ^ 26
    let moved (s : State) (fl : Nat) : State := (s.cqFlags r.queue fl).setPhase i x .moved
    (inChunk src = false → inChunk dst = false → ∀ v w d,
      u.vaRead (src % 2 ^ 48) (256 * n) = (v, .ok d) → v.vaWrite (dst % 2 ^ 48) (256 * n) d = (w, .ok ()) →
      u.localCopy i x = moved w 0) ∧
    (inChunk src = false → inChunk dst = true → ∀ v d, u.vaRead (src % 2 ^ 48) (wireBytes n (eWfmt e.entry)) = (v, .ok d) →
      let span := match leafOf (v.board r.board).members v.coll.pkgid.toNat with
        | some l => (l, l + 1)
        | none => (0, 0)
      u.localCopy i x = (chunkLanded v dst n (eWfmt e.entry) span.1 span.2 d).setPhase i x .moved) ∧
    (inChunk src = true → inChunk dst = true →
      u.localCopy i x = ((u.write (chunkKey + dst % 2 ^ 26) (256 * n) (u.read from_ (256 * n))).putRegion (dst % 2 ^ 26) (256 * n)
        (u.spanAt (src % 2 ^ 26) (256 * n)).1 (u.spanAt (src % 2 ^ 26) (256 * n)).2).setPhase i x .moved) ∧
    (inChunk src = true → inChunk dst = false →
      let f := eDfmt e.entry
      let span := u.spanAt (src % 2 ^ 26) (256 * n)
      let whole := span.1 = 0 ∧ span.2 ≠ 0 ∧ span.2 = (u.board r.board).members.length
      let element (k : Nat) : Nat := u.read from_ (256 * n) / 2 ^ (32 * k) % 2 ^ 32
      (f ≠ 8 → ¬whole → u.localCopy i x = u.failRun i 4 (some x)) ∧
      (f = 8 → ∀ w, u.vaWrite (dst % 2 ^ 48) (256 * n) (joinBits 32 ((List.range (64 * n)).map element)) = (w, .ok ()) →
        u.localCopy i x = moved w 0) ∧
      (f = 9 ∨ f = 10 → whole → ∀ w,
        let y (k : Nat) : Nat × Nat := copyElement e r.seq x f k (element k)
        u.vaWrite (dst % 2 ^ 48) (128 * n) (joinBits 16 ((List.range (64 * n)).map (fun k => (y k).1))) = (w, .ok ()) →
        u.localCopy i x = moved w (orAll ((List.range (64 * n)).map (fun k => (y k).2)))))

/-! ## Deliveries (R311, R351) -/

/-- A delivery joins the skim dispatcher's order as a record of its own, for the elements that its region gives; a region
that is not the whole tree fails with TREE, a record that does not fit with SKIMREC. -/
def DeliveriesJoin : Prop :=
  ∀ (u : State) (i x : Nat) (r : Run) (e : EntryState), u.entryOf i x = some (r, e) →
    let n := eLen e.entry
    let off := eSrc e.entry % 2 ^ 26
    let span := u.spanAt off (256 * n)
    let whole := span.1 = 0 ∧ span.2 ≠ 0 ∧ span.2 = (u.board r.board).members.length
    (¬whole → u.deliver i x = u.failRun i 4 (some x)) ∧
    (whole → ∀ v d, u.vaRead (eDst e.entry % 2 ^ 48) 128 = (v, .ok d) →
      let k := BitVec.ofNat 1024 d
      let first := 64 * n * eCidx e.entry
      let fits := skimMalformed k = false ∧ skStream k = true ∧ first + 64 * n ≤ skCount k ∧
        (skWkind k = 2 → first % (16 * skCols k) = 0 ∧ 64 * n % (16 * skCols k) = 0)
      (¬fits → u.deliver i x = v.failRun i 0xA (some x)) ∧
      (fits → ∃ j, (u.deliver i x).skim.jobs = v.skim.jobs ++ [j] ∧ j.id = v.skim.next ∧ j.record = k ∧
        j.range = some (i, x, first, 64 * n, off) ∧ j.engines = [] ∧ j.blocks = [] ∧ j.waits = [] ∧
        (u.deliver i x).skim.next = v.skim.next + 1 ∧ { (u.deliver i x) with skim := v.skim } = v.setPhase i x (.delivering v.skim.next)))

/-! ## Reductions (R307, R308, R312) -/

/-- One element of a reduction: the sum rounded once, or the greater or the lesser, the lower span's element first. -/
def combined (op l r : Nat) : Nat × Nat :=
  if op = 0 then Num.fadd Num.f32 Num.rne 0 (Num.f32.val l) (Num.f32.val r) else Num.fminmax Num.f32 (op == 1) l r

/-- A reduce-into that is not checked, its local operand in the chunk buffers: without a working ALU it fails with CHECK;
spans that are not the two subtrees of one node fail with TREE; otherwise the destination region holds the combination,
whichever side is the lower, and the union span. -/
def ReductionsCombine : Prop :=
  ∀ (u : State) (i x : Nat) (r : Run) (e : EntryState) (n : NoticeRec) (data : List Byte), u.entryOf i x = some (r, e) →
    inChunk (eSrc e.entry) = true → n.len = eLen e.entry →
    let len := eLen e.entry
    let off := eDst e.entry % 2 ^ 26
    let mine := u.spanAt (eSrc e.entry % 2 ^ 26) (256 * len)
    let theirs := u.recordSpan n
    let ms := (u.board r.board).members
    let lower := decide (mine.1 < theirs.1)
    let node := if lower then (mine.1, mine.2, theirs.2) else (theirs.1, theirs.2, mine.2)
    let joins := ms ≠ [] ∧ (leafOf ms u.coll.pkgid.toNat).isSome = true ∧ node ∈ treeNodes ms ∧
      (if lower then mine.2 = theirs.1 else theirs.2 = mine.1)
    let works := ∃ a, a < 8 ∧ u.err.alus.getLsbD a = false
    let own (k : Nat) : Nat := u.read (chunkKey + eSrc e.entry % 2 ^ 26) (256 * len) / 2 ^ (32 * k) % 2 ^ 32
    let far := dequantised len n.wfmt (ofBytes data)
    let y (k : Nat) : Nat × Nat := if lower then combined (eOp e.entry) (own k) (far.getD k 0)
      else combined (eOp e.entry) (far.getD k 0) (own k)
    let t := u.reduceInto i x n false false data [] (u.read (chunkKey + eSrc e.entry % 2 ^ 26) (256 * len))
    (¬works → t = u.failRun i 6 (some x)) ∧ (works → ¬joins → t = u.failRun i 4 (some x)) ∧
    (works → joins → t = (((({ u with free := u.free + 1 }).write (chunkKey + off) (256 * len)
        (joinBits 32 ((List.range (64 * len)).map (fun k => (y k).1)))).putRegion off (256 * len) node.1 node.2.2).cqFlags r.queue
        (orAll ((List.range (64 * len)).map (fun k => (y k).2)))).setPhase i x .moved)

/-! ## Packets (R315, R316) -/

/-- The port of the first dimension, x before y before z, in which a package differs from this one: the shorter direction,
+ at half the ring, the other direction where that port is fenced; none where both are. -/
def portTowards (u : State) (p : Nat) : Option Nat :=
  let own (k : Nat) : Nat := u.coll.pkgid.toNat / 16 ^ k % 16
  let goal (k : Nat) : Nat := p / 16 ^ k % 16
  let extent (k : Nat) : Nat := u.coll.dims.toNat / 16 ^ k % 16 + 1
  match (List.range 3).find? (fun k => own k != goal k) with
  | none => none
  | some k =>
    let plus := (goal k + extent k - own k) % extent k
    let port := 2 * k + (if 2 * plus ≤ extent k then 0 else 1)
    let other := 2 * k + (if 2 * plus ≤ extent k then 1 else 0)
    if u.err.ports.getLsbD port = false then some port
    else if u.err.ports.getLsbD other = false then some other
    else none

/-- Whether the hop by a port of dimension `k` goes over its wrap link. -/
def wrapLink (u : State) (port : Nat) : Prop :=
  let own := u.coll.pkgid.toNat / 16 ^ (port / 2) % 16
  if port % 2 = 0 then own = u.coll.dims.toNat / 16 ^ (port / 2) % 16 else own = 0

/-- A packet for another package of the torus leaves by that port under the port's next sequence number, in the virtual
channel of its kind, and stays in the replay buffer; at a port that is down, whose buffer is full or where packets wait it
waits behind them (assumption 12). A packet that cannot leave is lost. -/
def PacketsLeave : Prop :=
  ∀ (u : State) (p : Nat) (response : Bool) (m : FabricMsg), p < 4096 → u.outside p = false → u.outside u.coll.pkgid.toNat = false →
    p ≠ u.coll.pkgid.toNat → u.coll.pkgid.toNat < 4096 →
    (portTowards u p = none → u.sendPacket p response m = u) ∧
    ∀ port, portTowards u p = some port →
      let l := u.link port
      let base := if response then 2 else 0
      ∃ c, (wrapLink u port → c = base + 1) ∧ (¬wrapLink u port → c = base) ∧
        let k : Packet := ⟨c, u.coll.pkgid.toNat, p, m⟩
        let t := u.sendPacket p response m
        (l.down = false ∧ l.buffer.length < 1024 ∧ l.waiting = [] →
          t = { u.setLink port { l with buffer := l.buffer ++ [(l.next, k)], next := (l.next + 1) % 4096 } with
            out := u.out ++ [.packet port l.next k] }) ∧
        (¬(l.down = false ∧ l.buffer.length < 1024 ∧ l.waiting = []) → t = u.setLink port { l with waiting := l.waiting ++ [k] })

/-! ## Resumption of a launch (R260) -/

/-- The launch that a resumption makes of the saved one, read back from the save area: on the lowest free clusters, with the
counts, the ranges and the restart set that were saved; a walker that was owned belongs to the cluster at its place. -/
def ResumedAs (l new : Launch) (held : List Nat) (rd : Nat → Nat → Nat) : Prop :=
  new.id = l.id ∧ new.slate = l.slate ∧ new.launchid = l.launchid ∧ new.queue = l.queue ∧ new.phase = .running ∧ new.held = held ∧
  new.triggered = rd 0x110 8 % 2 ^ 48 ∧ new.early = (rd 0x110 8 / 2 ^ 48 % 2 == 1) ∧ new.retired = rd 0x118 8 ∧ new.saved = [] ∧
  new.walkers.length = l.walkers.length ∧
  (∀ k w, new.walkers[k]? = some w → w.next = rd (0x200 + 16 * k) 8 % 2 ^ 48 ∧ w.stop = rd (0x208 + 16 * k) 8 % 2 ^ 48 ∧
    let owner := rd (0x208 + 16 * k) 8 / 2 ^ 56 % 2 ^ 7
    w.owned = (owner != 0x7F) ∧ (owner < held.length → w.cluster = held.getD owner 0)) ∧
  ∀ p ∈ l.saved, (16 * held.getD (p.pos / 16) 0 + p.pos % 16) ∈ new.started

/-- A pre-empted launch that the scheduler chooses resumes, where its save area translates and no core of its new clusters is
fenced: the launch is as `ResumedAs` says; every saved position's core runs on in program mode for it with the claim that was
saved, and one that had ended has ended; the cores outside its new clusters are as they were. -/
def LaunchesResume : Prop :=
  ∀ (u v : State) (l : Launch) (ps : List (Nat × Nat × Nat)), u.sec.halted = false → u.chosen = some l → l.phase = .preempted →
    let held := (u.takable l).take l.savedHeld.length
    u.pieces l.savedAt (saveCores + (l.saved.map SavedPos.size).foldl (· + ·) 0) false = (v, .ok ps) →
    held.length = l.savedHeld.length → (∀ p ∈ l.saved, p.pos < 16 * held.length) → (l.saved.map (·.pos)).Nodup → held.Nodup →
    (∀ k ∈ held, ∀ j, j < 16 → v.coreFenced (16 * k + j) = false) →
    let rd (o n : Nat) : Nat := v.readPieces (subPieces ps o n)
    ∃ (w : State) (new : Launch), exec .launchResume { u with agenda := .launchResume l.id :: u.agenda } = .next w.consider ∧
      w.launch l.id = some new ∧ ResumedAs l new held rd ∧
      (∀ p ∈ l.saved, let n := 16 * held.getD (p.pos / 16) 0 + p.pos % 16
        (w.core n).launch = some l.id ∧ (w.core n).sysBank = none ∧
        (p.ended = true → (w.core n).mode = .exited) ∧ (p.ended = false → (w.core n).mode = .program)) ∧
      ∀ n, n / 16 ∉ held → w.core n = v.core n

/-! ## What keeps a bundle from issuing (R48, R49, R84, R85, R102, R104 to R106, R164, R165, R189) -/

/-- The trap `t` is what the issue of `i` comes to: taken at the state in which its bundle is under way, at its pc and
repetition. -/
def TrapsAs (i : Instr) (s : State) (t : Trap) : Prop :=
  exec i s = .next ((begun i s).trap s.turn t (s.ctx s.turn).pc (s.ctx s.turn).rep)

/-- An access to memory before its checks: what it reads and writes of the core, its address, its bytes, its alignment, and
the spaces that its instruction may use (R84). -/
structure AccessForm where
  srcs   : List SrcRef
  dsts   : List DstRef := []
  pushes : List Nat := []
  addr   : W64
  bytes  : Nat
  align  : Nat
  spaces : List Nat := [0, 1, 2, 3, 5]

/-- The accesses of one address (R82, R83, R85, R90, R91, R93, R94, R100, R163). -/
def accessForm (v : Env) (i : Instr) : Option AccessForm :=
  let n (size : BitVec 2) : Nat := 2 ^ size.toNat
  let at_ (b : Src) (off : BitVec 16) : W64 := v.src b + off.signExtend 64
  let record (b : Src) (off : BitVec 16) (dsts : List DstRef) (k : Nat) : Option AccessForm :=
    some { srcs := [srcRef b], dsts := dsts, addr := at_ b off, bytes := k, align := k, spaces := [0] }
  match i with
  | .ld _ o => some { srcs := [srcRef o.base], dsts := [.reg o.reg.toNat], addr := v.src o.base + o.off.signExtend 64,
                      bytes := n o.size, align := n o.size }
  | .ldPostinc _ o => some { srcs := [srcRef o.base], dsts := [.reg o.reg.toNat], addr := v.src o.base, bytes := n o.size,
                             align := n o.size }
  | .ldIndexed _ o => some { srcs := [srcRef o.base, srcRef o.index], dsts := [.reg o.reg.toNat],
                             addr := v.src o.base + v.src o.index <<< o.size.toNat, bytes := n o.size, align := n o.size }
  | .st _ o => some { srcs := [srcRef ⟨o.reg, o.bit36⟩, srcRef o.base], addr := v.src o.base + o.off.signExtend 64,
                      bytes := n o.size, align := n o.size }
  | .stPostinc _ o => some { srcs := [srcRef ⟨o.reg, o.bit36⟩, srcRef o.base], addr := v.src o.base, bytes := n o.size,
                             align := n o.size }
  | .stIndexed _ o => some { srcs := [srcRef ⟨o.reg, o.bit36⟩, srcRef o.base, srcRef o.index],
                             addr := v.src o.base + v.src o.index <<< o.size.toNat, bytes := n o.size, align := n o.size }
  | .ldl _ o => some { srcs := [srcRef o.base], dsts := [.line o.line 1 o.ad], pushes := pushesOf o.line,
                       addr := v.src o.base + o.off.signExtend 64, bytes := 512, align := 64 }
  | .ldlPostinc _ o => some { srcs := [srcRef o.base], dsts := [.line o.line 1 o.ad], pushes := pushesOf o.line,
                              addr := v.src o.base, bytes := 512, align := 64 }
  | .stl _ o => some { srcs := [.line o.line 1 64 o.ad false, srcRef o.base], addr := v.src o.base + o.off.signExtend 64,
                       bytes := 512, align := 64 }
  | .stlPostinc _ o => some { srcs := [.line o.line 1 64 o.ad false, srcRef o.base], addr := v.src o.base, bytes := 512, align := 64 }
  | .amo _ o => some { srcs := [srcRef o.addr, srcRef o.val], dsts := [.reg o.dest.toNat], addr := v.src o.addr,
                       bytes := n o.size, align := n o.size }
  | .cas _ o => some { srcs := [srcRef o.addr, srcRef o.exp, srcRef o.new], dsts := [.reg o.dest.toNat], addr := v.src o.addr,
                       bytes := n o.size, align := n o.size }
  | .amol _ o => some { srcs := [lineRef o.src (tyWidth o.ty), srcRef o.base], addr := v.src o.base + o.off.signExtend 64,
                        bytes := 512, align := 64 }
  | .pcfg _ o => record o.base o.off [] 64
  | .copy _ o => record o.base o.off [] 64
  | .copynb _ o | .submit _ o => record o.base o.off [.reg o.dest.toNat] 64
  | .skim _ o => record o.base o.off [.reg o.dest.toNat] 128
  | .lsave _ o | .lload _ o => some { srcs := [srcRef o.base], addr := at_ o.base o.off, bytes := 160, align := 8, spaces := [0] }
  | .svsave _ o | .svload _ o => some { srcs := [srcRef o.base], addr := v.src o.base, bytes := partSize o.part.toNat, align := 512,
                                        spaces := [0, 1, 2, 3] }
  | _ => none

/-- Whether an access fails the check of a number of R85: 1 its space is refused, 2 bits that must be zero are not or it leaves
the space, 3 it is misaligned, 4 its bytes are lent, or the handle is not held. -/
def failsCheck (c : Core) (f : AccessForm) (num : Nat) : Bool :=
  let space := f.addr.toNat / 2 ^ 56
  let off := f.addr.toNat % 2 ^ 56
  let past := off % 2 ^ 48 + f.bytes
  let held := if c.inSup then none else c.held.find (off / 2 ^ 48 % 16)
  match num, space with
  | 1, _ => !f.spaces.contains space
  | 2, 0 => decide (2 ^ 21 < off + f.bytes)
  | 2, 1 => decide (2 ^ 24 < off + f.bytes)
  | 2, 2 => decide (2 ^ 27 < off + f.bytes)
  | 2, 3 => decide (2 ^ 50 ≤ off) || decide (2 ^ 27 < past)
  | 2, 5 => decide (2 ^ 52 ≤ off) || held.any (fun d => !d.reserved && decide (4096 * d.size < past))
  | 3, _ => f.addr.toNat % f.align != 0
  | 4, 0 => c.lent.any (fun r => decide (r.base < off + f.bytes) && decide (off < r.base + 4096 * r.size))
  | 4, 5 => !held.any (fun d => !d.reserved)
  | _, _ => false

/-- The lowest of the checks that an access fails. -/
def accessFault (c : Core) (f : AccessForm) : Option Nat := [1, 2, 3, 4].find? (failsCheck c f)

/-- No access is outstanding that one of local memory would follow, and an engine command has its room. -/
def Unwaited (v : Env) (i : Instr) : Prop :=
  (∀ r w, (v.c.waitIds r w).isEmpty = true) ∧
  match i with
  | .copy .. => v.x.copynbOut = false ∧ v.s.copyRoom v.core v.c.inSup = true
  | .submit .. => v.c.submitsOut < 8
  | .skim .. => v.s.skimHeld < 256
  | .svsave _ o => v.c.inSup = true ∧ (o.part = 0 → (v.s.copiesOf v.core false).all Copy.rests = true)
  | .svload .. => v.c.inSup = true
  | _ => True

/-- An access that fails a check raises the address-space fault with the lowest number and the address (R84, R85): NUM 1 to 4. -/
def AccessesFault : Prop :=
  ∀ (i : Instr) (h : Hdr) (s : State) (f : AccessForm) (k : Nat), CanIssue i h s →
    ((s.core s.turn).inSup = true → programOnlyForm (seen i h s) i = none) → accessForm (seen i h s) i = some f →
    SrcsReady (seen i h s).c [] f.srcs → DstsReady (seen i h s).c f.dsts f.pushes → Unwaited (seen i h s) i →
    accessFault (seen i h s).c f = some k → TrapsAs i s ⟨17, k, true, f.addr⟩

/-- The address of lane `j` of a gather or scatter, and the number of the check that it fails: one whose offset carries out of
the low 56 bits leaves the space (R85, R92). -/
def laneFault (o : Gather) (v : Env) (idx : Line) (j : Nat) : W64 × Option Nat :=
  let off := lineElem 32 idx j <<< (if o.sc then o.size.toNat else 0)
  let n := 2 ^ o.size.toNat
  let f : AccessForm := { srcs := [], addr := v.src o.base + BitVec.ofNat 64 off, bytes := n, align := n }
  (f.addr, if (v.src o.base).toNat % 2 ^ 56 + off < 2 ^ 56 then accessFault v.c f
    else if f.spaces.contains ((v.src o.base).toNat / 2 ^ 56) then some 2 else some 1)

/-- A gather or scatter faults for the lowest active lane that fails a check (R85, R92). -/
def GathersFault : Prop :=
  ∀ (h : Hdr) (s : State) (o : Gather) (store : Bool) (j k : Nat),
    let i := if store then Instr.stx h o else Instr.ldx h o
    let v := seen i h s
    let srcs := (if store then [lineRef o.line 32] else []) ++ [lineRef o.index 32, srcRef o.base]
    let fault := laneFault o v (if store then v.line2 o.line o.index 32 else v.line o.index 32 0)
    CanIssue i h s → (s.core s.turn).inSup = false → SrcsReady v.c [] srcs →
    (store = false → DstsReady v.c [.line o.line 1 false] (pushesOf o.line)) → Unwaited v i →
    j < 128 → laneActive o v j = true → (fault j).2 = some k → (∀ l, l < j → laneActive o v l = true → (fault l).2 = none) →
    TrapsAs i s ⟨17, k, true, (fault j).1⟩

/-- The number of the check that a group load fails at its requester (R84, R85, R95). -/
def groupFault (v : Env) (a n align : Nat) : Option Nat :=
  if a / 2 ^ 56 ≠ 4 then some 1
  else if a / 2 ^ 21 % 2 ^ 27 ≠ 0 then some 2
  else if a % align ≠ 0 then some 3
  else match v.s.groupOf (a / 2 ^ 48 % 2 ^ 8) v.core with
    | some g => if recField g.entry 136 0 22 < a % 2 ^ 21 + n then some 5 else none
    | none => some 5

/-- A group load faults with the address, a barrier operation with the number of a group that is not installed with the core as
a member (R85, R95, R175). -/
def GroupsFault : Prop :=
  (∀ (i : Instr) (h : Hdr) (s : State) (k : Nat), CanIssue i h s → (s.core s.turn).inSup = false → Unwaited (seen i h s) i →
    let v := seen i h s
    (∀ h' o, i = .gld h' o → SrcsReady v.c [] [srcRef o.base] →
      DstsReady v.c [.line o.line 1 false, .pred o.cp.toNat] (pushesOf o.line) →
      groupFault v (v.src o.base + o.off.signExtend 64).toNat 512 64 = some k →
      TrapsAs i s ⟨17, k, true, v.src o.base + o.off.signExtend 64⟩) ∧
    (∀ h' o, i = .glds h' o → SrcsReady v.c [] [srcRef o.base] → DstsReady v.c [.reg o.dest.toNat, .pred o.cp.toNat] [] →
      let n := if o.ty = 9 then 2 else 4
      groupFault v (v.src o.base + o.off.signExtend 64).toNat n n = some k →
      TrapsAs i s ⟨17, k, true, v.src o.base + o.off.signExtend 64⟩)) ∧
  ∀ (i : Instr) (h : Hdr) (s : State) (g : BitVec 8), CanIssue i h s → (s.core s.turn).inSup = false →
    (match i with
      | .barrive _ o => o.group = g
      | .bwait _ o => o.group = g ∧ flagsDue (seen i h s) = 0
      | .btest _ o => o.group = g ∧ DstsReady (seen i h s).c [.pred o.pd.toNat] []
      | _ => False) →
    barrierGroup (seen i h s) g = none → TrapsAs i s ⟨17, 5, true, g.setWidth 64⟩

/-- Why the next line of a port's walk may not stand at an address: 7 off 64 bytes or outside the unit scratchpad, 4 lent. -/
def lineStop (c : Core) (a : Int) : Option Nat :=
  if a < 0 ∨ a % 64 ≠ 0 ∨ 2 ^ 21 < a + 512 then some 7
  else if c.lent.any (fun r => decide ((r.base : Int) < a + 512) && decide (a < (r.base : Int) + 4096 * r.size)) then some 4
  else none

/-- The fault of a pop of read port `p` beyond those of `popped` (R100 to R102). -/
def popStop (c : Core) (popped : List Nat) (p : Nat) : Option Nat :=
  let q := c.port p
  if q.conf = false then some 6
  else if popped.count p < q.queue.length then none
  else if q.rows = [] ∧ portTotal q.record ≤ q.taken then some 6
  else lineStop c q.nextAddr

/-- The fault of a push to write port `p` (R100, R102). -/
def pushStop (c : Core) (p : Nat) : Option Nat :=
  let q := c.port p
  if q.conf = false ∨ portTotal q.record ≤ q.pushed then some 6 else lineStop c (portAddr q.record q.pushed)

/-- A record that PCFG refuses for a port (R99, R100). -/
def recordBad (r : BitVec 512) (port : Nat) : Bool :=
  let word (o n : Nat) : Nat := r.toNat / 2 ^ (8 * o) % 2 ^ n
  let count (l : Nat) : Nat := word (8 + 4 * l) 32
  let stride (l : Nat) : Int := (BitVec.ofNat 32 (word (24 + 4 * l) 32)).toInt
  let reach (l : Nat) : Int := ((count l : Int) - 1) * stride l
  let low : Int := word 0 64 + ((List.range 4).map (fun l => min 0 (reach l))).sum
  let high : Int := word 0 64 + ((List.range 4).map (fun l => max 0 (reach l))).sum
  let bad (a : Int) : Bool := decide (a < 0) || a % 64 != 0 || decide (2 ^ 21 < a + 512)
  word 40 64 / 4 != 0 || word 56 64 != 0 || (List.range 4).any (fun l => count l == 0) || decide (2 ≤ word 40 2) ||
  (word 40 2 == 1 && decide (8 ≤ port)) || bad low || bad high

/-- A port that is not configured or whose walk is over, and a line that may not stand where its walk places it, fault with the
number of the port: at a pop, at a push, and PCFG's record (R99 to R102). -/
def PortsFault : Prop :=
  (∀ (i : Instr) (h : Hdr) (s : State) (e : Effect) (pre post : List SrcRef) (r : SrcRef) (p k : Nat), CanIssue i h s →
    ModeHas i h s → operandsOf (seen i h s) i = some e → e.srcs = pre ++ r :: post → r.readPort = some p →
    SrcsReady (seen i h s).c [] pre → (∀ fe, firstEmpty (seen i h s).c fe [] 0 e.srcs = none) →
    DstsReady (seen i h s).c e.dsts e.pushes → (seen i h s).x.srStall e.mode = false → e.ready →
    popStop (seen i h s).c (popsOf pre) p = some k → TrapsAs i s ⟨17, k, true, BitVec.ofNat 64 p⟩) ∧
  (∀ (i : Instr) (h : Hdr) (s : State) (e : Effect) (p k : Nat), CanIssue i h s →
    ModeHas i h s → operandsOf (seen i h s) i = some e → e.pushes = [p] → SrcsReady (seen i h s).c [] e.srcs →
    (∀ d ∈ e.dsts, dstEmpty (seen i h s).c d = false) → (seen i h s).x.srStall e.mode = false → e.ready →
    pushStop (seen i h s).c p = some k → TrapsAs i s ⟨17, k, true, BitVec.ofNat 64 p⟩) ∧
  ∀ (h : Hdr) (s : State) (o : Pcfg) (n : Nat), CanIssue (.pcfg h o) h s → (s.core s.turn).inSup = false →
    SrcsReady (seen (.pcfg h o) h s).c [] [srcRef o.base] → Unwaited (seen (.pcfg h o) h s) (.pcfg h o) →
    recordAt (seen (.pcfg h o) h s) (recordAddr (seen (.pcfg h o) h s) o.base o.off) 64 = some n →
    recordBad (BitVec.ofNat 512 n) o.port.toNat = true → TrapsAs (.pcfg h o) s ⟨17, 7, true, o.port.setWidth 64⟩

/-- The number of the check that HGIVE of a region at `a` with description `d` fails (R104). -/
def giveFault (v : Env) (a d : Nat) : Option Nat :=
  let size := d / 2 ^ 8 % 2 ^ 7
  let off := a % 2 ^ 56
  let n := 4096 * max 1 size
  if a / 2 ^ 56 ≠ 0 then some 1
  else if 2 ^ 21 < off + n then some 2
  else if a % 4096 ≠ 0 then some 3
  else if d / 2 ^ 15 ≠ 0 ∨ d / 2 ^ 4 % 2 ^ 4 ≠ 0 ∨ size = 0 ∨ 64 < size ∨ d % 16 = v.core % 16 ∨ 16 ≤ v.c.lent.length ∨
    (∃ r ∈ v.c.lent, r.base < off + n ∧ off < r.base + 4096 * r.size) then some 8
  else none

/-- The faults of the handle operations (R104 to R106): HGIVE with its address; HTAKE of a slot that is held or reserved and HBACK
of one that is not held with the slot's number, which is the model's choice (assumption 53). -/
def HandlesFault : Prop :=
  ∀ (i : Instr) (h : Hdr) (s : State), CanIssue i h s → (s.core s.turn).inSup = false →
    let v := seen i h s
    (∀ h' o k, i = .hgive h' o → SrcsReady v.c [] [srcRef o.base, srcRef o.desc] → DstsReady v.c [.reg o.dest.toNat] [] →
      v.c.pendingIds = [] → (v.s.core (peerOf v.core ((v.src o.desc).toNat % 16))).offers.length < 16 →
      giveFault v (v.src o.base).toNat (v.src o.desc).toNat = some k → TrapsAs i s ⟨17, k, true, v.src o.base⟩) ∧
    (∀ h' o, i = .htake h' o → DstsReady v.c [.reg o.dest.toNat] [] → v.c.held.find o.h.toNat ≠ none →
      TrapsAs i s ⟨17, 8, true, o.h.setWidth 64⟩) ∧
    (∀ h' o, i = .hback h' o → v.c.pendingIds = [] → (∀ d, v.c.held.find o.h.toNat = some d → d.reserved = true) →
      TrapsAs i s ⟨17, 4, true, o.h.setWidth 64⟩)

/-- A counter above 4,095 faults with its number (R85, R182); a depth of the loop stack above six, written or loaded, raises
LOVF with NUM 2 (R74, R82, R192). -/
def NumbersFault : Prop :=
  ∀ (i : Instr) (h : Hdr) (s : State), CanIssue i h s →
    let v := seen i h s
    (∀ h' o, i = .evadd h' o ∨ i = .evwait h' o → SrcsReady v.c [] [srcRef o.ctr, srcRef o.val] → 4095 < (v.src o.ctr).toNat →
      TrapsAs i s ⟨17, 2, true, v.src o.ctr⟩) ∧
    (∀ h' o, i = .wrsr h' o → SrcsReady v.c [] [srcRef o.a] → o.num.toNat = SR.ldepth → 6 < (v.src o.a).toNat →
      TrapsAs i s ⟨1, 2, false, 0⟩) ∧
    (∀ h' o t, i = .lload h' o → SrcsReady v.c [] [srcRef o.base] → Unwaited v i →
      resolveAccess v.c v.core true (v.src o.base + o.off.signExtend 64) 160 8 = .ok t →
      6 < v.s.read (t.key + 144) 8 → TrapsAs i s ⟨1, 2, false, 0⟩)

/-- The fetch of a bundle (R48, R49): a misaligned address; a word whose address does not translate; a header that is illegal
alone, after which nothing is fetched; any other illegality after every word is fetched. -/
def FetchesFault : Prop :=
  ∀ (s : State) (n : Nat) (a x : W64),
    let f := (fetchBundle s n a x).2
    let alone (h : W64) : Option Nat :=
      if h.toNat / 2 ^ 44 ≠ 0 then some 1
      else if (List.range 9).any (fun k => h.getLsbD k && h.getLsbD (9 + k)) then some 2
      else if h.toNat / 2 ^ 24 % 4 = 3 then some 3
      else if (List.range 9).any (fun k => h.toNat / 2 ^ (26 + 2 * k) % 4 != 0 &&
          (decide (k < 2) || !(h.getLsbD k || h.getLsbD (9 + k)))) then some 4
      else none
    (a.toNat % 8 ≠ 0 → f = .error ⟨17, 0xA, true, a⟩) ∧
    (a.toNat % 8 = 0 → ∀ e, (s.translate a.toNat false).2 = .error e → f = .error ⟨17, 9, true, a⟩) ∧
    (a.toNat % 8 = 0 → ∀ u h, fetchWord s n a = (u, .ok h) →
      (∀ r, alone h = some r → f = .error ⟨16, 0, true, BitVec.ofNat 64 (0xF00 + r)⟩) ∧
      (alone h = none → ∀ v t, fetchWords u n (a + 8) (headerWords h - 1) = (v, .error t) → f = .error t ∧
        ∃ k, k < headerWords h - 1 ∧ t = ⟨17, 9, true, a + 8 + BitVec.ofNat 64 (8 * k)⟩) ∧
      (alone h = none → ∀ v ws, fetchWords u n (a + 8) (headerWords h - 1) = (v, .ok ws) →
        (∀ e, decodeBundle (h :: ws) x = .error e → f = .error ⟨16, 0, true, BitVec.ofNat 64 (e.word * 2 ^ 12 + e.slot * 2 ^ 8 + e.reason)⟩) ∧
        (∀ b, decodeBundle (h :: ws) x = .ok b → f = .ok b)))

/-- FENCE, DRAIN, BWAIT and EXIT deliver the flags that are raised and enabled as the floating-point trap (R70, R165). -/
def FlagsTrap : Prop :=
  ∀ (i : Instr) (h : Hdr) (s : State), CanIssue i h s →
    (match i with
      | .fence .. | .fenceInstr .. | .drain .. | .bwait .. | .exit .. => True
      | _ => False) →
    flagsDue (seen i h s) ≠ 0 → TrapsAs i s ⟨3, 0, false, flagsDue (seen i h s)⟩

/-- What an instruction that waits reads and writes, and when its wait is not met (R83, R100, R104, R164, R166, R168, R171, R174,
R175, R178, R180 to R182). -/
def waitUnmet (v : Env) (i : Instr) : Option (List SrcRef × List DstRef × Prop) :=
  let busy (r w : Bool) : Prop := (v.c.waitIds r w).isEmpty = false
  match i with
  | .twany _ o => some ([srcRef o.mask], [],
      v.src o.mask ≠ 0 ∧ (v.x.copynbOut = true ∨ v.x.spec SR.tagmap &&& v.src o.mask = 0))
  | .twall _ o => some ([srcRef o.mask], [],
      v.src o.mask ≠ 0 ∧ (v.x.copynbOut = true ∨ v.x.spec SR.tagmap &&& v.src o.mask ≠ v.src o.mask))
  | .copy _ o => some ([srcRef o.base], [], v.x.copynbOut = true ∨ busy false false ∨
      256 ≤ (v.s.copies.filter (fun c => c.core == v.core && c.sup == v.c.inSup && !c.orphan)).length ∨
      256 ≤ (v.s.copies.filter (fun c => c.phase == .queued && c.core / 16 == v.core / 16)).length)
  | .copynb _ o => some ([srcRef o.base], [.reg o.dest.toNat], busy false false)
  | .submit _ o => some ([srcRef o.base], [.reg o.dest.toNat], 8 ≤ v.c.prog.submitsOut + v.c.sup.submitsOut ∨ busy false false)
  | .skim _ o => some ([srcRef o.base], [.reg o.dest.toNat], 256 ≤ v.s.skimHeld ∨ busy false false)
  | .drain _ o => some ([], [], flagsDue v = 0 ∧ (v.c.pendingIds ≠ [] ∨ v.c.prog.statusOut = true ∨ v.c.sup.statusOut = true ∨
      (o.cp = true ∧ ∃ c ∈ v.s.copies, c.core = v.core ∧ c.orphan = false) ∨
      (o.nt = true ∧ ∃ w ∈ v.s.nt, w.core = v.core ∧ (o.cp = true ∨ ∀ c ∈ v.s.copies, c.id ≠ w.copy))))
  | .barrive _ o => (barrierGroup v o.group).map (fun g => ([], [], v.c.inSup = false ∧ (v.c.pendingIds ≠ [] ∨
      ∃ m ∈ g.present v.s, (65535 : Int) ≤ (g.arrivals.look 0 v.core - g.arrivals.look 0 m).toInt)))
  | .bwait _ o => (barrierGroup v o.group).map (fun g => ([], [], v.c.inSup = false ∧ flagsDue v = 0 ∧
      ∃ m ∈ g.present v.s, (g.arrivals.look 0 m - g.arrivals.look 0 v.core).toInt < 0))
  | .trigger _ o => some ([], [], v.c.inSup = false ∧ busy (ordRel o.ord) true)
  | .evwait _ o => some ([srcRef o.ctr, srcRef o.val], [], (v.src o.ctr).toNat ≤ 4095 ∧
      (v.s.counter (v.src o.ctr).toNat < v.src o.val ∨ v.c.prog.addOut (v.src o.ctr).toNat = true ∨
        v.c.sup.addOut (v.src o.ctr).toNat = true ∨ busy false false))
  | .prst _ o => some ([], [], 8 ≤ o.port.toNat ∧ v.c.portBusy o.port.toNat = true)
  | .hgive _ o => some ([srcRef o.base, srcRef o.desc], [.reg o.dest.toNat],
      v.c.pendingIds ≠ [] ∨ 16 ≤ (v.s.core (peerOf v.core ((v.src o.desc).toNat % 16))).offers.length)
  | .hback _ _ => some ([], [], v.c.pendingIds ≠ [])
  | .pcfg _ o => some ([srcRef o.base], [], busy false false)
  | .svsave _ o => some ([srcRef o.base], [], v.c.inSup = true ∧ o.part = 0 ∧ ∃ c ∈ v.s.copies, c.core = v.core ∧ c.sup = false ∧
      c.orphan = false ∧ (c.failed = true ∨ ∀ p r sp a w, c.phase ≠ .parked p r sp a w))
  | _ => none

/-- While a wait is not met the bundle stalls, and nothing of it takes effect; so it does while a push that is due finds its
port's queue full, what has room in the queue landing meanwhile (R102, R164). -/
def WaitsStall : Prop :=
  (∀ (i : Instr) (h : Hdr) (s : State) (srcs : List SrcRef) (dsts : List DstRef) (p : Prop), CanIssue i h s →
    waitUnmet (seen i h s) i = some (srcs, dsts, p) → SrcsReady (seen i h s).c [] srcs → DstsReady (seen i h s).c dsts [] → p →
    exec i s = .next (stalled i s)) ∧
  ∀ (i : Instr) (s : State), (s.core s.turn).runs = true → (s.core s.turn).landFull = true → WellFormed i →
    (hdrOfInstr i ≠ none ∨ branchForm i ≠ 0) →
    exec i s = .next ((underWay i s).modCore s.turn (fun c => c.landRoom.landClears))

/-- What lands while pushes that are due have no room (R102, R203): of those of a port as many as its queue takes, in the order of
landing; the others stay in flight, and of those that have landed their flags. -/
def RoomTaken (c : Core) : Prop :=
  let d := c.landRoom
  (∀ p, p < 4 →
    let pushes := (landingOrder (dueResults c)).filterMap (pushedLine p)
    let room := if (c.port (8 + p)).conf then 8 - (c.port (8 + p)).queue.length else 0
    d.port (8 + p) = { c.port (8 + p) with queue := (c.port (8 + p)).queue ++ pushes.take room } ∧
    (dueResults d).filterMap (pushedLine p) = pushes.drop room) ∧
  (∀ p, p < 8 → d.port p = c.port p) ∧ { d with prog := c.prog, sup := c.sup, ports := c.ports } = c ∧
  (if c.inSup then d.prog = c.prog else d.sup = c.sup) ∧ { d.ctx with flight := c.ctx.flight } = c.ctx ∧
  d.ctx.flight.filter (fun f => f.remain != 0) = c.ctx.flight.filter (fun f => f.remain != 0) ∧
  (dueResults d).map (·.flags) = (landingOrder (dueResults c)).map (·.flags)

/-! ## Traps and the return from them, once more -/

/-- A record of the error log (R362): where the ring is full it is dropped and counted; else it stands in device memory at HEAD,
where that is a place of device memory (assumption 38), the lasting mark, class, unit, kind of unit, action and count in its
first dword, and HEAD advances; an empty ring announces itself. -/
def RecordsAreWritten : Prop :=
  ∀ (u : State) (cls : Nat) (k : UnitKind) (unit addr count action : Nat) (lasting : Bool),
    cls < 256 → unit < 2 ^ 20 → count < 2 ^ 16 → action < 256 → memWf u.mem = true →
    let r := u.err.ring
    let t := u.errorRecord cls k unit addr count action lasting
    let used := (r.head + 2 ^ 17 - r.tail) % 2 ^ 17
    let at_ := r.base.toNat + 32 * (r.head % 2 ^ r.n)
    let ukind := match k with
      | .core => 0 | .cluster => 1 | .die => 2 | .pseudoChannel => 3 | .paritySet => 4 | .port => 5 | .alu => 6 | .ucie => 7
      | .chunkBuffers => 8 | .sensor => 9
    { t with err := u.err, mem := u.mem, dm := u.dm, out := u.out } = u ∧
    { t.err with ring := r, seq := u.err.seq } = u.err ∧ t.err.seq = u.err.seq + 1 ∧
    if 2 ^ r.n ≤ used then
      t.err.ring = { r with lost := min (2 ^ 32 - 1) (r.lost + 1) } ∧ t.mem = u.mem ∧ t.dm = u.dm ∧ t.out = u.out
    else
      t.err.ring = { r with head := (r.head + 1) % 2 ^ 17 } ∧ t.out = u.out ++ (if used = 0 then [.msix 2042] else []) ∧
      (u.deviceOk at_ 32 = true →
        t.read at_ 8 = lasting.toNat + 2 ^ 8 * cls + 2 ^ 16 * unit + 2 ^ 36 * ukind + 2 ^ 40 * action + 2 ^ 48 * count ∧
        t.read (at_ + 8) 8 = u.err.seq % 2 ^ 64 ∧ t.read (at_ + 16) 8 = u.time % 2 ^ 64 ∧
        t.read (at_ + 24) 8 = addr % 2 ^ 64 ∧ ∀ j, j < at_ ∨ at_ + 32 ≤ j → memByte t.mem j = memByte u.mem j)

/-- A trap in supervisor mode (R200, R361, R363): an event of class SVFAULT, lasting at once, is counted at the core and
recorded with the action 3, and the core is fenced; where it claims no step, nothing else of the package changes but what the
fence settles at the cores and the scheduler. -/
def SupervisorFaultFences : Prop :=
  ∀ (u : State) (n : Nat), (u.core n).mode ≠ .fenced →
    let c := countedError u 0x27 .core n
    let w := (withCount u 0x27 .core n).errorRecord 0x27 .core n 0 c.2.1 3 true
    let t := u.supervisorFault n
    t = w.fenceCore n ∧ (t.core n).mode = .fenced ∧
    ((u.core n).claim = none → { t with cores := w.cores, sched := w.sched } = w ∧
      ∀ k, k ≠ n → (t.core k).mode = (w.core k).mode ∧ (t.core k).ctx.racc = (w.core k).ctx.racc)

/-- A step-boundary pre-emption (R177, R194): the STEP at which it is taken retires the step that the core has claimed, and the
core stops before its bundle, whose landings are not made: class 19, NUM 0, at the bundle's pc and repetition. -/
def StepStops : Prop :=
  ∀ (h : Hdr) (s : State) (o : StepOp), CanIssue (.step h o) h s → (s.core s.turn).mode = .program →
    (s.core s.turn).preempt = some false → (s.core s.turn).progBank = none →
    DstsReady (seen (.step h o) h s).c ((List.range 7).map (fun k => .reg (o.d.toNat + k))) [] →
    let v := (underWay (.step h o) s).retireStep s.turn
    exec (.step h o) s = .next (v.setCore s.turn
      ({ v.core s.turn with preempt := none, claim := none }.takeTrap ⟨19, 0, true, 0⟩ (s.ctx s.turn).pc (s.ctx s.turn).rep))

/-! ## What lands, once more (R57, R108, R151, R155, R160, R205) -/

/-- A result that has no place to go: the discard specifier, s0, p0 and k0. -/
def discarded (f : Flight) : Bool :=
  match f.eff with
  | .void => true
  | .sreg r _ => r == 0
  | .pred p _ => p == 0
  | .mask k _ _ => k == 0
  | _ => false

/-- Results that have no place to go leave their flags and nothing else; s0 reads 0, p0 true, and k0 every lane, whatever is
written to them. -/
def DiscardsLand (c : Core) : Prop :=
  let d := c.landDue
  (d.ctx.sreg 0 = 0 ∧ d.ctx.pred 0 = true ∧ d.mask 0 = BitVec.allOnes 512) ∧
  ((∀ f ∈ dueResults c, discarded f = true) →
    { d with prog := c.prog, sup := c.sup } = c ∧ (if c.inSup then d.prog = c.prog else d.sup = c.sup) ∧
    { d.ctx with flight := c.ctx.flight, landed := c.ctx.landed, sr := c.ctx.sr } = c.ctx ∧
    d.ctx.flight = c.ctx.flight.filter (fun f => f.remain != 0) ∧
    (∀ n, n ≠ SR.fpflags → d.ctx.spec n = c.ctx.spec n) ∧
    d.ctx.spec SR.fpflags = c.ctx.spec SR.fpflags ||| BitVec.ofNat 64 (orAll ((dueResults c).map (·.flags))))

/-- The phase of a beat that lands: what it zeroes, what it adds, what it writes (R160). -/
def landingPhase (f : Flight) : Nat :=
  match f.eff with
  | .beat b => if b.word.toNat / 2 ^ 57 ∈ [6, 7, 8] then 0 else if b.word.toNat / 2 ^ 57 ∈ [4, 5] then 1 else 2
  | _ => 2

/-- One beat after another: the array, the flags for fpflags, those for accflags. -/
def beatsLanded (a : ArrayState) (fs : List Flight) : ArrayState × Nat × Nat :=
  fs.foldl (fun r f => match f.eff with
    | .beat b => ((landBeat b r.1).1, r.2.1 ||| (landBeat b r.1).2.1, r.2.2 ||| (landBeat b r.1).2.2)
    | _ => r) (a, 0, 0)

/-- The array changes by the beats that are due and by nothing else: those of one issue by their phases, and of a phase those
put back from a bank last; their flags are raised with the others (R155, R160, R205). -/
def ArrayLands (c : Core) : Prop :=
  let d := c.landDue
  ∃ fs : List Flight, fs.Perm ((dueResults c).filter isBeat) ∧
    ((∀ f ∈ fs, f.slot = 7) → fs.Pairwise (fun f g => landingPhase f < landingPhase g ∨
      (landingPhase f = landingPhase g ∧ (f.late = true → g.late = true)))) ∧
    d.arr = (beatsLanded c.arr fs).1 ∧
    ((∀ f ∈ dueResults c, specWritten SR.fpflags f = none ∧ specWritten SR.accflags f = none) →
      d.ctx.spec SR.accflags = c.ctx.spec SR.accflags ||| BitVec.ofNat 64 (beatsLanded c.arr fs).2.2 ∧
      d.ctx.spec SR.fpflags = c.ctx.spec SR.fpflags |||
        BitVec.ofNat 64 (orAll ((dueResults c).map (·.flags)) ||| (beatsLanded c.arr fs).2.1))

/-! ## Results that arrive behind a write in flight (R187, R202) -/

/-- The results `gs` are those of `fs` with a late one that writes `e`, behind the last of those that write the same place, at
its landing. -/
def HeldBehind (writes : Flight → Bool) (e : Eff) (fs gs : List Flight) : Prop :=
  ∃ pre f post, fs = pre ++ f :: post ∧ writes f = true ∧ (∀ g ∈ pre, writes g = true → g.remain ≤ f.remain) ∧
    (∀ g ∈ post, writes g = true → g.remain < f.remain) ∧ gs = pre ++ f :: ⟨e, f.remain, f.slot, true, 0, none⟩ :: post

/-- Where a result that arrives in core `c` goes, `at_` being what it does at once: behind a write of its place that is in
flight; in program mode behind one in the system bank, or, where the handler did not ask for it, in the program bank. -/
def ArrivesAt (sup handler : Bool) (writes : Flight → Bool) (e : Eff) (c at_ d : Core) : Prop :=
  let has (fs : List Flight) : Prop := ∃ f ∈ fs, writes f = true
  let sys : Prop := sup = false ∧ ∃ b, c.sysBank = some b ∧ has b.entries
  let bank : Prop := sup = false ∧ handler = false ∧ ∃ b, c.progBank = some b ∧ has b.entries
  (has (c.side sup).flight → ∃ gs, HeldBehind writes e (c.side sup).flight gs ∧
    d = c.modSide sup (fun x => { x with flight := gs })) ∧
  (¬has (c.side sup).flight → sys → ∃ b gs, c.sysBank = some b ∧ HeldBehind writes e b.entries gs ∧
    d = { c with sysBank := some { b with entries := gs } }) ∧
  (¬has (c.side sup).flight → ¬sys → bank → ∃ b gs, c.progBank = some b ∧ HeldBehind writes e b.entries gs ∧
    d = { c with progBank := some { b with entries := gs } }) ∧
  (¬has (c.side sup).flight → ¬sys → ¬bank → d = at_)

/-- A result writes some bit of a line of a tile. -/
def writesLine (spec : BitVec 13) (ad : Bool) (f : Flight) : Bool :=
  (List.range 128).any (fun i => (List.range 32).any (fun b =>
    (cellBit (spec.toNat / 2 ^ 7 % 8) (laneCell spec ad i).1 (laneCell spec ad i).2 b f).isSome))

/-- A result that has performed arrives in its register, or in its line of a tile, which is full then; where a write of fixed
latency to the same place is in flight, or in a bank, it is held until that has landed (R187, R202). A line is held whole,
which is the model's reading (assumption 21). -/
def ArrivalsHeld : Prop :=
  ∀ (u : State) (n id : Nat) (r : Racc), u.sec.halted = false →
    let c := u.core n
    let sup := supId id
    (c.side sup).racc.find? (fun q => q.id == id) = some r → (∀ k ∈ r.cells, k.done = true) →
    let d := c.modSide sup (fun x => { x with racc := x.racc.filter (fun q => q.id != id) })
    let got (k : Nat) : Nat := (r.cells.map (fun q => q.got.getD 0)).getD k 0
    (∀ k bits sx, r.dst = .sreg k bits sx → k ≠ 0 →
      let v := BitVec.ofNat 64 (extend sx bits (got 0) 64)
      let full (a : Core) : Core := a.modSide sup (fun x => { x with empty := x.empty &&& ~~~(BitVec.ofNat 64 (2 ^ k)) })
      ∃ t a, exec .variableResultArrival { u with agenda := .variableResultArrival n id :: u.agenda } = .next t ∧
        { t with cores := u.cores } = u ∧ (∀ m, m ≠ n → t.core m = u.core m) ∧ t.core n = full a ∧
        ArrivesAt sup r.handler (writesReg k) (.sreg k v) d (d.modSide sup (fun x => { x with s := x.s.put k v })) a) ∧
    (∀ spec ad picks bits sx zeroed, r.dst = .line spec ad picks bits sx zeroed → specTile spec = true →
      (∀ f, f ∈ c.prog.flight ++ (c.sysBank.map (·.entries)).getD [] ++ (c.progBank.map (·.entries)).getD [] → match f.eff with
        | .lines s _ _ => specTile s = true
        | _ => True) →
      let lane (i : Nat) : Option Nat := match picks.find? (fun p => p.1 == i) with
        | some p => some (extend sx bits (got p.2.1 / 2 ^ (8 * p.2.2)) 32)
        | none => if zeroed.getLsbD i then some 0 else none
      let en := lineOf 32 ((List.range 128).map (fun i => if (lane i).isSome then 2 ^ 32 - 1 else 0))
      let data := lineOf 32 ((List.range 128).map (fun i => (lane i).getD 0))
      ∃ t a, exec .variableResultArrival { u with agenda := .variableResultArrival n id :: u.agenda } = .next t ∧
        { t with cores := u.cores } = u ∧ (∀ m, m ≠ n → t.core m = u.core m) ∧
        t.core n = { a with cellEmpty := markLanes a.cellEmpty spec ad lanes false } ∧
        ArrivesAt false r.handler (writesLine spec ad) (if ad then .antidiag spec en data else .lines spec en [data]) d
          { d with tiles := putTileLine d.tiles spec ad en data } a)

/-! ## The nullifier, for every repetition -/

/-- A skipped bundle (R191): its repetitions are those that it would have issued; they count as issues, and no cycle passes. -/
def RepetitionsSkipped : Prop :=
  ∀ (b : Bundle) (n : Nat) (s : State), (s.ctx n).rep = 0 → (s.ctx n).nullified b = true →
    skipReps n b (b.rep + 1) s = (List.range (b.rep + 1)).foldl (fun u _ => issueWhole n b u) s ∧
    ((s.core n).mode = .program → (∀ f ∈ (s.ctx n).flight, match f.eff with
        | .push .. | .special .. => False
        | _ => True) →
      let t := skipReps n b (b.rep + 1) s
      { t with cores := s.cores } = s ∧ (t.core n).mode = .program ∧ (t.ctx n).rep = 0 ∧ (t.ctx n).cur = none ∧
      (t.ctx n).spec SR.issues = (s.ctx n).spec SR.issues + BitVec.ofNat 64 (b.rep + 1) ∧
      (t.ctx n).spec SR.cycles = (s.ctx n).spec SR.cycles)

/-! ## Illegal words, one for each reason (R48) -/

/-- A bundle's words, and the word, slot and reason that it is illegal for. The first word is the header. -/
def illegalWords : List (List W64 × Nat × Nat × Nat) := [
  ([0x0000100000000000], 0, 15, 0x1), ([0x0000000000000201, 0], 0, 15, 0x2), ([0x0000000003000000], 0, 15, 0x3),
  ([0x0000000001000000, 0x4000000000000000], 0, 15, 0x3), ([0x0000000004000001, 0], 0, 15, 0x4),
  ([0x0000000010000000], 0, 15, 0x4), ([0x0000000000000001, 0xFE00000000000000], 1, 0, 0x5),
  ([0x0000000001000000, 0xF800000000000000], 1, 15, 0x5), ([0x0000000000000010, 0x020F000000040040], 1, 4, 0x6),
  ([0x0000000000000010, 0x0204062000040040], 1, 4, 0x7), ([0x0000000000000001, 0x6000420300C00000], 1, 0, 0x8),
  ([0x0000000000000100, 0x1000000300000000], 1, 8, 0x8), ([0x0000000000000001, 0x0200000000000001], 1, 0, 0x9),
  ([0x0000000002000000, 0x4580000000000000, 0], 1, 15, 0xA), ([0x0000000001000000, 0x3800000000000000], 1, 15, 0xB),
  ([0x0000000001000000, 0x3F00000000000000], 1, 15, 0xB), ([0x0000000001000000, 0x3400000400040000], 1, 15, 0xB)]

/-! ## Boot (R366 to R368) -/

/-- The 32-bit number at an offset of an image. -/
def imageNumber (l : List Byte) (o : Nat) : Nat :=
  ((List.range 4).map (fun i => (l.getD (o + i) 0).toNat * 256 ^ i)).sum

/-- `n` bytes of an image. -/
def imagePart (l : List Byte) (o n : Nat) : List Byte := (l.drop o).take n

/-- SHAKE256 to 64 bytes, as a number of which the first byte is the lowest. -/
def hash64 (l : List Byte) : BitVec 512 := BitVec.ofNat 512 (ofBytes (shake256 l 64))

/-- Why an image is refused, in the order in which the model makes the tests (assumption 32). -/
def imageRefused (l : List Byte) : Option Nat :=
  let key := imagePart l 80 1952
  let index := imageNumber l 8
  if imageNumber l 0 ≠ 0x46544C58 ∨ 3 < index ∨ [5341, 5342, 5343].any (fun o => l.getD o 0 != 0) ∨
      l.length < 5344 + imageNumber l 12 then some 0x87
  else if (hash64 (imagePart l 5344 (imageNumber l 12))).toNat ≠ ofBytes (imagePart l 16 64) then some 0x82
  else if hash64 key ≠ Config.fusedKey index ∨ dsVerify key (imagePart l 0 2032) (imagePart l 2032 3309) = false then some 0x83
  else if Config.keyRevoked index = true then some 0x84
  else if imageNumber l 4 < Config.minSvn then some 0x85
  else none

/-- Steps 3 to 7 of boot: an image that is refused halts it with its code; one that is not is measured, and its version is
kept; after the last the training, which may fail, and the package is ready, its on-chip memory zero and its queues
enabled. -/
def BootProceeds : Prop :=
  (∀ (u : State) (trained : Bool) (i : Nat) (l : List Byte) (ls : List (List Byte)),
    u.bootImages trained i (l :: ls) = match imageRefused l with
      | some code => { u with sec := { u.sec with phase := .recovery, status := BitVec.ofNat 8 code } }
      | none => { u with sec := { u.sec with
          meas := u.sec.meas.put i (hash64 (toBytes 64 (u.sec.meas.look 0 i).toNat ++ imagePart l 16 64)),
          svns := u.sec.svns.put i (BitVec.ofNat 32 (imageNumber l 4)), verified := true } }.bootImages trained (i + 1) ls) ∧
  (∀ (u : State) (i : Nat), u.bootImages false i [] =
    { u with sec := { u.sec with phase := .recovery, status := 0x86 } }) ∧
  ∀ (u : State) (i : Nat), let t := u.bootImages true i []
    { t with mem := u.mem, cores := u.cores, dm := u.dm, sched := u.sched, sec := u.sec } = u ∧
    t.sec = { u.sec with phase := .ready, status := 0x0F } ∧ t.dm = { u.dm with ready := true } ∧
    (∀ q, q < 80 → t.queue q = { u.queue q with disabled := false }) ∧
    (∀ k, 2 ^ 40 ≤ k → memByte t.mem k = 0) ∧ (∀ k, k < 2 ^ 40 → memByte t.mem k = memByte u.mem k) ∧
    ∀ n, { t.core n with tiles := (u.core n).tiles, arr := (u.core n).arr } = u.core n ∧ (t.core n).tiles = [] ∧
      let a := (t.core n).arr
      a.acc = [] ∧ a.bufA = 0 ∧ a.bufB = 0 ∧ a.planeA = 0 ∧ a.planeB = 0

/-! ## Rounding (R214 to R222) -/

/-- A row of R215: the type, its width and fraction bits, the least exponent, the largest finite value and its code, and whether
the format has infinities. -/
structure FloatRow where
  ty      : BitVec 4
  w       : Nat
  f       : Nat
  emin    : Int
  top     : ℚ
  topCode : Nat
  inf     : Bool

def floatRows : List FloatRow := [
  ⟨8, 32, 23, -126, (2 - 1 / 2 ^ 23) * 2 ^ 127, 0x7F7FFFFF, true⟩, ⟨9, 16, 7, -126, (2 - 1 / 2 ^ 7) * 2 ^ 127, 0x7F7F, true⟩,
  ⟨10, 16, 10, -14, 65504, 0x7BFF, true⟩, ⟨11, 8, 3, -6, 448, 0x7E, false⟩, ⟨12, 8, 2, -14, 57344, 0x7B, true⟩,
  ⟨13, 4, 1, 0, 6, 0x7, false⟩]

/-- The magnitude of a pattern of which the sign bit is clear (R214). -/
def FloatRow.magnitude (t : FloatRow) (x : Nat) : ℚ :=
  if x < 2 ^ t.f then (x : ℚ) * (2 : ℚ) ^ (t.emin - t.f)
  else ((2 ^ t.f + x % 2 ^ t.f : Nat) : ℚ) * (2 : ℚ) ^ (t.emin + (x / 2 ^ t.f : Nat) - 1 - t.f)

/-- R217 of a magnitude `x`, `2 ^ q` being the weight of the last bit that is kept. -/
def roundTo (mode rnd16 : Nat) (neg : Bool) (x : ℚ) (q : Int) : ℚ :=
  let u : ℚ := (2 : ℚ) ^ q
  let lo := u * ⌊x / u⌋
  let hi := lo + u
  if x = lo then lo
  else match mode with
    | 0 => if x - lo < u / 2 then lo else if u / 2 < x - lo then hi else if ⌊x / u⌋ % 2 = 0 then lo else hi
    | 1 => lo
    | 2 => if neg then hi else lo
    | 3 => if neg then lo else hi
    | 4 => if x - lo < u / 2 then lo else hi
    | _ => if 65536 ≤ ⌊(x - lo) * 2 ^ 16 / u⌋ + (rnd16 : Int) then hi else lo

/-- `res` is the pattern, with its flags, to which the number of magnitude `x` and the given sign rounds in a format
(R217 to R219); a zero keeps its sign and raises none. -/
def RoundsTo (t : FloatRow) (r : Num.Rnd) (neg : Bool) (x : ℚ) (res : Nat × Nat) : Prop :=
  let sign := if neg then 2 ^ (t.w - 1) else 0
  (x = 0 → res = (sign, 0)) ∧
  ∀ k : Int, (2 : ℚ) ^ k ≤ x → x < (2 : ℚ) ^ (k + 1) →
    let y := roundTo r.mode r.rnd16 neg x (max k t.emin - t.f)
    (y ≤ t.top → ∃ c, c ≤ t.topCode ∧ t.magnitude c = y ∧ res.1 = sign + c ∧
      res.2 = if y = x then 0 else if roundTo r.mode r.rnd16 neg x (k - t.f) < (2 : ℚ) ^ t.emin then 16 + 8 else 16) ∧
    (t.top < y → res =
      if t.inf = true ∧ r.sat = false ∧ r.mode ≠ 1 ∧ (r.mode = 2 → neg = true) ∧ (r.mode = 3 → neg = false) then
        (sign + t.topCode + 1, 4 + 16 + 32)
      else (sign + t.topCode, 4 + 16))

/-- The number that a finite pattern stands for, and its sign. -/
def FloatRow.number (t : FloatRow) (x : Nat) : ℚ :=
  if x / 2 ^ (t.w - 1) % 2 = 1 then -t.magnitude (x % 2 ^ (t.w - 1)) else t.magnitude (x % 2 ^ (t.w - 1))

def FloatRow.negative (t : FloatRow) (x : Nat) : Bool := x / 2 ^ (t.w - 1) % 2 == 1
def FloatRow.infinite (t : FloatRow) (x : Nat) : Bool := x % 2 ^ (t.w - 1) == t.topCode + 1
def FloatRow.isNan (t : FloatRow) (x : Nat) : Bool := decide (t.topCode + 1 < x % 2 ^ (t.w - 1))
def FloatRow.signalling (t : FloatRow) (x : Nat) : Bool := t.isNan x && x / 2 ^ (t.f - 1) % 2 == 0
def FloatRow.finite (t : FloatRow) (x : Nat) : Bool := decide (x % 2 ^ (t.w - 1) ≤ t.topCode)

/-- The result of an operation of which some operand is no finite number (R221): `bad` is a case that raises NV, `inf` the sign of
the infinity that it comes to. -/
def SpecialResult (t : FloatRow) (operands : List Nat) (bad inf : Bool) (res : Nat × Nat) : Prop :=
  res = if operands.any t.signalling || bad then (t.topCode + 1 + 2 ^ (t.f - 1), 1 + 32)
    else if operands.any t.isNan then (t.topCode + 1 + 2 ^ (t.f - 1), 32)
    else ((if inf then 2 ^ (t.w - 1) else 0) + t.topCode + 1, 32)

/-- Rounding: RoundTo and its flags in every format (R217 to R219), to an integer (R222), the one rounding of the exact sum,
product and fused product of f32, bf16 and f16 with the signs of exact zeros (R220), and the special operands (R221). -/
def Rounding : Prop :=
  ∀ (t : FloatRow) (r : Num.Rnd), t ∈ floatRows → r.mode < 6 → r.rnd16 < 2 ^ 16 → (r.sat = true → t.ty = 12) →
    let fmt := Num.fmtOf t.ty
    (∀ (neg : Bool) (m : Nat) (e : Int), RoundsTo t r neg ((m : ℚ) * (2 : ℚ) ^ e) (fmt.round r neg m e false)) ∧
    (∀ (neg : Bool) (m : Nat) (e : Int), let x := (m : ℚ) * (2 : ℚ) ^ e
      let y := roundTo r.mode r.rnd16 neg x 0
      ((Num.roundInt r neg m e).1 : ℚ) = (if neg then -y else y) ∧ ((Num.roundInt r neg m e).2 = true ↔ y = x)) ∧
    (t.ty ∈ [8, 9, 10] → ∀ a b c : Nat, a < 2 ^ t.w → b < 2 ^ t.w → c < 2 ^ t.w →
      let zero (n1 n2 : Bool) (s : ℚ) : Bool := if s = 0 then (if n1 = n2 then n1 else r.mode == 2) else decide (s < 0)
      let na := t.negative a; let nb := t.negative b; let nc := t.negative c
      let sum := Num.fadd fmt r 0 (fmt.val a) (fmt.val b)
      let product := Num.fmul fmt r (fmt.val a) (fmt.val b)
      let fused := Num.ffma fmt r (fmt.val a) (fmt.val b) (fmt.val c)
      let times := (t.infinite a && t.number b == 0) || (t.infinite b && t.number a == 0)
      let vast := (t.infinite a || t.infinite b) && !t.isNan a && !t.isNan b
      (t.finite a = true → t.finite b = true →
        RoundsTo t r (zero na nb (t.number a + t.number b)) |t.number a + t.number b| sum ∧
        RoundsTo t r (na != nb) |t.number a * t.number b| product ∧
        (t.finite c = true → RoundsTo t r (zero (na != nb) nc (t.number a * t.number b + t.number c))
          |t.number a * t.number b + t.number c| fused)) ∧
      (t.finite a = false ∨ t.finite b = false →
        SpecialResult t [a, b] (t.infinite a && t.infinite b && na != nb) (if t.infinite a then na else nb) sum ∧
        SpecialResult t [a, b] times (na != nb) product) ∧
      (t.finite a = false ∨ t.finite b = false ∨ t.finite c = false →
        SpecialResult t [a, b, c] (times || (vast && t.infinite c && (na != nb) != nc)) (if vast then na != nb else nc) fused))

/-! ## A bundle of any number of operations -/

/-- What an operation that only yields results reads and writes. -/
def resultEffect (v : Env) (i : Instr) : Option Effect :=
  [intEffect, moveEffect, predEffect, fpEffect, elementEffect, permuteEffect, widthEffect, maskEffect, functionEffect,
    blockEffect, beatEffect].findSome? (fun f => f v i)

/-- What the operations of a bundle under way read and write, the ports that the lower ones pop and push given to each. -/
def bundleEffects (n : Nat) (u : State) : List (Hdr × Instr) → List Nat → List Nat → Option (List Effect)
  | [], _, _ => some []
  | (h, i) :: r, popped, pushed =>
    match resultEffect { bundleSeen n h.slot.val i u with popped := popped, pushed := pushed } i with
    | none => none
    | some e => (bundleEffects n u r (popped ++ popsOf e.srcs) (pushed ++ e.pushes)).map (fun es => e :: es)

/-- The operands of all of them are ready. -/
def BundleReady (c : Core) : List Nat → List Nat → List Effect → Prop
  | _, _, [] => True
  | popped, pushed, e :: es =>
    SrcsReady c popped e.srcs ∧ (∀ d ∈ e.dsts, dstEmpty c d = false) ∧
    (∀ p ∈ e.pushes, pushFault c pushed p = none ∧ pushFull c pushed p = false) ∧ c.ctx.srStall e.mode = false ∧
    BundleReady c (popped ++ popsOf e.srcs) (pushed ++ e.pushes) es

/-- A bundle under way whose operations only yield results, or have a guard that is false, issues them together: each that takes
part reads the state before the bundle, pops and pushes after those of lower slots, and puts its results into flight; one
whose guard is false does nothing (R12, R27, R89, R100, R102, R189). -/
def BundlesIssue : Prop :=
  ∀ (n : Nat) (u : State) (ops : List (Hdr × Instr)) (es : List Effect),
    let b : Bundle := { len := 1 + ops.length, rep := 0, pres := BitVec.ofNat 9 ((ops.map (fun p => 2 ^ p.1.slot.val)).sum),
                        hold := 0, step := 0, branch := none, slots := ops.map (fun p => (p.1.slot, encodeWord p.2)) }
    let c := (bundleBegun n u).core n
    u.sec.halted = false → (u.core n).runs = true → (u.core n).landFull = false →
    ((u.modCore n Core.countCycle).core n).dueTrap = none → (u.ctx n).cur = some b → (u.ctx n).rep = 0 →
    (ops.map (·.1.slot)).Pairwise (· < ·) → (∀ p ∈ ops, WellFormed p.2 ∧ hdrOfInstr p.2 = some p.1) →
    let active := ops.filter (fun p => c.ctx.pred p.1.pred.toNat != p.1.neg)
    (c.inSup = true → ∀ p ∈ active, p.1.slot.val < 4) → bundleEffects n u active [] [] = some es → BundleReady c [] [] es →
    ∃ t, Issued n b.len (es.flatMap (·.results)) (es.flatMap (fun e => popsOf e.srcs)) (es.flatMap (·.pushes))
        (es.foldl (fun s e => e.change s) (bundleBegun n u)) t ∧
      exec .bundleIssue { u with agenda := .bundleIssue n :: u.agenda } = .next t

/-! ## The scheduler considers the ready launches (R257, R261) -/

/-- The package in which the launches that are ready, and no others, are timed since they became so, and in which the
reservations of clusters that are taken, and those of launches that are not ready, have lapsed. -/
def refreshed (u : State) : State :=
  let since (l : Launch) : Option Nat := if u.ready l then some (l.since.getD u.time) else none
  { u with sched := { u.sched with
      launches := u.sched.launches.map (fun p => (p.1, { p.2 with since := since p.2 })),
      reserved := u.sched.reserved.filter (fun p => u.clusterFree p.1 && (u.launch p.2).any u.ready) } }

/-- A launch that may be pre-empted for one of effective priority `e` that may use the clusters `cs`. -/
def victimFor (e : Nat) (cs : List Nat) (w : Launch) : Prop :=
  w.phase = .running ∧ slPclass w.slate ≠ 2 ∧ slPrio w.slate < e ∧ ∃ c ∈ w.held, c ∈ cs

/-- The clusters that a launch may use and that launches being stopped hold. -/
def comingTo (u : State) (l : Launch) : List Nat :=
  (u.usable l).filter (fun c => u.sched.launches.any (fun p => p.2.held.contains c && match p.2.phase with
    | .stopping _ => true
    | _ => false))

/-- A core that the request of a pre-emption reaches: one that runs on. -/
def askable (c : Core) : Bool :=
  c.mode != .idle && c.mode != .exited && c.mode != .fenced && !c.stoppedByRequest

/-- What the scheduler does when something changes that launches wait for: where the first of the ready launches can be admitted
it leaves that to the admission; otherwise it reserves the free clusters for that launch, and where those and the ones of
launches being stopped are too few it stops the launch of lowest PRIO, of those the one admitted last, that holds clusters
which it may use: its cores are asked to stop at their next bundle (PCLASS 1) or their next STEP, with its DEADLINE. Nothing
else stops: a launch is stopped for a ready one of higher effective priority only, and never with PCLASS 2. -/
def SchedulerConsiders : Prop :=
  (∀ u : State, u.sched.launches = [] → u.consider = u) ∧
  ∀ u : State, u.sched.launches ≠ [] → (u.sched.launches.map (·.1)).Pairwise (· < ·) →
    (u.sched.reserved.map (·.1)).Pairwise (· < ·) → (∀ p ∈ u.sched.launches, p.2.id = p.1 ∧ p.2.queue < 64) →
    let v := refreshed u
    let t := u.consider
    { t with sched := u.sched, cores := u.cores } = u ∧
    { t.sched with launches := u.sched.launches, reserved := u.sched.reserved } = u.sched ∧
    (∀ n, { t.core n with preempt := (u.core n).preempt } = u.core n ∧
      ((t.core n).preempt ≠ (u.core n).preempt → askable (u.core n) = true ∧ ∃ p ∈ v.sched.launches, n ∈ p.2.started ∧
        p.2.phase = .running ∧ ∃ bundle, (t.launch p.1).map (·.phase) = some (.stopping bundle))) ∧
    (∀ i w, v.launch i = some w → ∃ x, t.launch i = some x ∧ { x with phase := w.phase, deadline := w.deadline } = w ∧
      (x = w ∨ (w.phase = .running ∧ slPclass w.slate ≠ 2 ∧ ∃ l ∈ v.readyOrder, slPrio w.slate < v.effective l))) ∧
    (∀ c i, t.sched.reserved.find c = some i → v.sched.reserved.find c = some i ∨
      ∃ l ∈ v.readyOrder, l.id = i ∧ c ∈ v.takable l) ∧
    (v.readyOrder = [] → t = v) ∧
    ∀ l r, v.readyOrder = l :: r →
      (v.enough l = true → t = v) ∧
      (v.enough l = false →
        (∀ c ∈ v.takable l, t.sched.reserved.find c = some l.id) ∧
        ((v.takable l).length + (comingTo v l).length < v.needs l →
          ∀ w, v.launch w.id = some w → victimFor (v.effective l) (v.usable l) w →
            (∀ x, v.launch x.id = some x → victimFor (v.effective l) (v.usable l) x → x.id ≠ w.id →
              slPrio w.slate < slPrio x.slate ∨ (slPrio w.slate = slPrio x.slate ∧ x.admitted < w.admitted)) →
            let us := if slDeadline w.slate = 0 then u.sched.deadline else slDeadline w.slate
            t.launch w.id = some { w with phase := .stopping (slPclass w.slate == 1), deadline := some (u.time + 1000 * us) } ∧
            ∀ n ∈ w.started, n ∉ w.finished → askable (u.core n) = true →
              (∀ x, v.launch x.id = some x → x.id ≠ w.id → n ∉ x.started) →
              (t.core n).preempt = some (slPclass w.slate == 1)))

/-! ## A skim engine resumes (R329, R347, R350) -/

/-- A parked request of a skim engine that retranslates: the engine that waits under it goes on at its element, with what it has
read of the guard and of the loss-scale reciprocal, here its last element; a block that waits is quantised as any block is; where
nothing waits under it nothing is done. -/
def SkimResumes : Prop :=
  ∀ (u : State) (q : Request) (id : BitVec 16), u.sec.halted = false →
    u.skim.jobs.Pairwise (fun a b => a.id ≠ b.id) →
    ((∀ j ∈ u.skim.jobs, j.id ≠ q.ident) → u.resumeSkim q id = u) ∧
    ∀ j ∈ u.skim.jobs, j.id = q.ident →
      let at_ (e : Nat) (i : Nat) (g : Option Nat) : Prop := (e, EngineState.parked i g id) ∈ j.engines
      ((∀ e i g, ¬at_ e i g) → (∀ b, (b, id) ∉ j.stuck) → u.resumeSkim q id = u) ∧
      (∀ e i y, at_ e i (some y) → (∀ d k g, at_ d k g → d = e ∧ k = i ∧ g = some y) →
        j.span.1 + j.span.2 = i + 1 → y ≤ 2 ^ 32 → skAlg j.record < 4 →
        u.ownerOf (skMaster j.record % 2 ^ 48 + 4 * i) = some e → (u.pset e).mode ≠ .fenced →
        let rs := if y = 2 ^ 32 then none else some y
        ∀ v w g x m n, operandsRead (ownerKnown u j i e) j i = (v, some (g, x, m, n)) →
          v.skWrites (elementWrites j.record rs i g x m n).1 = (w, .ok ()) →
          u.resumeSkim q id = (flagsRaised w j e (elementWrites j.record rs i g x m n).2).endWork j.id e .updated) ∧
      ∀ b, (∀ e i g, ¬at_ e i g) → (b, id) ∈ j.stuck → (∀ a, (a, id) ∈ j.stuck → a = b) →
        let v := { u with skim := { u.skim with jobs := u.skim.jobs.map (fun (k : SkimJob) =>
          if k.id = j.id then { j with stuck := j.stuck.drop b } else k) } }
        exec .skimBlockQuantise { v with agenda := .skimBlockQuantise j.id b :: v.agenda } = .next (u.resumeSkim q id)

/-! ## Accesses of other packages that were kept (R329) -/

/-- Whether a kept access waits for a parked request: one of its own, or that of the notice which named its source. -/
def KeptWaits (u : State) (id : Nat) (q : FabricReq) : Prop :=
  (∃ p ∈ u.xl.parked, p.2.kind = .fabric ∧ p.2.ident = id) ∨
  (q.data = none ∧ ∃ i x r e k, u.noticeOf q = some (i, x) ∧ u.entryOf i x = some (r, e) ∧ eKind e.entry = 0 ∧ e.phase = .parked k)

/-- When a parked request is settled, an access of another package that was kept and waits for none is made again and answered: a
write by its completion, a read by its data; one whose translation fails again is kept, and parks its notice or itself. -/
def FabricRetries : Prop :=
  ∀ (u : State), (u.coll.fabric = [] → u.retryFabric = u) ∧
    ∀ id q, u.coll.fabric = [(id, q)] →
      let v := { u with coll := { u.coll with fabric := [] } }
      let kept (w : State) : State := { w with coll := { w.coll with fabric := [(id, q)] } }
      (KeptWaits u id q → u.retryFabric = u) ∧
      (¬KeptWaits u id q →
        (∀ d w, q.data = some d → v.vaWrite (q.addr % 2 ^ 48) d.length (ofBytes d) = (w, .ok ()) →
          u.retryFabric = w.sendPacket q.peer true .written) ∧
        (q.data = none → q.space = 0x18 →
          u.retryFabric = v.sendPacket q.peer true (.data (toBytes q.count (u.read (chunkKey + q.addr % 2 ^ 26) q.count)))) ∧
        (∀ w d, q.data = none → q.space ≠ 0x18 → v.vaRead (q.addr % 2 ^ 48) q.count = (w, .ok d) →
          u.retryFabric = w.sendPacket q.peer true (.data (toBytes q.count d))) ∧
        (∀ w f, q.data = none → q.space ≠ 0x18 → v.vaRead (q.addr % 2 ^ 48) q.count = (w, .error f) →
          (∀ i x, w.noticeOf q = some (i, x) → u.retryFabric = (kept w).parkNotice i x f) ∧
          (w.noticeOf q = none → u.retryFabric = ((kept w).park (f.request .fabric id q.space false 0 0)).1)))

/-! ## The end of a run (R295, R313) -/

/-- Run `i` has left its queue: it is gone, or kept while a notice of it is posted; FAILED of CQ_STATUS says how it ended and
ACTIVE whether another run of the queue is armed. -/
def RunLeft (u w : State) (i : Nat) (r : Run) (failed : Bool) : Prop :=
  let st := w.coll.status.look 0 r.queue
  { w with coll := u.coll, sched := u.sched } = u ∧ { w.coll with runs := u.coll.runs, status := u.coll.status } = u.coll ∧
  { w.sched with queues := u.sched.queues } = u.sched ∧ (∀ q, q ≠ r.queue → w.queue q = u.queue q) ∧
  w.queue r.queue = { u.queue r.queue with items := (u.queue r.queue).items.filter (fun k => k.id != i) } ∧
  (∀ j, j ≠ i → w.run j = u.run j) ∧
  w.run i = (if r.entries.any EntryState.isPosted then some { r with phase := .completed } else none) ∧
  (∀ q, q ≠ r.queue → w.coll.status.look 0 q = u.coll.status.look 0 q) ∧ st.getLsbD 17 = failed ∧
  st.getLsbD 16 = u.coll.runs.any (fun p => p.1 != i && p.2.queue == r.queue && match p.2.phase with
    | .armed | .failed .. => true
    | _ => false) ∧
  ∀ k, k ≠ 16 → k ≠ 17 → st.getLsbD k = (u.coll.status.look 0 r.queue).getLsbD k

/-- A run is over when all of its entries are complete, or once it has failed and none of its transfers is under way; a failed one
leaves a record in the fault queue of its queue, which is disabled. A run that is over is kept while a notice of it is posted. -/
def RunsSettle : Prop :=
  ∀ (u : State) (i : Nat) (r : Run), u.run i = some r → r.id = i → (u.coll.runs.map (·.1)).Pairwise (· < ·) →
    (∀ p ∈ u.sched.queues, ∀ it ∈ p.2.items, ∃ k, it = .run k) →
    let t := u.settleRun i
    match r.phase with
    | .armed =>
      if r.entries.any (fun e => e.phase != .completed) then t = u else RunLeft u t i r false
    | .failed cls _ =>
      if r.entries.any underTransfer then t = u
      else ∃ w, RunLeft u w i r true ∧
        let x := w.queueRecord r.queue 5 cls false (w.coll.status.look 0 r.queue)
        t = x.setQueue r.queue { x.queue r.queue with disabled := true }
    | .completed =>
      if r.entries.any EntryState.isPosted then t = u
      else { t with coll := u.coll } = u ∧ { t.coll with runs := u.coll.runs } = u.coll ∧ t.run i = none ∧
        ∀ j, j ≠ i → t.run j = u.run j
    | _ => t = u

/-! ## The save area of a pre-empted launch (R258, R259) -/

/-- The core at position `h` of the clusters that a launch holds. -/
def coreAt (l : Launch) (h : Nat) : Nat := 16 * l.held.getD (h / 16) 0 + h % 16

/-- The record of a launch as it reads back, `rd` giving the bytes of the save area. -/
def RecordSaved (v : State) (l : Launch) (rd : Nat → Nat → Nat) : Prop :=
  let places := 16 * l.held.length
  rd 0 256 = l.slate.toNat ∧ rd 0x100 8 = l.launchid.toNat ∧ rd 0x108 8 = l.walkers.length + 2 ^ 8 * l.held.length ∧
  rd 0x110 8 = l.triggered % 2 ^ 48 + 2 ^ 48 * l.early.toNat ∧ rd 0x118 8 = l.retired % 2 ^ 64 ∧ rd 0x120 8 = l.restart.length ∧
  rd 0x128 216 = 0 ∧
  (∀ k, k < 64 → match l.walkers[k]? with
    | some w => rd (0x200 + 16 * k) 8 = w.next % 2 ^ 64 ∧ rd (0x208 + 16 * k) 8 % 2 ^ 48 = w.stop % 2 ^ 48 ∧
        (w.owned = false → rd (0x208 + 16 * k) 8 / 2 ^ 48 = 2 ^ 8 * 0x7F) ∧
        (w.owned = true → ∀ x, x < l.held.length → l.held.getD x 0 = w.cluster → rd (0x208 + 16 * k) 8 / 2 ^ 48 = 2 ^ 8 * x)
    | none => rd (0x200 + 16 * k) 16 = 0) ∧
  (∀ h, h < 1024 → rd (0x600 + 8 * h) 8 = match (v.core (coreAt l h)).claim with
    | some (i, t) => if h < places ∧ (v.core (coreAt l h)).launch = some l.id then (i + 2 ^ 62 * t.toNat + 2 ^ 63) % 2 ^ 64 else 0
    | none => 0) ∧
  (∀ k, k < 1024 → rd (0x2600 + 8 * k) 8 = ((l.restart[k]?).map (fun r => r.1 % 2 ^ 64)).getD 0) ∧
  ∀ k, k < 16 → match (l.groups.getD [])[k]? with
    | some e => rd (0x4600 + 4256 * k) 160 = e.toNat ∧ ∀ h, h < 1024 → rd (0x46A0 + 4256 * k + 4 * h) 4 =
        match v.groups.find (recField e 128 0 8) with
        | some g => if h < places then (g.arrivals.look 0 (coreAt l h)).toNat else 0
        | none => 0
    | none => rd (0x4600 + 4256 * k) 4256 = 0

/-- The parts of an image lie inside its size and share no byte. -/
def Apart (size : Nat) (im : Image) : Prop :=
  (∀ p ∈ im, p.1 + p.2.1 ≤ size) ∧ im.Pairwise (fun p q => p.1 + p.2.1 ≤ q.1 ∨ q.1 + q.2.1 ≤ p.1)

/-- An image reads back from an offset on. -/
def ImageSaved (rd : Nat → Nat → Nat) (off : Nat) (im : Image) : Prop :=
  ∀ p ∈ im, rd (off + p.1) p.2.1 = p.2.2 % 2 ^ (8 * p.2.1)

/-- The positions that are saved: those that have started, in ascending order; one that stopped at a STEP of a STEPCLEAN launch
saves part 0 alone. -/
def PositionsSaved (v : State) (l : Launch) (ps : List SavedPos) : Prop :=
  (ps.map (·.pos)).Pairwise (· < ·) ∧
  (∀ h, (∃ p ∈ ps, p.pos = h) ↔ h < 16 * l.held.length ∧ coreAt l h ∈ l.started) ∧
  ∀ p ∈ ps, let n := coreAt l p.pos
    p.ended = l.finished.contains n ∧ p.fenced = ((v.core n).mode == .fenced) ∧
    (p.clean = true ↔ n ∉ l.finished ∧ slStepclean l.slate = true ∧
      (v.core n).sup.spec SR.trapcause &&& 0x7FFF = 0x1300) ∧
    ∀ x, x ∈ p.steps ↔ x ∈ (v.core n).prog.vars ∧ ∃ d o, x.kind = .step d o

/-- The scheduler saves a launch that has stopped: its record, and of each position that has started the parts of its context, with
its unit scratchpad unless it saves part 0 alone. The pieces of the save area lie apart in device memory. -/
def LaunchesAreSaved : Prop :=
  ∀ (u v : State) (l : Launch) (ps : List (Nat × Nat × Nat)),
    let saved := v.savedPositions l
    let sizes := (saved.map (fun p => if p.clean then 262144 else 262144 + 540672 + 292864 + 2 ^ 21))
    u.pieces (u.queue l.queue).saveBase.toNat (0x15000 + sizes.sum) true = (v, .ok ps) → memWf v.mem = true →
    (∀ p ∈ ps, v.deviceOk p.2.1 p.2.2 = true ∧ p.2.1 + p.2.2 ≤ 2 ^ 40) →
    ps.Pairwise (fun p q => p.2.1 + p.2.2 ≤ q.2.1 ∨ q.2.1 + q.2.2 ≤ p.2.1) →
    l.held.length ≤ 64 → l.held.Nodup → l.walkers.length ≤ 64 → l.restart.length ≤ 1024 → (l.groups.getD []).length ≤ 16 →
    (∀ p ∈ saved, Apart 262144 (contextImage v (coreAt l p.pos) 0) ∧ (p.clean = false →
      Apart 540672 (contextImage v (coreAt l p.pos) 1) ∧ Apart 292864 (contextImage v (coreAt l p.pos) 2))) →
    let w := savePositions l.held ps saved 0x15000 ((v.clearPieces ps).imageOut ps (v.launchImage l))
    let rd (o n : Nat) : Nat := w.readPieces (subPieces ps o n)
    PositionsSaved v l saved ∧ RecordSaved v l rd ∧ { w with mem := v.mem, dm := v.dm } = v ∧
    ∀ k p, saved[k]? = some p →
      let at_ := 0x15000 + (sizes.take k).sum
      let n := coreAt l p.pos
      ImageSaved rd at_ (contextImage v n 0) ∧
      (p.clean = false → ImageSaved rd (at_ + 262144) (contextImage v n 1) ∧
        ImageSaved rd (at_ + 802816) (contextImage v n 2) ∧
        ∀ i, i < 2 ^ 21 → rd (at_ + 1095680 + i) 1 = (memByte v.mem (unitKey n + i)).toNat)
end Sys2Proof.Claims

open Sys2Proof Sys2Proof.Machine Sys2Proof.Claims

/-! ## Slot operations complete -/

/-- R42 to R47: the NOPs of every class. -/
def Obligations.NopsIssue : Prop := Completes idleEffect
/-- R57, R59, R60. -/
def Obligations.IntegerResults : Prop := Completes intEffect
/-- R59, R61 to R65, R71. That a supervisor reads no handles is the model's choice (assumption 53). -/
def Obligations.MovesAndPredicates : Prop := Completes moveEffect ∧ Completes predEffect
/-- R66 to R70; R214 to R222: how a result rounds and which flags that raises, in every format, to an integer, of sums, products and
fused products, and of special operands. -/
def Obligations.ScalarFloatResults : Prop := Completes fpEffect ∧ Rounding
/-- R71, R73; R74, R82, R85, R182, R192: a depth of the loop stack above six, written or loaded, and a counter above 4,095. That
results due land before the trap is assumption 7. -/
def Obligations.SpecialRegisterWrites : Prop := Completes wrsrEffect ∧ NumbersFault
/-- R90, R86; R84, R85: an access of any kind to one address that fails a check. Acquire and release are recorded whatever SCOPE names
(assumption 6); that results due land before a trap is assumption 7. -/
def Obligations.ScalarLoads : Prop := Completes loadEffect ∧ AccessesFault
/-- R90, R89. Acquire and release are recorded whatever SCOPE names (assumption 6). -/
def Obligations.ScalarStores : Prop := Completes storeEffect
/-- R91. Acquire and release are recorded whatever SCOPE names (assumption 6). -/
def Obligations.LineLoadsAndStores : Prop := Completes lineMemEffect
/-- R92; R84, R85: a lane that fails a check. That an LDX into a write port with Z = 0 pushes zero in its inactive lanes is the
model's choice (assumption 56). Acquire and release are recorded whatever SCOPE names (assumption 6); that results due land before
a trap is assumption 7. -/
def Obligations.GathersAndScatters : Prop := Completes gatherEffect ∧ GathersFault
/-- R93, R94. Acquire and release are recorded whatever SCOPE names (assumption 6); that an AMOL's sum alone is tested is assumption
44. -/
def Obligations.Atomics : Prop := Completes atomicEffect
/-- R95 to R97; R84, R85, R175: a group load that fails a check at its requester, and a barrier operation of a group that is not
installed with the core as a member. That results due land before a trap is assumption 7. -/
def Obligations.GroupLoads : Prop := Completes groupLoadEffect ∧ GroupsFault
/-- R99 to R101. What PCFG and PRST drop of what is on its way to the port, and what PRST waits for, is the model's choice
(assumption 19). R99 to R102: the faults of pops, of pushes and of a record. That results due land before a trap is assumption
7. -/
def Obligations.PortSetup : Prop := Completes portEffect ∧ PortsFault
/-- R104 to R106. That an HTAKE reserves its slot although an offer is pending, because an earlier HTAKE still waits, is the model's
reading (assumption 40); which numbers HTAKE and HBACK fault with is its choice (assumption 53). That results due land before a
trap is assumption 7. -/
def Obligations.BufferHandles : Prop := Completes handleEffect ∧ HandlesFault
/-- R109, R111 to R118, R122. The flags of VMIN and VMAX are assumption 47. -/
def Obligations.VectorElements : Prop := Completes elementEffect
/-- R121 to R125. That VSCAN starts from −0.0, and that a reduction of a single element raises no flag, are assumption 47. -/
def Obligations.VectorPermutes : Prop := Completes permuteEffect
/-- R126 to R128. That a NaN widens to the canonical NaN is assumption 47. -/
def Obligations.VectorWidths : Prop := Completes widthEffect
/-- R129. -/
def Obligations.LaneMasks : Prop := Completes maskEffect
/-- R133 to R137. Where R134 gives a bound and no value, the value is the model's reading (assumption 13). -/
def Obligations.SpecialFunctions : Prop := Completes functionEffect
/-- R138 to R143. That a pushed line is zero beside the result of XAMAX and XSCALE is the model's choice (assumption 56; a
reading of R141's overflow is assumption 47). -/
def Obligations.BlockFormats : Prop := Completes blockEffect
/-- R146 to R158. -/
def Obligations.BeatsIssue : Prop := Completes beatEffect
/-- R166 to R169; R102, R164: what waits, stalls. Acquire and release are recorded whatever SCOPE names (assumption 6); cells, parking
and waits are assumption 18; that the pushes for which there is room land while their bundle stalls is assumption 19. -/
def Obligations.CopiesAndTags : Prop := Completes copyEffect ∧ WaitsStall
/-- R172 to R178; R70, R165: the floating-point trap at a delivery point. Acquire and release are recorded whatever SCOPE names
(assumption 6); that results due land before a trap is assumption 7. -/
def Obligations.FencesBarriersAndSteps : Prop :=
  Completes fenceEffect ∧ Completes barrierEffect ∧ Completes stepEffect ∧ FlagsTrap
/-- R180 to R182. Acquire and release are recorded whatever SCOPE names (assumption 6); the skim engines' owners and failures are
assumption 28. -/
def Obligations.CommandsAndEvents : Prop := Completes commandEffect
/-- R82. -/
def Obligations.LoopImages : Prop := Completes loopEffect
/-- R80, R81, R83. That SVSAVE takes the frozen context as it stands at its issue is assumption 43; where a supervisor's RETI
resumes is assumption 22; that its results in flight wait for the next entry is assumption 4. -/
def Obligations.SystemInstructions : Prop := Completes systemEffect ∧ SupervisorReturns

/-! ## EXIT and the branches -/

/-- R179: EXIT ends the core's issuing; the branch resolution and the loop-end test are not made. -/
def Obligations.ExitStopsTheCore : Prop :=
  ∀ (h : Hdr) (s : State), CanIssue (.exit h) h s → (s.core s.turn).inSup = false → flagsDue (seen (.exit h) h s) = 0 →
    ∃ t, exec (.exit h) s = .next t ∧
      { t with cores := s.cores } = s ∧ (∀ m, m ≠ s.turn → t.core m = s.core m) ∧
      let c := (begun (.exit h) s).core s.turn
      let d := t.core s.turn
      d.mode = .exiting ∧ { d with mode := c.mode, prog := c.prog, handlerIssues := c.handlerIssues } = c ∧
      d.prog.s = c.prog.s ∧ d.prog.empty = c.prog.empty ∧ d.prog.p = c.prog.p ∧ d.prog.pc = c.prog.pc ∧
      d.prog.racc = c.prog.racc ∧ d.prog.vars = c.prog.vars ∧
      d.prog.flight = c.prog.flight.map (fun f => { f with remain := f.remain - 1 }) ∧
      d.prog.spec SR.issues = c.prog.spec SR.issues + 1 ∧
      ∀ k, k ≠ SR.issues → d.prog.spec k = c.prog.spec k

/-- R36, R37, R40, R41, R75, R77. That a call writes its link register also while that is empty is assumption 22. -/
def Obligations.BranchesGo : Prop :=
  ∀ (i : Instr) (s : State) (j : Jump), CanBranch i s → jumpOf (branchSeen i s) i = some j →
    (∀ r, j.reg = some r → (branchSeen i s).x.isEmpty r.toNat = false) →
    ∃ t, CtxIssued s.turn (JumpCtx (encode i).length j) (begun i s) t ∧ exec i s = .next t

/-- R75 to R77: a loop that starts, a loop of no trips, whose end bundle may not be fetched, and a loop beyond the sixth level,
all of them also in the end bundle of outer levels, where the loop-end test comes first. That results due land before the trap is
assumption 7; a depth above six is assumption 22; through which caches, and of an illegal header, the length of the end bundle
is read is assumptions 10 and 53. -/
def Obligations.LoopsStart : Prop :=
  ∀ (i : Instr) (s : State) (r : Option (BitVec 6)) (count fin : W64), CanBranch i s →
    loopOf (branchSeen i s) i = some (r, count, fin) →
    (∀ k, r = some k → (branchSeen i s).x.isEmpty k.toNat = false) →
    (count ≠ 0 → ((branchSeen i s).x.spec SR.ldepth).toNat < 6 → NoLoopEnd (branchSeen i s).x →
      ∃ t, CtxIssued s.turn (LoopStarts count fin) (begun i s) t ∧ exec i s = .next t) ∧
    (count ≠ 0 → levelsLeft (branchSeen i s).x < 6 →
      ∃ t, CtxIssued s.turn (LoopPushed count fin) (begun i s) t ∧ exec i s = .next t) ∧
    (count ≠ 0 → 6 ≤ levelsLeft (branchSeen i s).x →
      exec i s = .next ((begun i s).trap s.turn ⟨1, 0, false, 0⟩ (s.ctx s.turn).pc (s.ctx s.turn).rep)) ∧
    (∀ len, count = 0 → lengthAt (begun i s) s.turn fin = .ok len →
      ∃ t, CtxIssued s.turn (GoesTo (fin + BitVec.ofNat 64 (8 * len))) (begun i s) t ∧ exec i s = .next t) ∧
    (∀ t, count = 0 → lengthAt (begun i s) s.turn fin = .error t →
      exec i s = .next ((begun i s).trap s.turn t (s.ctx s.turn).pc (s.ctx s.turn).rep)) ∧ LengthsOfEndBundles

/-- R75, R76: LPOP, also in the end bundle of outer levels, where the loop-end test comes first. That results due land before the
trap is assumption 7; a depth above six is assumption 22. -/
def Obligations.LevelsPop : Prop :=
  (∀ (n : BitVec 3) (s : State), CanBranch (.lpop n) s →
    (n.toNat ≤ levelsLeft (branchSeen (.lpop n) s).x →
      ∃ t, CtxIssued s.turn (LevelsPopped n.toNat) (begun (.lpop n) s) t ∧ exec (.lpop n) s = .next t) ∧
    (levelsLeft (branchSeen (.lpop n) s).x < n.toNat →
      exec (.lpop n) s = .next ((begun (.lpop n) s).trap s.turn ⟨1, 1, false, 0⟩ (s.ctx s.turn).pc (s.ctx s.turn).rep))) ∧
  ∀ (n : BitVec 3) (s : State), CanBranch (.lpop n) s → NoLoopEnd (branchSeen (.lpop n) s).x →
    (n.toNat ≤ ((branchSeen (.lpop n) s).x.spec SR.ldepth).toNat →
      ∃ t, CtxIssued s.turn (LevelsGone n.toNat) (begun (.lpop n) s) t ∧ exec (.lpop n) s = .next t) ∧
    (((branchSeen (.lpop n) s).x.spec SR.ldepth).toNat < n.toNat →
      exec (.lpop n) s = .next ((begun (.lpop n) s).trap s.turn (lovf 1) (s.ctx s.turn).pc (s.ctx s.turn).rep))

/-- R75, R76: the loop-end test, in a bundle without a branch word: one level, and levels that share an end. The test after
any other slot operation is `LoopTested`, which each of the completion statements above holds. -/
def Obligations.LoopEndTest : Prop :=
  ∀ (h : Hdr) (s : State) (d : Nat), CanIssue (.snop h) h s →
    (seen (.snop h) h s).x.spec SR.ldepth = BitVec.ofNat 64 (d + 1) → d < 6 →
    (seen (.snop h) h s).x.spec (SR.le d) = (s.ctx s.turn).pc →
    ((seen (.snop h) h s).x.spec (SR.lc d) ≠ 1 →
      ∃ t, CtxIssued s.turn LevelRepeats (begun (.snop h) s) t ∧ exec (.snop h) s = .next t) ∧
    ((seen (.snop h) h s).x.spec (SR.lc d) = 1 →
      (d = 0 ∨ (seen (.snop h) h s).x.spec (SR.le (d - 1)) ≠ (s.ctx s.turn).pc) →
      ∃ t, CtxIssued s.turn LevelEnds (begun (.snop h) s) t ∧ exec (.snop h) s = .next t) ∧
    (∀ k, k ≤ d → (∀ l, l ≤ d → k < l → (seen (.snop h) h s).x.spec (SR.lc l) = 1) →
      (∀ l, l ≤ d → k ≤ l → (seen (.snop h) h s).x.spec (SR.le l) = (s.ctx s.turn).pc) →
      (seen (.snop h) h s).x.spec (SR.lc k) ≠ 1 →
      ∃ t, CtxIssued s.turn (LevelsShareEnd k) (begun (.snop h) s) t ∧ exec (.snop h) s = .next t)

/-- R38: a branch word that reads an empty register has not issued. -/
def Obligations.BranchStallsOnEmpty : Prop :=
  ∀ (i : Instr) (s : State) (r : BitVec 6), CanBranch i s → branchReads i = some r →
    (branchSeen i s).x.isEmpty r.toNat = true → exec i s = .next (stalled i s)

/-! ## Operands, landing, traps -/

/-- R58, R189 step 4, R190: with an empty source whose FE bit is set the full/empty trap is taken, and it names the first
such source; else with an empty source or destination the bundle has not issued. That results due land before the trap is
assumption 7. -/
def Obligations.EmptyOperandsStopTheIssue : Prop :=
  ∀ (i : Instr) (h : Hdr) (s : State) (e : Effect), CanIssue i h s → operandsOf (seen i h s) i = some e →
    (∀ k r, firstEmpty (seen i h s).c true [] 0 e.srcs = some (k, r) →
      exec i s = .next ((begun i s).trap s.turn
        ⟨2, 0, false, BitVec.ofNat 64 (h.slot.val * 2 ^ 20 + k * 2 ^ 18 + r.info)⟩ (s.ctx s.turn).pc (s.ctx s.turn).rep)) ∧
    (firstEmpty (seen i h s).c true [] 0 e.srcs = none →
      (firstEmpty (seen i h s).c false [] 0 e.srcs ≠ none ∨ ∃ d ∈ e.dsts, dstEmpty (seen i h s).c d = true) →
      exec i s = .next (stalled i s))

/-- R27, R58: an operation whose guard is false takes no part; the issue is that of an empty bundle. -/
def Obligations.FalseGuardDoesNothing : Prop :=
  ∀ (i : Instr) (h : Hdr) (s : State), (s.core s.turn).runs = true → (s.core s.turn).landFull = false → WellFormed i →
    hdrOfInstr i = some h → ((begun i s).ctx s.turn).pred h.pred.toNat = h.neg →
    ∃ t, Issued s.turn 2 [] [] [] (begun i s) t ∧ exec i s = .next t

/-- R7, R186, R194: of the results due at an issue that write one scalar register, the one of the highest slot stays, and a
result put back from a retake bank lands after every other (assumption 21); a register that none writes is as it was; every
flag that they carry is raised; predicates, masks, tile cells, special registers, tags and pushed lines land alike; what lands
while the bundle at that issue stalls is the clears of TCLR, once (assumption 17). R57, R108, R151, R155, R160, R205: results for s0,
p0, k0 and the discard specifier, and what beats change of the array. R102, R203: what lands while a push has no room; that the others
of its issue land meanwhile is the model's choice (assumption 19). -/
def Obligations.ResultsLand : Prop :=
  (∀ (c : Core) (r : Nat), r ≠ 0 →
    ((∀ f ∈ dueResults c, writesReg r f = false) → c.landDue.ctx.sreg r = c.ctx.sreg r) ∧
    (∀ f ∈ dueResults c, ∀ v, f.eff = .sreg r v → f.late = false →
      (∀ g ∈ dueResults c, writesReg r g = true → g = f ∨ (g.slot < f.slot ∧ g.late = false)) →
      c.landDue.ctx.sreg r = v) ∧
    (∀ f ∈ dueResults c, ∀ v, f.eff = .sreg r v → f.late = true →
      (∀ g ∈ dueResults c, writesReg r g = true → g.late = true → g = f) → c.landDue.ctx.sreg r = v) ∧
    (∀ f ∈ dueResults c, c.landDue.ctx.spec SR.fpflags &&& BitVec.ofNat 64 f.flags = BitVec.ofNat 64 f.flags) ∧
    c.landDue.ctx.flight = c.ctx.flight.filter (fun f => f.remain != 0) ∧ OthersLand c ∧ ClearsLand c) ∧
  ∀ c, DiscardsLand c ∧ ArrayLands c ∧ RoomTaken c

/-- R74, R197, R81, R195: a program trap taken outside a handler; the return of a core that is in its handler, as RETI makes
it; and a trap with the return right after it, which puts the frozen results back. That what the handler has left outstanding counts
as issued before any later trap is the model's choice (assumption 21). -/
def Obligations.ProgramTrapAndReturn : Prop :=
  (∀ (c : Core) (b : Bank), c.progBank = some b → Returns c (c.leaveHandler b) b) ∧
  (∀ (h : Hdr) (s : State) (b : Bank), CanIssue (.reti h) h s → (s.core s.turn).inSup = false →
    ((begun (.reti h) s).core s.turn).progBank = some b → (s.ctx s.turn).rep = 0 →
    ∃ w t, Issued s.turn 2 [] [] [] (begun (.reti h) s) w ∧ exec (.reti h) s = .next t ∧
      { t with cores := w.cores } = w ∧ (∀ m, m ≠ s.turn → t.core m = w.core m) ∧ Returns (w.core s.turn) (t.core s.turn) b) ∧
  ∀ (c : Core) (t : Trap) (pc : W64) (rep : Nat), c.progBank = none → t.sys = false → Trap.Fits t rep →
    (let d := c.takeTrap t pc rep
     { d with progBank := c.progBank, handlerIssues := c.handlerIssues, prog := c.prog } = c ∧
     d.progBank = some ⟨landingOrder c.prog.flight, c.prog.sticky⟩ ∧ d.handlerIssues = 0 ∧
     { d.prog with sticky := c.prog.sticky, flight := c.prog.flight, pc := c.prog.pc, rep := c.prog.rep,
                   cur := c.prog.cur, sr := c.prog.sr } = c.prog ∧
     d.prog.sticky = [] ∧ d.prog.flight = [] ∧ d.prog.cur = none ∧ d.prog.rep = 0 ∧
     d.prog.pc = c.prog.spec SR.ptvec ∧ TrapNoted t pc rep c.prog d.prog ∧
     ∀ b, d.progBank = some b → let e := d.leaveHandler b
       Returns d e b ∧ e.prog.pc = pc ∧ e.prog.rep = rep ∧ e.prog.sticky = c.prog.sticky ∧
       e.prog.flight = (landingOrder c.prog.flight).map (fun f => { f with late := true }))

/-- R198, R200, R202: a system trap, and any further trap of a handler, stop the core; the supervisor's copies of the trap
registers receive the trap, a handler's as a double trap; nothing else of the core changes. -/
def Obligations.SystemTrapsAndDoubleTraps : Prop :=
  ∀ (c : Core) (t : Trap) (pc : W64) (rep : Nat), Trap.Fits t rep → c.progBank.isSome = true ∨ t.sys = true →
    let d := c.takeTrap t pc rep
    let u : Trap := if c.progBank.isSome then
        ⟨21, 0, true, BitVec.ofNat 64 (t.sys.toNat * 2 ^ 15 + t.cls * 2 ^ 8 + t.num)⟩
      else t
    d.mode = .trapping ∧ d.loadedBeats = none ∧
    { d with mode := c.mode, sysBank := c.sysBank, loadedBeats := c.loadedBeats, reloaded := c.reloaded, prog := c.prog,
             sup := c.sup } = c ∧
    d.sysBank = some ⟨landingOrder c.prog.flight, c.prog.sticky⟩ ∧
    d.prog = { c.prog with flight := [], pc := pc, rep := rep, cur := none } ∧
    { d.sup with sr := c.sup.sr } = c.sup ∧ TrapNoted u pc rep c.sup d.sup

/-- R74, R83, R192: the privilege traps of program mode. That results due land before the trap is assumption 7. -/
def Obligations.ProgramModePrivilege : Prop :=
  ∀ (i : Instr) (h : Hdr) (s : State) (num : Nat), CanIssue i h s → (s.core s.turn).inSup = false →
    (match i with
      | .wrsr _ o => SrcsReady (seen i h s).c [] [srcRef o.a] ∧ specReadOnly o.num.toNat = true ∧ num = 1
      | .svsave _ o | .svload _ o => SrcsReady (seen i h s).c [] [srcRef o.base] ∧ num = 2
      | .reti _ => (s.ctx s.turn).rep = 0 ∧ (seen i h s).c.progBank = none ∧ num = 3
      | _ => False) →
    exec i s = .next ((begun i s).trap s.turn ⟨18, num, true, 0⟩ (s.ctx s.turn).pc (s.ctx s.turn).rep)

/-- R192, R200, R361 to R363: supervisor mode has none of the vector, special-function and matrix operations, of the step,
barrier and handle operations, of the line-form loads and stores and of the port operations; the attempt fences the core: an error
of class SVFAULT with the action 3 is counted and recorded. That results due land before it is assumption 7, where the ring of the
error log stands assumption 38. -/
def Obligations.SupervisorModePrivilege : Prop :=
  (∀ (i : Instr) (h : Hdr) (s : State), CanIssue i h s → (s.core s.turn).inSup = true →
    ((∃ e, [elementEffect, permuteEffect, widthEffect, maskEffect, functionEffect, blockEffect, beatEffect].findSome?
        (fun f => f (seen i h s) i) = some e ∧
        SrcsReady (seen i h s).c [] e.srcs ∧ DstsReady (seen i h s).c e.dsts e.pushes ∧
        (seen i h s).x.srStall e.mode = false) ∨
      (∃ e, programOnlyForm (seen i h s) i = some e ∧ SrcsReady (seen i h s).c [] e.srcs ∧
        DstsReady (seen i h s).c e.dsts e.pushes ∧ e.ready)) →
    exec i s = .next ((begun i s).supervisorFault s.turn) ∧
    (((begun i s).supervisorFault s.turn).core s.turn).mode = .fenced) ∧ SupervisorFaultFences ∧ RecordsAreWritten

/-- R149, R150, R153, R148: what the beats that load the stationary and streaming operands do when they land: 0x01 MWLD, 0x03
MSHF, 0x09 MSCL, which writes the plane of the shadow buffer, 0x0A MXSC, which writes the streaming scales and nothing else. -/
def Obligations.OperandBeatsLand : Prop :=
  ∀ (b : Beat) (a : ArrayState), let o := MF.dec b.word; let d := (landBeat b a).1; let opc := b.word.toNat >>> 57
    (opc = 0x01 → d.active = a.active ∧ ∀ k, k < 128 → bufRow d.shadow k =
      if k / 8 = o.row.toNat % 16 then segment b.src (k % 8) else bufRow a.shadow k) ∧
    (opc = 0x03 → d.active = a.active ∧ bufRow d.shadow 0 = segment b.src 0 ∧
      ∀ k, k < 127 → bufRow d.shadow (k + 1) = bufRow a.shadow k) ∧
    (opc = 0x09 → d.active = a.active ∧ d.shadow = a.shadow ∧
      (if a.activeB then d.planeA else d.planeB) = segment b.src 0) ∧
    (opc = 0x0A → d = { a with sc := b.src.extractLsb' (64 * (o.low.toNat / 2 ^ 16)) 64 }) ∧
    (opc ≠ 0x0A → d.sc = a.sc) ∧ d.activeB = a.activeB

/-- R151 to R157: what a beat of signed bytes, and of every other pair of types, adds to the row of its bank, with the tags and
the flags; what the zeroing of MDRN, MZERO and MANCH clear. How tags and NV come of infinities and NaNs together is
assumption 47. -/
def Obligations.AccumulatorBeatsLand : Prop :=
  ∀ (b : Beat) (a : ArrayState), a.acc.Pairwise (fun p q => p.1 < q.1) →
    let o := MF.dec b.word; let d := (landBeat b a).1; let opc := b.word.toNat >>> 57
    (∀ zero, opc = (if zero then 0x05 else 0x04) → o.wty = 0 → o.sty = 0 → a.anchor o.bank ≤ 64 → o.low.toNat / 2 ^ 17 < 2 →
      { d with acc := a.acc } = a ∧
      (∀ bank row, accKey bank row ≠ accKey o.bank o.row.toNat → d.row bank row = a.row bank row) ∧
      ∀ c, c < 128 →
        let x := a.row o.bank o.row.toNat
        let y := d.row o.bank o.row.toNat
        if c / 64 = o.low.toNat / 2 ^ 17 then
          (if zero || x.tag c == .finite then
            y.tag c = .finite ∧ y.value c = acc96 ((if zero then 0 else x.value c) +
              byteDot b o.trans (c % 64) * 2 ^ (64 - a.anchor o.bank).toNat)
          else y.tag c = x.tag c ∧ y.value c = x.value c)
        else y.tag c = x.tag c ∧ y.value c = x.value c) ∧
    (∀ zero n, opc = (if zero then 0x05 else 0x04) → macClass o.wty o.sty = some n → n * (o.low.toNat / 2 ^ 17) + n ≤ 128 →
      ContributionLands zero n b a) ∧
    (opc = 0x06 → { d with acc := a.acc } = a ∧
      (∀ bank row, accKey bank row ≠ accKey o.bank o.row.toNat → d.row bank row = a.row bank row) ∧
      let e := if tyWidth o.wty = 32 then 16 else 32
      let first := o.seg.toNat * e % 128
      ∀ c, c < 128 →
        let x := a.row o.bank o.row.toNat
        let y := d.row o.bank o.row.toNat
        if first ≤ c ∧ c < first + e then y.tag c = .finite ∧ y.value c = 0 else y.tag c = x.tag c ∧ y.value c = x.value c) ∧
    (opc = 0x07 → { d with acc := a.acc } = a ∧ ∀ bank row, row < 64 → d.row bank row =
      if bank = o.bank ∧ (row + 64 - o.row.toNat % 64) % 64 < o.low.toNat / 2 ^ 13 + 1 then AccRow.zero
      else a.row bank row) ∧
    (opc = 0x08 → d.anchor o.bank = (o.low.extractLsb' 9 10).toInt ∧ d.anchor (!o.bank) = a.anchor (!o.bank) ∧
      ∀ bank row, row < 64 → d.row bank row = if bank = o.bank then AccRow.zero else a.row bank row)

/-! ## Memory -/

/-- R4: a number written is read back, its lowest byte at the lowest address, and no other byte changes. -/
def Obligations.MemoryIsLittleEndian : Prop :=
  ∀ (s : State) (k n v : Nat), memWf s.mem = true →
    (s.write k n v).read k n = v % 2 ^ (8 * n) ∧
    (∀ i, i < n → memByte (s.write k n v).mem (k + i) = BitVec.ofNat 8 (v / 2 ^ (8 * i))) ∧
    (∀ j, j < k ∨ k + n ≤ j → memByte (s.write k n v).mem j = memByte s.mem j) ∧
    { s.write k n v with mem := s.mem } = s

/-- R89 to R94, R82: a store or an atomic changes no byte outside those that its address names, in program mode and in a
supervisor mode that it leaves the core in; one that it is fenced in is `SupervisorModePrivilege`'s. -/
def Obligations.StoresKeepOtherBytes : Prop :=
  ∀ (i : Instr) (h : Hdr) (s t : State), isStore i = true → WellFormed i → hdrOfInstr i = some h →
    ((s.core s.turn).inSup = true → (t.core s.turn).inSup = true) → memWf s.mem = true → exec i s = .next t →
    ∀ k, (∀ r ∈ storedAt (seen i h s) i, k < r.1 ∨ r.1 + r.2 ≤ k) → memByte t.mem k = memByte s.mem k

/-- Every step keeps memory in its canonical form. -/
def Obligations.StepKeepsMemoryCanonical : Prop :=
  ∀ s t : State, memWf s.mem = true → step s = .next t → memWf t.mem = true

/-! ## Reset, decoding, the step -/

/-- R356: the values that the registers read at reset, and the empty memory (R366 for on-chip memory). -/
def Obligations.ResetValues : Prop :=
  (∀ o v, (o, v) ∈ ([(0x0, 0), (0x8, 0), (0x408, 0), (0x410, 0), (0x100008, 0), (0x100010, 256), (0x200000, 1000), (0x200008, 0),
      (0x200100, 0), (0x200110, 4), (0x200118, 0), (0x500008, 0), (0x500010, 0), (0x600000, 0), (0x600008, 0),
      (0x600010, 100000), (0x600100, 0), (0x600120, 0), (0x600128, 4), (0x602100, 0), (0x602200, 0), (0x640000, 0),
      (0x800000, 0), (0x800008, 4), (0x900000, 2400), (0x900008, 0)] : List (Nat × W64)) → State.reset.regRead o = v) ∧
  memWf State.reset.mem = true ∧ (∀ k, memByte State.reset.mem k = 0) ∧
  (∀ n, (State.reset.core n).mode = .idle) ∧ (∀ q, (State.reset.queue q).disabled = true)

/-- Words written out from the encodings of R20, R27, R28, R36 and the slot tables; R48: a word that is illegal, for each reason; R49:
what a fetch reports. That a misaligned address that does not translate either is reported as misaligned is the model's choice
(assumption 44). -/
def Obligations.WordsDecode : Prop :=
  parse 1 0x0221C880FFFFFFFD = some (.addImm ⟨1, false, 2⟩ ⟨7, ⟨8, false⟩, 0xFFFFFFFD⟩) ∧
  parse 2 0x0211CC5000000040 = some (.ld ⟨2, false, 1⟩ ⟨7, ⟨12, false⟩, 2, true, 0, 0, 64⟩) ∧
  parse 8 0x3000000000000000 = some (.trap ⟨8, false, 0⟩ ⟨0⟩) ∧
  parse 8 0x3200000000000000 = some (.reti ⟨8, false, 0⟩) ∧
  parse 8 0x2400000000000000 = some (.exit ⟨8, false, 0⟩) ∧
  parseBranch 0x00BFFFEC00000000 0 = some (.brc false 2 0xFFFFB) ∧
  (∀ e ∈ illegalWords, decodeBundle e.1 0 = .error ⟨e.2.1, e.2.2.1, e.2.2.2⟩) ∧ FetchesFault

/-- R27, R28, R36, R39: the decoder reads back every slot word and every branch word that the encoder writes. -/
def Obligations.DecodingReadsEncoding : Prop :=
  ∀ i : Instr, WellFormed i →
    (∀ h, hdrOfInstr i = some h → parse h.slot (encodeWord i) = some i) ∧
    (branchForm i ≠ 0 → parseBranch (encodeWord i) (encodeWord1 i) = some i) ∧
    (hdrOfInstr i ≠ none ∨ branchForm i ≠ 0 → ∀ x, decodeBundle (encode i) x = .ok (soloBundle i))

/-- R189 step 1: where the words at the program counter are those of a well-formed instruction, no trap is due and none is
under way, a step with an empty agenda is that instruction at the state in which its bundle is under way. -/
def Obligations.StepRunsTheDecodedInstruction : Prop :=
  ∀ (i : Instr) (s u : State), WellFormed i → (hdrOfInstr i ≠ none ∨ branchForm i ≠ 0) →
    s.agenda = [] → (s.core s.turn).runs = true → ((s.modCore s.turn Core.countCycle).core s.turn).dueTrap = none →
    (s.ctx s.turn).cur = none → (s.ctx s.turn).rep = 0 → (s.ctx s.turn).pc.toNat % 8 = 0 →
    fetchWords (s.modCore s.turn Core.countCycle) s.turn (s.ctx s.turn).pc (encode i).length = (u, .ok (encode i)) →
    step s = exec i (underWay i u)

/-- R20, R189: an instruction's meaning is the issue of the bundle that holds it alone. -/
def Obligations.InstructionIsItsBundle : Prop :=
  ∀ (i : Instr) (s : State), WellFormed i → (hdrOfInstr i ≠ none ∨ branchForm i ≠ 0) → (s.ctx s.turn).rep = 0 →
    exec i s = .next (issueWhole s.turn (soloBundle i) s)

/-- R191: a bundle that the nullifier skips would have issued with the same effect, as would each repetition of it; each counts one
issue. That no cycle passes is assumption 44. -/
def Obligations.NullifierChangesNothing : Prop :=
  (∀ (b : Bundle) (n : Nat) (s : State), (s.ctx n).rep = 0 → b.rep = 0 → (s.ctx n).nullified b = true →
    skipReps n b 1 s = issueWhole n b s) ∧ RepetitionsSkipped

/-! ## Events -/

/-- Writes through the registers window, to event counters, interrupt entries and CORE_CTL: R15, R323, R327, R332, R355 to
R360, R371. Assumption 30 is the order of CORE_CTL's parts, 35 what XL_ROOT drops and XL_INVAL discards, 38 what a ring's registers
do, 5 that an event whose condition does not hold changes nothing. -/
def Obligations.WindowWritesTakeEffect : Prop := Happens windowTable
/-- What the host submits reaches its queue: R242 to R244, R293 to R295. Assumption 23 is the order of the refusals and the KIND
of their records, 24 what a reset of a collective queue discards and what a held load orders, 48 that a host write arrives
whole. -/
def Obligations.HostSubmissionsReachQueues : Prop := Happens queueTable
/-- Boot, the mailbox, alarms, power, cooling and the sideband: R366 to R375. SHAKE256 and ML-DSA-65 are the standards' as the
model writes them (assumption 11), the fuses, and the key after an erasure, assumption 58; 16 is what boot finds, 32 the order
of an image's tests and the mailbox, 34 power and temperature, 37 what a reset keeps, 5 events whose condition does not
hold. -/
def Obligations.ServiceEvents : Prop := Happens serviceTable ∧ BootProceeds
/-- Errors, the rebuild, training and the links: R315, R316, R337 to R341, R361 to R364. Ladders and the count of records are
assumption 31, self-refresh 50, the order of PARFIX and LOST beside the error's own action 51, flits, packets and their replay
12, events whose condition does not hold 5. -/
def Obligations.HardwareEvents : Prop := Happens hardwareTable ∧ PacketsLeave
/-- What happens at a core beside its issues: R87, R97 to R106, R166, R176 to R181, R187, R189 to R202; a bundle of two scalar
operations issues with the effects of both, one of any operations that only yield results with the effects of all (R12, R27, R89,
R189); what arrives behind a write in flight (R187, R202); a step-boundary stop (R177, R194). Assumption 4 is the supervisor's own state, 5 events whose condition
does not hold, 6 what releases wait for, 7 landing before a trap, 17 TFIND's kept bits, 19 the ports, 21 that a line is held whole, 40 handles, 43 SVSAVE and
SVLOAD, 44 the nullifier and fetch traps, 49 group loads. -/
def Obligations.CoreEvents : Prop := Happens coreTable ∧ PairsIssue ∧ BundlesIssue ∧ ArrivalsHeld ∧ StepStops
/-- Copies, invalidations, parked requests, the host's window: R166, R167, R319, R327 to R329, R354. A PARKID is free (assumption
9), cells, parking and waits are 18, what is kept of another package's access 27, invalidations 35, host accesses 48, events whose
condition does not hold 5. -/
def Obligations.EngineEvents : Prop := Happens engineTable ∧ FabricRetries
/-- Admission, steps, completion and pre-emption of launches: R209, R246 to R261. The scheduler's choices are assumption 39, the
save area and the resumption 42, launchid 8, the supervisor's own state 4, events whose condition does not hold 5. -/
def Obligations.LaunchEvents : Prop := Happens launchTable ∧ LaunchesResume ∧ SchedulerConsiders ∧ LaunchesAreSaved
/-- The collective sequencer: R295 to R297, R303 to R313. Duplicates are assumption 25, room and spans 26, the transfers as steps,
routes and backoffs 27, other packages 12, events whose condition does not hold 5. -/
def Obligations.CollectiveEvents : Prop :=
  Happens collectiveTable ∧ RunsFail ∧ RunsSettle ∧ LocalCopiesMove ∧ DeliveriesJoin ∧ ReductionsCombine
/-- The skim engines: R347 to R352: the new master, moments and working copy of an element (R349), the guard (R348), the blocks
and their codes (R350), the flags. An engine's part as one step, owners and failures are assumption 28, the blocks' order
and flags 29, powers of β 13, events whose condition does not hold 5. -/
def Obligations.SkimEvents : Prop :=
  Happens skimTable ∧ ElementsUpdate ∧ GuardsSkip ∧ SingleElementIsUpdated ∧ OthersElementsAreLeft ∧ BlocksQuantise ∧
    SkimResumes

/-- R372: in a package that has halted, the events that nothing answers change nothing. That such an event is consumed is
the model's choice (assumption 5). -/
def Obligations.HaltedPackageAnswersLittle : Prop :=
  ∀ (m : Move) (i : Instr) (u : State), u.sec.halted = true → moveInstr m = some i → answeredWhenHalted m = false →
    exec i { u with agenda := m :: u.agenda } = .next u

/-- R249 to R251: the ranges that a launch starts with hold every index of its space once, and serving a step takes one index
out of what remains, or none and loses nothing. -/
def Obligations.IndicesAreHandedOutOnce : Prop :=
  (∀ (x : BitVec 2048) (clusters taken : List Nat), clusters ≠ [] → 0 < slGrain x →
    (partition x clusters taken).flatMap (fun w => List.range' w.next (w.stop - w.next)) = List.range (slSteps x)) ∧
  ∀ (l : Launch) (k : Nat), (l.walkers.map (·.cluster)).Nodup → (slOrdered l.slate = true → l.walkers.length ≤ 1) →
    match l.serve k with
    | (l', some (i, _)) => (remaining l).Perm (i :: remaining l')
    | (l', none) => (remaining l').Perm (remaining l)
end

