-- ==== Sys2Proof/Laws/Encoding.lean ====
section
/-! SUPPORT. The fields of an encoded word: every operand record of a slot word comes back from it, and so does the guard. -/
namespace Sys2Proof

theorem slotWord_toNat (h : Hdr) (opc body : Nat) (ho : opc < 128) (hb : body < 2 ^ 52) :
    (slotWord h opc body).toNat = opc * 2 ^ 57 + h.neg.toNat * 2 ^ 56 + h.pred.toNat * 2 ^ 52 + body := by
  have h1 : h.neg.toNat ≤ 1 := by cases h.neg <;> simp
  have h2 := h.pred.isLt
  rw [slotWord, BitVec.toNat_ofNat]
  omega

theorem slotWord_body (h : Hdr) (opc body : Nat) (ho : opc < 128) (hb : body < 2 ^ 52) :
    ∃ k, (slotWord h opc body).toNat = body + 2 ^ 52 * k :=
  ⟨opc * 2 ^ 5 + h.neg.toNat * 2 ^ 4 + h.pred.toNat, by rw [slotWord_toNat h opc body ho hb]; omega⟩

theorem fld_slotWord (h : Hdr) (opc body : Nat) (ho : opc < 128) (hb : body < 2 ^ 52) (n lo : Nat) (hn : lo + n ≤ 52) :
    fld n (slotWord h opc body) lo = BitVec.ofNat n (body / 2 ^ lo) := by
  obtain ⟨k, hk⟩ := slotWord_body h opc body ho hb
  apply BitVec.eq_of_toNat_eq
  rw [fld, hk, BitVec.toNat_ofNat, BitVec.toNat_ofNat, Nat.shiftRight_eq_div_pow]
  obtain ⟨d, hd⟩ : ∃ d, 52 = lo + (n + d) := ⟨52 - lo - n, by omega⟩
  rw [hd, Nat.pow_add, Nat.mul_assoc, Nat.add_mul_div_left _ _ (Nat.two_pow_pos lo), Nat.pow_add, Nat.mul_assoc,
    Nat.add_mul_mod_self_left]

theorem bit_slotWord (h : Hdr) (opc body : Nat) (ho : opc < 128) (hb : body < 2 ^ 52) (i : Nat) (hi : i < 52) :
    bit (slotWord h opc body) i = decide (body / 2 ^ i % 2 = 1) := by
  obtain ⟨k, hk⟩ := slotWord_body h opc body ho hb
  rw [bit, hk, Nat.testBit_eq_decide_div_mod_eq]
  obtain ⟨d, hd⟩ : ∃ d, 52 = i + (1 + d) := ⟨52 - i - 1, by omega⟩
  rw [hd, Nat.pow_add, Nat.mul_assoc, Nat.add_mul_div_left _ _ (Nat.two_pow_pos i), Nat.pow_add, Nat.mul_assoc,
    Nat.pow_one, Nat.add_mul_mod_self_left]

/-- The opcode of a slot word. -/
theorem opc_slotWord (h : Hdr) (opc body : Nat) (ho : opc < 128) (hb : body < 2 ^ 52) :
    (slotWord h opc body).toNat >>> 57 = opc := by
  have h1 : h.neg.toNat ≤ 1 := by cases h.neg <;> simp
  have h2 := h.pred.isLt
  rw [slotWord_toNat h opc body ho hb, Nat.shiftRight_eq_div_pow]
  omega

/-- The guard of a slot word. -/
theorem hdrOf_slotWord (h : Hdr) (opc body : Nat) (ho : opc < 128) (hb : body < 2 ^ 52) :
    hdrOf h.slot (slotWord h opc body) = h := by
  obtain ⟨slot, neg, pred⟩ := h
  have h2 := pred.isLt
  have ht := slotWord_toNat ⟨slot, neg, pred⟩ opc body ho hb
  simp only [hdrOf, Hdr.mk.injEq, true_and]
  constructor
  · rw [bit, ht, Nat.testBit_eq_decide_div_mod_eq]
    cases neg <;> simp only [Bool.toNat_true, Bool.toNat_false, decide_eq_true_eq, decide_eq_false_iff_not] <;> omega
  · apply BitVec.eq_of_toNat_eq
    rw [fld, ht, BitVec.toNat_ofNat, Nat.shiftRight_eq_div_pow]
    cases neg <;> simp only [Bool.toNat_true, Bool.toNat_false] <;> omega

theorem bit_eq {x : Nat} {b : Bool} (h : x % 2 = b.toNat) : decide (x % 2 = 1) = b := by
  cases b <;> simp_all

theorem RR.enc_lt (o : RR) : o.enc < 2 ^ 52 := by
  obtain ⟨d, ⟨ar, af⟩, ⟨br, bf⟩⟩ := o
  have hd := d.isLt
  have har := ar.isLt
  have hbr := br.isLt
  have haf := Bool.toNat_le af
  have hbf := Bool.toNat_le bf
  simp only [RR.enc, srcEnc]
  omega

theorem RR.dec_enc (h : Hdr) (opc : Nat) (ho : opc < 128) (o : RR) : RR.dec (slotWord h opc o.enc) = o := by
  have hb := o.enc_lt
  simp only [RR.dec, srcAt, fld_slotWord h opc _ ho hb, 
    bit_slotWord h opc _ ho hb, Nat.reduceLT, Nat.reduceAdd, Nat.reduceLeDiff]
  clear hb
  obtain ⟨d, ⟨ar, af⟩, ⟨br, bf⟩⟩ := o
  have hd := d.isLt
  have har := ar.isLt
  have hbr := br.isLt
  have haf := Bool.toNat_le af
  have hbf := Bool.toNat_le bf
  simp only [RR.enc, srcEnc, RR.mk.injEq, Src.mk.injEq, ← BitVec.toNat_inj, BitVec.toNat_ofNat]
  repeat' apply And.intro
  all_goals first | omega | (apply bit_eq; omega)

theorem RI.enc_lt (o : RI) : o.enc < 2 ^ 52 := by
  obtain ⟨d, ⟨ar, af⟩, imm⟩ := o
  have hd := d.isLt
  have har := ar.isLt
  have himm := imm.isLt
  have haf := Bool.toNat_le af
  simp only [RI.enc, srcEnc]
  omega

theorem RI.dec_enc (h : Hdr) (opc : Nat) (ho : opc < 128) (o : RI) : RI.dec (slotWord h opc o.enc) = o := by
  have hb := o.enc_lt
  simp only [RI.dec, srcAt, fld_slotWord h opc _ ho hb, 
    bit_slotWord h opc _ ho hb, Nat.reduceLT, Nat.reduceAdd, Nat.reduceLeDiff]
  clear hb
  obtain ⟨d, ⟨ar, af⟩, imm⟩ := o
  have hd := d.isLt
  have har := ar.isLt
  have himm := imm.isLt
  have haf := Bool.toNat_le af
  simp only [RI.enc, srcEnc, RI.mk.injEq, Src.mk.injEq, ← BitVec.toNat_inj, BitVec.toNat_ofNat]
  repeat' apply And.intro
  all_goals first | omega | (apply bit_eq; omega)

theorem R1.enc_lt (o : R1) : o.enc < 2 ^ 52 := by
  obtain ⟨d, ⟨ar, af⟩⟩ := o
  have hd := d.isLt
  have har := ar.isLt
  have haf := Bool.toNat_le af
  simp only [R1.enc, srcEnc]
  omega

theorem R1.dec_enc (h : Hdr) (opc : Nat) (ho : opc < 128) (o : R1) : R1.dec (slotWord h opc o.enc) = o := by
  have hb := o.enc_lt
  simp only [R1.dec, srcAt, fld_slotWord h opc _ ho hb, 
    bit_slotWord h opc _ ho hb, Nat.reduceLT, Nat.reduceAdd, Nat.reduceLeDiff]
  clear hb
  obtain ⟨d, ⟨ar, af⟩⟩ := o
  have hd := d.isLt
  have har := ar.isLt
  have haf := Bool.toNat_le af
  simp only [R1.enc, srcEnc, R1.mk.injEq, Src.mk.injEq, ← BitVec.toNat_inj, BitVec.toNat_ofNat]
  repeat' apply And.intro
  all_goals first | omega | (apply bit_eq; omega)

theorem Bf.enc_lt (o : Bf) : o.enc < 2 ^ 52 := by
  obtain ⟨d, ⟨ar, af⟩, pos, wm1⟩ := o
  have hd := d.isLt
  have har := ar.isLt
  have hpos := pos.isLt
  have hwm1 := wm1.isLt
  have haf := Bool.toNat_le af
  simp only [Bf.enc, srcEnc]
  omega

theorem Bf.dec_enc (h : Hdr) (opc : Nat) (ho : opc < 128) (o : Bf) : Bf.dec (slotWord h opc o.enc) = o := by
  have hb := o.enc_lt
  simp only [Bf.dec, srcAt, fld_slotWord h opc _ ho hb, 
    bit_slotWord h opc _ ho hb, Nat.reduceLT, Nat.reduceAdd, Nat.reduceLeDiff]
  clear hb
  obtain ⟨d, ⟨ar, af⟩, pos, wm1⟩ := o
  have hd := d.isLt
  have har := ar.isLt
  have hpos := pos.isLt
  have hwm1 := wm1.isLt
  have haf := Bool.toNat_le af
  simp only [Bf.enc, srcEnc, Bf.mk.injEq, Src.mk.injEq, ← BitVec.toNat_inj, BitVec.toNat_ofNat]
  repeat' apply And.intro
  all_goals first | omega | (apply bit_eq; omega)

theorem Bfi.enc_lt (o : Bfi) : o.enc < 2 ^ 52 := by
  obtain ⟨d, ⟨ar, af⟩, ⟨br, bf⟩, pos, wm1⟩ := o
  have hd := d.isLt
  have har := ar.isLt
  have hbr := br.isLt
  have hpos := pos.isLt
  have hwm1 := wm1.isLt
  have haf := Bool.toNat_le af
  have hbf := Bool.toNat_le bf
  simp only [Bfi.enc, srcEnc]
  omega

theorem Bfi.dec_enc (h : Hdr) (opc : Nat) (ho : opc < 128) (o : Bfi) : Bfi.dec (slotWord h opc o.enc) = o := by
  have hb := o.enc_lt
  simp only [Bfi.dec, srcAt, fld_slotWord h opc _ ho hb, 
    bit_slotWord h opc _ ho hb, Nat.reduceLT, Nat.reduceAdd, Nat.reduceLeDiff]
  clear hb
  obtain ⟨d, ⟨ar, af⟩, ⟨br, bf⟩, pos, wm1⟩ := o
  have hd := d.isLt
  have har := ar.isLt
  have hbr := br.isLt
  have hpos := pos.isLt
  have hwm1 := wm1.isLt
  have haf := Bool.toNat_le af
  have hbf := Bool.toNat_le bf
  simp only [Bfi.enc, srcEnc, Bfi.mk.injEq, Src.mk.injEq, ← BitVec.toNat_inj, BitVec.toNat_ofNat]
  repeat' apply And.intro
  all_goals first | omega | (apply bit_eq; omega)

theorem R3.enc_lt (o : R3) : o.enc < 2 ^ 52 := by
  obtain ⟨d, ⟨ar, af⟩, ⟨br, bf⟩, ⟨cr, cf⟩⟩ := o
  have hd := d.isLt
  have har := ar.isLt
  have hbr := br.isLt
  have hcr := cr.isLt
  have haf := Bool.toNat_le af
  have hbf := Bool.toNat_le bf
  have hcf := Bool.toNat_le cf
  simp only [R3.enc, srcEnc]
  omega

theorem R3.dec_enc (h : Hdr) (opc : Nat) (ho : opc < 128) (o : R3) : R3.dec (slotWord h opc o.enc) = o := by
  have hb := o.enc_lt
  simp only [R3.dec, srcAt, fld_slotWord h opc _ ho hb, 
    bit_slotWord h opc _ ho hb, Nat.reduceLT, Nat.reduceAdd, Nat.reduceLeDiff]
  clear hb
  obtain ⟨d, ⟨ar, af⟩, ⟨br, bf⟩, ⟨cr, cf⟩⟩ := o
  have hd := d.isLt
  have har := ar.isLt
  have hbr := br.isLt
  have hcr := cr.isLt
  have haf := Bool.toNat_le af
  have hbf := Bool.toNat_le bf
  have hcf := Bool.toNat_le cf
  simp only [R3.enc, srcEnc, R3.mk.injEq, Src.mk.injEq, ← BitVec.toNat_inj, BitVec.toNat_ofNat]
  repeat' apply And.intro
  all_goals first | omega | (apply bit_eq; omega)

theorem SelR.enc_lt (o : SelR) : o.enc < 2 ^ 52 := by
  obtain ⟨d, ⟨ar, af⟩, ⟨br, bf⟩, q⟩ := o
  have hd := d.isLt
  have har := ar.isLt
  have hbr := br.isLt
  have hq := q.isLt
  have haf := Bool.toNat_le af
  have hbf := Bool.toNat_le bf
  simp only [SelR.enc, srcEnc]
  omega

theorem SelR.dec_enc (h : Hdr) (opc : Nat) (ho : opc < 128) (o : SelR) : SelR.dec (slotWord h opc o.enc) = o := by
  have hb := o.enc_lt
  simp only [SelR.dec, srcAt, fld_slotWord h opc _ ho hb, 
    bit_slotWord h opc _ ho hb, Nat.reduceLT, Nat.reduceAdd, Nat.reduceLeDiff]
  clear hb
  obtain ⟨d, ⟨ar, af⟩, ⟨br, bf⟩, q⟩ := o
  have hd := d.isLt
  have har := ar.isLt
  have hbr := br.isLt
  have hq := q.isLt
  have haf := Bool.toNat_le af
  have hbf := Bool.toNat_le bf
  simp only [SelR.enc, srcEnc, SelR.mk.injEq, Src.mk.injEq, ← BitVec.toNat_inj, BitVec.toNat_ofNat]
  repeat' apply And.intro
  all_goals first | omega | (apply bit_eq; omega)

theorem SelI.enc_lt (o : SelI) : o.enc < 2 ^ 52 := by
  obtain ⟨d, ⟨ar, af⟩, q, imm⟩ := o
  have hd := d.isLt
  have har := ar.isLt
  have hq := q.isLt
  have himm := imm.isLt
  have haf := Bool.toNat_le af
  simp only [SelI.enc, srcEnc]
  omega

theorem SelI.dec_enc (h : Hdr) (opc : Nat) (ho : opc < 128) (o : SelI) : SelI.dec (slotWord h opc o.enc) = o := by
  have hb := o.enc_lt
  simp only [SelI.dec, srcAt, fld_slotWord h opc _ ho hb, 
    bit_slotWord h opc _ ho hb, Nat.reduceLT, Nat.reduceAdd, Nat.reduceLeDiff]
  clear hb
  obtain ⟨d, ⟨ar, af⟩, q, imm⟩ := o
  have hd := d.isLt
  have har := ar.isLt
  have hq := q.isLt
  have himm := imm.isLt
  have haf := Bool.toNat_le af
  simp only [SelI.enc, srcEnc, SelI.mk.injEq, Src.mk.injEq, ← BitVec.toNat_inj, BitVec.toNat_ofNat]
  repeat' apply And.intro
  all_goals first | omega | (apply bit_eq; omega)

theorem Movi.enc_lt (o : Movi) : o.enc < 2 ^ 52 := by
  obtain ⟨d, imm⟩ := o
  have hd := d.isLt
  have himm := imm.isLt
  simp only [Movi.enc]
  omega

theorem Movi.dec_enc (h : Hdr) (opc : Nat) (ho : opc < 128) (o : Movi) : Movi.dec (slotWord h opc o.enc) = o := by
  have hb := o.enc_lt
  simp only [Movi.dec, fld_slotWord h opc _ ho hb, Nat.reduceAdd, Nat.reduceLeDiff]
  clear hb
  obtain ⟨d, imm⟩ := o
  have hd := d.isLt
  have himm := imm.isLt
  simp only [Movi.enc, Movi.mk.injEq, ← BitVec.toNat_inj, BitVec.toNat_ofNat]
  repeat' apply And.intro
  all_goals omega

theorem CmpR.enc_lt (o : CmpR) : o.enc < 2 ^ 52 := by
  obtain ⟨pd, ⟨ar, af⟩, ⟨br, bf⟩⟩ := o
  have hpd := pd.isLt
  have har := ar.isLt
  have hbr := br.isLt
  have haf := Bool.toNat_le af
  have hbf := Bool.toNat_le bf
  simp only [CmpR.enc, srcEnc]
  omega

theorem CmpR.dec_enc (h : Hdr) (opc : Nat) (ho : opc < 128) (o : CmpR) : CmpR.dec (slotWord h opc o.enc) = o := by
  have hb := o.enc_lt
  simp only [CmpR.dec, srcAt, fld_slotWord h opc _ ho hb, 
    bit_slotWord h opc _ ho hb, Nat.reduceLT, Nat.reduceAdd, Nat.reduceLeDiff]
  clear hb
  obtain ⟨pd, ⟨ar, af⟩, ⟨br, bf⟩⟩ := o
  have hpd := pd.isLt
  have har := ar.isLt
  have hbr := br.isLt
  have haf := Bool.toNat_le af
  have hbf := Bool.toNat_le bf
  simp only [CmpR.enc, srcEnc, CmpR.mk.injEq, Src.mk.injEq, ← BitVec.toNat_inj, BitVec.toNat_ofNat]
  repeat' apply And.intro
  all_goals first | omega | (apply bit_eq; omega)

theorem CmpI.enc_lt (o : CmpI) : o.enc < 2 ^ 52 := by
  obtain ⟨pd, ⟨ar, af⟩, imm⟩ := o
  have hpd := pd.isLt
  have har := ar.isLt
  have himm := imm.isLt
  have haf := Bool.toNat_le af
  simp only [CmpI.enc, srcEnc]
  omega

theorem CmpI.dec_enc (h : Hdr) (opc : Nat) (ho : opc < 128) (o : CmpI) : CmpI.dec (slotWord h opc o.enc) = o := by
  have hb := o.enc_lt
  simp only [CmpI.dec, srcAt, fld_slotWord h opc _ ho hb, 
    bit_slotWord h opc _ ho hb, Nat.reduceLT, Nat.reduceAdd, Nat.reduceLeDiff]
  clear hb
  obtain ⟨pd, ⟨ar, af⟩, imm⟩ := o
  have hpd := pd.isLt
  have har := ar.isLt
  have himm := imm.isLt
  have haf := Bool.toNat_le af
  simp only [CmpI.enc, srcEnc, CmpI.mk.injEq, Src.mk.injEq, ← BitVec.toNat_inj, BitVec.toNat_ofNat]
  repeat' apply And.intro
  all_goals first | omega | (apply bit_eq; omega)

theorem PredOp.enc_lt (o : PredOp) : o.enc < 2 ^ 52 := by
  obtain ⟨pd, pa, pb, na, nb⟩ := o
  have hpd := pd.isLt
  have hpa := pa.isLt
  have hpb := pb.isLt
  have hna := Bool.toNat_le na
  have hnb := Bool.toNat_le nb
  simp only [PredOp.enc]
  omega

theorem PredOp.dec_enc (h : Hdr) (opc : Nat) (ho : opc < 128) (o : PredOp) : PredOp.dec (slotWord h opc o.enc) = o := by
  have hb := o.enc_lt
  simp only [PredOp.dec, fld_slotWord h opc _ ho hb, 
    bit_slotWord h opc _ ho hb, Nat.reduceLT, Nat.reduceAdd, Nat.reduceLeDiff]
  clear hb
  obtain ⟨pd, pa, pb, na, nb⟩ := o
  have hpd := pd.isLt
  have hpa := pa.isLt
  have hpb := pb.isLt
  have hna := Bool.toNat_le na
  have hnb := Bool.toNat_le nb
  simp only [PredOp.enc, PredOp.mk.injEq, ← BitVec.toNat_inj, BitVec.toNat_ofNat]
  repeat' apply And.intro
  all_goals first | omega | (apply bit_eq; omega)

theorem PsetOp.enc_lt (o : PsetOp) : o.enc < 2 ^ 52 := by
  obtain ⟨imm⟩ := o
  have himm := imm.isLt
  simp only [PsetOp.enc]
  omega

theorem PsetOp.dec_enc (h : Hdr) (opc : Nat) (ho : opc < 128) (o : PsetOp) : PsetOp.dec (slotWord h opc o.enc) = o := by
  have hb := o.enc_lt
  simp only [PsetOp.dec, fld_slotWord h opc _ ho hb, Nat.reduceAdd, Nat.reduceLeDiff]
  clear hb
  obtain ⟨imm⟩ := o
  have himm := imm.isLt
  simp only [PsetOp.enc, PsetOp.mk.injEq, ← BitVec.toNat_inj, BitVec.toNat_ofNat]
  omega

theorem FpR.enc_lt (o : FpR) : o.enc < 2 ^ 52 := by
  obtain ⟨d, ⟨ar, af⟩, ⟨br, bf⟩, rm⟩ := o
  have hd := d.isLt
  have har := ar.isLt
  have hbr := br.isLt
  have hrm := rm.isLt
  have haf := Bool.toNat_le af
  have hbf := Bool.toNat_le bf
  simp only [FpR.enc, srcEnc]
  omega

theorem FpR.dec_enc (h : Hdr) (opc : Nat) (ho : opc < 128) (o : FpR) : FpR.dec (slotWord h opc o.enc) = o := by
  have hb := o.enc_lt
  simp only [FpR.dec, srcAt, fld_slotWord h opc _ ho hb, 
    bit_slotWord h opc _ ho hb, Nat.reduceLT, Nat.reduceAdd, Nat.reduceLeDiff]
  clear hb
  obtain ⟨d, ⟨ar, af⟩, ⟨br, bf⟩, rm⟩ := o
  have hd := d.isLt
  have har := ar.isLt
  have hbr := br.isLt
  have hrm := rm.isLt
  have haf := Bool.toNat_le af
  have hbf := Bool.toNat_le bf
  simp only [FpR.enc, srcEnc, FpR.mk.injEq, Src.mk.injEq, ← BitVec.toNat_inj, BitVec.toNat_ofNat]
  repeat' apply And.intro
  all_goals first | omega | (apply bit_eq; omega)

theorem FpI.enc_lt (o : FpI) : o.enc < 2 ^ 52 := by
  obtain ⟨d, ⟨ar, af⟩, rm, imm⟩ := o
  have hd := d.isLt
  have har := ar.isLt
  have hrm := rm.isLt
  have himm := imm.isLt
  have haf := Bool.toNat_le af
  simp only [FpI.enc, srcEnc]
  omega

theorem FpI.dec_enc (h : Hdr) (opc : Nat) (ho : opc < 128) (o : FpI) : FpI.dec (slotWord h opc o.enc) = o := by
  have hb := o.enc_lt
  simp only [FpI.dec, srcAt, fld_slotWord h opc _ ho hb, 
    bit_slotWord h opc _ ho hb, Nat.reduceLT, Nat.reduceAdd, Nat.reduceLeDiff]
  clear hb
  obtain ⟨d, ⟨ar, af⟩, rm, imm⟩ := o
  have hd := d.isLt
  have har := ar.isLt
  have hrm := rm.isLt
  have himm := imm.isLt
  have haf := Bool.toNat_le af
  simp only [FpI.enc, srcEnc, FpI.mk.injEq, Src.mk.injEq, ← BitVec.toNat_inj, BitVec.toNat_ofNat]
  repeat' apply And.intro
  all_goals first | omega | (apply bit_eq; omega)

theorem Fma3.enc_lt (o : Fma3) : o.enc < 2 ^ 52 := by
  obtain ⟨d, ⟨ar, af⟩, ⟨br, bf⟩, ⟨cr, cf⟩, rm⟩ := o
  have hd := d.isLt
  have har := ar.isLt
  have hbr := br.isLt
  have hcr := cr.isLt
  have hrm := rm.isLt
  have haf := Bool.toNat_le af
  have hbf := Bool.toNat_le bf
  have hcf := Bool.toNat_le cf
  simp only [Fma3.enc, srcEnc]
  omega

theorem Fma3.bit39 (h : Hdr) (opc : Nat) (ho : opc < 128) (o : Fma3) : bit (slotWord h opc o.enc) 39 = false := by
  rw [bit_slotWord h opc _ ho o.enc_lt 39 (by omega)]
  apply bit_eq
  obtain ⟨d, ⟨ar, af⟩, ⟨br, bf⟩, ⟨cr, cf⟩, rm⟩ := o
  have hd := d.isLt
  have har := ar.isLt
  have hbr := br.isLt
  have hcr := cr.isLt
  have hrm := rm.isLt
  have haf := Bool.toNat_le af
  have hbf := Bool.toNat_le bf
  have hcf := Bool.toNat_le cf
  simp only [Fma3.enc, srcEnc, Bool.toNat_false]
  omega

theorem Fma3.dec_enc (h : Hdr) (opc : Nat) (ho : opc < 128) (o : Fma3) : Fma3.dec (slotWord h opc o.enc) = o := by
  have hb := o.enc_lt
  simp only [Fma3.dec, Fma3.bit39 h opc ho, Bool.false_eq_true, if_false, srcAt, fld_slotWord h opc _ ho hb, 
    bit_slotWord h opc _ ho hb, Nat.reduceLT, Nat.reduceAdd, Nat.reduceLeDiff]
  clear hb
  obtain ⟨d, ⟨ar, af⟩, ⟨br, bf⟩, ⟨cr, cf⟩, rm⟩ := o
  have hd := d.isLt
  have har := ar.isLt
  have hbr := br.isLt
  have hcr := cr.isLt
  have hrm := rm.isLt
  have haf := Bool.toNat_le af
  have hbf := Bool.toNat_le bf
  have hcf := Bool.toNat_le cf
  simp only [Fma3.enc, srcEnc, Fma3.mk.injEq, Src.mk.injEq, ← BitVec.toNat_inj, BitVec.toNat_ofNat]
  repeat' apply And.intro
  all_goals first | omega | (apply bit_eq; omega)

theorem FcmpR.enc_lt (o : FcmpR) : o.enc < 2 ^ 52 := by
  obtain ⟨pd, ⟨ar, af⟩, ⟨br, bf⟩, rm⟩ := o
  have hpd := pd.isLt
  have har := ar.isLt
  have hbr := br.isLt
  have hrm := rm.isLt
  have haf := Bool.toNat_le af
  have hbf := Bool.toNat_le bf
  simp only [FcmpR.enc, srcEnc]
  omega

theorem FcmpR.dec_enc (h : Hdr) (opc : Nat) (ho : opc < 128) (o : FcmpR) : FcmpR.dec (slotWord h opc o.enc) = o := by
  have hb := o.enc_lt
  simp only [FcmpR.dec, srcAt, fld_slotWord h opc _ ho hb, 
    bit_slotWord h opc _ ho hb, Nat.reduceLT, Nat.reduceAdd, Nat.reduceLeDiff]
  clear hb
  obtain ⟨pd, ⟨ar, af⟩, ⟨br, bf⟩, rm⟩ := o
  have hpd := pd.isLt
  have har := ar.isLt
  have hbr := br.isLt
  have hrm := rm.isLt
  have haf := Bool.toNat_le af
  have hbf := Bool.toNat_le bf
  simp only [FcmpR.enc, srcEnc, FcmpR.mk.injEq, Src.mk.injEq, ← BitVec.toNat_inj, BitVec.toNat_ofNat]
  repeat' apply And.intro
  all_goals first | omega | (apply bit_eq; omega)

theorem FcmpI.enc_lt (o : FcmpI) : o.enc < 2 ^ 52 := by
  obtain ⟨pd, ⟨ar, af⟩, rm, imm⟩ := o
  have hpd := pd.isLt
  have har := ar.isLt
  have hrm := rm.isLt
  have himm := imm.isLt
  have haf := Bool.toNat_le af
  simp only [FcmpI.enc, srcEnc]
  omega

theorem FcmpI.dec_enc (h : Hdr) (opc : Nat) (ho : opc < 128) (o : FcmpI) : FcmpI.dec (slotWord h opc o.enc) = o := by
  have hb := o.enc_lt
  simp only [FcmpI.dec, srcAt, fld_slotWord h opc _ ho hb, 
    bit_slotWord h opc _ ho hb, Nat.reduceLT, Nat.reduceAdd, Nat.reduceLeDiff]
  clear hb
  obtain ⟨pd, ⟨ar, af⟩, rm, imm⟩ := o
  have hpd := pd.isLt
  have har := ar.isLt
  have hrm := rm.isLt
  have himm := imm.isLt
  have haf := Bool.toNat_le af
  simp only [FcmpI.enc, srcEnc, FcmpI.mk.injEq, Src.mk.injEq, ← BitVec.toNat_inj, BitVec.toNat_ofNat]
  repeat' apply And.intro
  all_goals first | omega | (apply bit_eq; omega)

theorem Fcvt.enc_lt (o : Fcvt) : o.enc < 2 ^ 52 := by
  obtain ⟨d, ⟨ar, af⟩, rm, ty, wide⟩ := o
  have hd := d.isLt
  have har := ar.isLt
  have hrm := rm.isLt
  have hty := ty.isLt
  have haf := Bool.toNat_le af
  have hwide := Bool.toNat_le wide
  simp only [Fcvt.enc, srcEnc]
  omega

theorem Fcvt.dec_enc (h : Hdr) (opc : Nat) (ho : opc < 128) (o : Fcvt) : Fcvt.dec (slotWord h opc o.enc) = o := by
  have hb := o.enc_lt
  simp only [Fcvt.dec, srcAt, fld_slotWord h opc _ ho hb, 
    bit_slotWord h opc _ ho hb, Nat.reduceLT, Nat.reduceAdd, Nat.reduceLeDiff]
  clear hb
  obtain ⟨d, ⟨ar, af⟩, rm, ty, wide⟩ := o
  have hd := d.isLt
  have har := ar.isLt
  have hrm := rm.isLt
  have hty := ty.isLt
  have haf := Bool.toNat_le af
  have hwide := Bool.toNat_le wide
  simp only [Fcvt.enc, srcEnc, Fcvt.mk.injEq, Src.mk.injEq, ← BitVec.toNat_inj, BitVec.toNat_ofNat]
  repeat' apply And.intro
  all_goals first | omega | (apply bit_eq; omega)

theorem Rdsr.enc_lt (o : Rdsr) : o.enc < 2 ^ 52 := by
  obtain ⟨d, num⟩ := o
  have hd := d.isLt
  have hnum := num.isLt
  simp only [Rdsr.enc]
  omega

theorem Rdsr.dec_enc (h : Hdr) (opc : Nat) (ho : opc < 128) (o : Rdsr) : Rdsr.dec (slotWord h opc o.enc) = o := by
  have hb := o.enc_lt
  simp only [Rdsr.dec, fld_slotWord h opc _ ho hb, Nat.reduceAdd, Nat.reduceLeDiff]
  clear hb
  obtain ⟨d, num⟩ := o
  have hd := d.isLt
  have hnum := num.isLt
  simp only [Rdsr.enc, Rdsr.mk.injEq, ← BitVec.toNat_inj, BitVec.toNat_ofNat]
  repeat' apply And.intro
  all_goals omega

theorem Wrsr.enc_lt (o : Wrsr) : o.enc < 2 ^ 52 := by
  obtain ⟨num, ⟨ar, af⟩⟩ := o
  have hnum := num.isLt
  have har := ar.isLt
  have haf := Bool.toNat_le af
  simp only [Wrsr.enc, srcEnc]
  omega

theorem Wrsr.dec_enc (h : Hdr) (opc : Nat) (ho : opc < 128) (o : Wrsr) : Wrsr.dec (slotWord h opc o.enc) = o := by
  have hb := o.enc_lt
  simp only [Wrsr.dec, srcAt, fld_slotWord h opc _ ho hb, 
    bit_slotWord h opc _ ho hb, Nat.reduceLT, Nat.reduceAdd, Nat.reduceLeDiff]
  clear hb
  obtain ⟨num, ⟨ar, af⟩⟩ := o
  have hnum := num.isLt
  have har := ar.isLt
  have haf := Bool.toNat_le af
  simp only [Wrsr.enc, srcEnc, Wrsr.mk.injEq, Src.mk.injEq, ← BitVec.toNat_inj, BitVec.toNat_ofNat]
  repeat' apply And.intro
  all_goals first | omega | (apply bit_eq; omega)

theorem Mem.enc_lt (o : Mem) : o.enc < 2 ^ 52 := by
  obtain ⟨reg, ⟨baser, basef⟩, size, bit36, ord, scope, off⟩ := o
  have hreg := reg.isLt
  have hbaser := baser.isLt
  have hsize := size.isLt
  have hord := ord.isLt
  have hscope := scope.isLt
  have hoff := off.isLt
  have hbasef := Bool.toNat_le basef
  have hbit36 := Bool.toNat_le bit36
  simp only [Mem.enc, srcEnc]
  omega

theorem Mem.dec_enc (h : Hdr) (opc : Nat) (ho : opc < 128) (o : Mem) : Mem.dec (slotWord h opc o.enc) = o := by
  have hb := o.enc_lt
  simp only [Mem.dec, srcAt, fld_slotWord h opc _ ho hb, 
    bit_slotWord h opc _ ho hb, Nat.reduceLT, Nat.reduceAdd, Nat.reduceLeDiff]
  clear hb
  obtain ⟨reg, ⟨baser, basef⟩, size, bit36, ord, scope, off⟩ := o
  have hreg := reg.isLt
  have hbaser := baser.isLt
  have hsize := size.isLt
  have hord := ord.isLt
  have hscope := scope.isLt
  have hoff := off.isLt
  have hbasef := Bool.toNat_le basef
  have hbit36 := Bool.toNat_le bit36
  simp only [Mem.enc, srcEnc, Mem.mk.injEq, Src.mk.injEq, ← BitVec.toNat_inj, BitVec.toNat_ofNat]
  repeat' apply And.intro
  all_goals first | omega | (apply bit_eq; omega)

theorem MemIdx.enc_lt (o : MemIdx) : o.enc < 2 ^ 52 := by
  obtain ⟨reg, ⟨baser, basef⟩, size, bit36, ord, scope, ⟨indexr, indexf⟩⟩ := o
  have hreg := reg.isLt
  have hbaser := baser.isLt
  have hsize := size.isLt
  have hord := ord.isLt
  have hscope := scope.isLt
  have hindexr := indexr.isLt
  have hbasef := Bool.toNat_le basef
  have hbit36 := Bool.toNat_le bit36
  have hindexf := Bool.toNat_le indexf
  simp only [MemIdx.enc, srcEnc]
  omega

theorem MemIdx.dec_enc (h : Hdr) (opc : Nat) (ho : opc < 128) (o : MemIdx) : MemIdx.dec (slotWord h opc o.enc) = o := by
  have hb := o.enc_lt
  simp only [MemIdx.dec, srcAt, fld_slotWord h opc _ ho hb, 
    bit_slotWord h opc _ ho hb, Nat.reduceLT, Nat.reduceAdd, Nat.reduceLeDiff]
  clear hb
  obtain ⟨reg, ⟨baser, basef⟩, size, bit36, ord, scope, ⟨indexr, indexf⟩⟩ := o
  have hreg := reg.isLt
  have hbaser := baser.isLt
  have hsize := size.isLt
  have hord := ord.isLt
  have hscope := scope.isLt
  have hindexr := indexr.isLt
  have hbasef := Bool.toNat_le basef
  have hbit36 := Bool.toNat_le bit36
  have hindexf := Bool.toNat_le indexf
  simp only [MemIdx.enc, srcEnc, MemIdx.mk.injEq, Src.mk.injEq, ← BitVec.toNat_inj, BitVec.toNat_ofNat]
  repeat' apply And.intro
  all_goals first | omega | (apply bit_eq; omega)

theorem LineMem.enc_lt (o : LineMem) : o.enc < 2 ^ 52 := by
  obtain ⟨line, ad, ord, scope, ⟨baser, basef⟩, mask, off⟩ := o
  have hline := line.isLt
  have hord := ord.isLt
  have hscope := scope.isLt
  have hbaser := baser.isLt
  have hmask := mask.isLt
  have hoff := off.isLt
  have had := Bool.toNat_le ad
  have hbasef := Bool.toNat_le basef
  simp only [LineMem.enc, srcEnc]
  omega

theorem LineMem.dec_enc (h : Hdr) (opc : Nat) (ho : opc < 128) (o : LineMem) : LineMem.dec (slotWord h opc o.enc) = o :=
    by
  have hb := o.enc_lt
  simp only [LineMem.dec, srcAt, fld_slotWord h opc _ ho hb, 
    bit_slotWord h opc _ ho hb, Nat.reduceLT, Nat.reduceAdd, Nat.reduceLeDiff]
  clear hb
  obtain ⟨line, ad, ord, scope, ⟨baser, basef⟩, mask, off⟩ := o
  have hline := line.isLt
  have hord := ord.isLt
  have hscope := scope.isLt
  have hbaser := baser.isLt
  have hmask := mask.isLt
  have hoff := off.isLt
  have had := Bool.toNat_le ad
  have hbasef := Bool.toNat_le basef
  simp only [LineMem.enc, srcEnc, LineMem.mk.injEq, Src.mk.injEq, ← BitVec.toNat_inj, BitVec.toNat_ofNat]
  repeat' apply And.intro
  all_goals first | omega | (apply bit_eq; omega)

theorem Gather.enc_lt (o : Gather) : o.enc < 2 ^ 52 := by
  obtain ⟨line, sx, size, ord, scope, index, ⟨baser, basef⟩, mask, z, sc⟩ := o
  have hline := line.isLt
  have hsize := size.isLt
  have hord := ord.isLt
  have hscope := scope.isLt
  have hindex := index.isLt
  have hbaser := baser.isLt
  have hmask := mask.isLt
  have hsx := Bool.toNat_le sx
  have hbasef := Bool.toNat_le basef
  have hz := Bool.toNat_le z
  have hsc := Bool.toNat_le sc
  simp only [Gather.enc, srcEnc]
  omega

theorem Gather.dec_enc (h : Hdr) (opc : Nat) (ho : opc < 128) (o : Gather) : Gather.dec (slotWord h opc o.enc) = o := by
  have hb := o.enc_lt
  simp only [Gather.dec, srcAt, fld_slotWord h opc _ ho hb, 
    bit_slotWord h opc _ ho hb, Nat.reduceLT, Nat.reduceAdd, Nat.reduceLeDiff]
  clear hb
  obtain ⟨line, sx, size, ord, scope, index, ⟨baser, basef⟩, mask, z, sc⟩ := o
  have hline := line.isLt
  have hsize := size.isLt
  have hord := ord.isLt
  have hscope := scope.isLt
  have hindex := index.isLt
  have hbaser := baser.isLt
  have hmask := mask.isLt
  have hsx := Bool.toNat_le sx
  have hbasef := Bool.toNat_le basef
  have hz := Bool.toNat_le z
  have hsc := Bool.toNat_le sc
  simp only [Gather.enc, srcEnc, Gather.mk.injEq, Src.mk.injEq, ← BitVec.toNat_inj, BitVec.toNat_ofNat]
  repeat' apply And.intro
  all_goals first | omega | (apply bit_eq; omega)

theorem Gld.enc_lt (o : Gld) : o.enc < 2 ^ 52 := by
  obtain ⟨line, op, ord, scope, ⟨baser, basef⟩, ty, cp, off⟩ := o
  have hline := line.isLt
  have hop := op.isLt
  have hord := ord.isLt
  have hscope := scope.isLt
  have hbaser := baser.isLt
  have hty := ty.isLt
  have hcp := cp.isLt
  have hoff := off.isLt
  have hbasef := Bool.toNat_le basef
  simp only [Gld.enc, srcEnc]
  omega

theorem Gld.dec_enc (h : Hdr) (opc : Nat) (ho : opc < 128) (o : Gld) : Gld.dec (slotWord h opc o.enc) = o := by
  have hb := o.enc_lt
  simp only [Gld.dec, srcAt, fld_slotWord h opc _ ho hb, 
    bit_slotWord h opc _ ho hb, Nat.reduceLT, Nat.reduceAdd, Nat.reduceLeDiff]
  clear hb
  obtain ⟨line, op, ord, scope, ⟨baser, basef⟩, ty, cp, off⟩ := o
  have hline := line.isLt
  have hop := op.isLt
  have hord := ord.isLt
  have hscope := scope.isLt
  have hbaser := baser.isLt
  have hty := ty.isLt
  have hcp := cp.isLt
  have hoff := off.isLt
  have hbasef := Bool.toNat_le basef
  simp only [Gld.enc, srcEnc, Gld.mk.injEq, Src.mk.injEq, ← BitVec.toNat_inj, BitVec.toNat_ofNat]
  repeat' apply And.intro
  all_goals first | omega | (apply bit_eq; omega)

theorem Glds.enc_lt (o : Glds) : o.enc < 2 ^ 52 := by
  obtain ⟨dest, op, ord, scope, ⟨baser, basef⟩, ty, cp, off⟩ := o
  have hdest := dest.isLt
  have hop := op.isLt
  have hord := ord.isLt
  have hscope := scope.isLt
  have hbaser := baser.isLt
  have hty := ty.isLt
  have hcp := cp.isLt
  have hoff := off.isLt
  have hbasef := Bool.toNat_le basef
  simp only [Glds.enc, srcEnc]
  omega

theorem Glds.dec_enc (h : Hdr) (opc : Nat) (ho : opc < 128) (o : Glds) : Glds.dec (slotWord h opc o.enc) = o := by
  have hb := o.enc_lt
  simp only [Glds.dec, srcAt, fld_slotWord h opc _ ho hb, 
    bit_slotWord h opc _ ho hb, Nat.reduceLT, Nat.reduceAdd, Nat.reduceLeDiff]
  clear hb
  obtain ⟨dest, op, ord, scope, ⟨baser, basef⟩, ty, cp, off⟩ := o
  have hdest := dest.isLt
  have hop := op.isLt
  have hord := ord.isLt
  have hscope := scope.isLt
  have hbaser := baser.isLt
  have hty := ty.isLt
  have hcp := cp.isLt
  have hoff := off.isLt
  have hbasef := Bool.toNat_le basef
  simp only [Glds.enc, srcEnc, Glds.mk.injEq, Src.mk.injEq, ← BitVec.toNat_inj, BitVec.toNat_ofNat]
  repeat' apply And.intro
  all_goals first | omega | (apply bit_eq; omega)

theorem Amo.enc_lt (o : Amo) : o.enc < 2 ^ 52 := by
  obtain ⟨dest, ⟨addrr, addrf⟩, size, ord, scope, ⟨valr, valf⟩, op⟩ := o
  have hdest := dest.isLt
  have haddrr := addrr.isLt
  have hsize := size.isLt
  have hord := ord.isLt
  have hscope := scope.isLt
  have hvalr := valr.isLt
  have hop := op.isLt
  have haddrf := Bool.toNat_le addrf
  have hvalf := Bool.toNat_le valf
  simp only [Amo.enc, srcEnc]
  omega

theorem Amo.dec_enc (h : Hdr) (opc : Nat) (ho : opc < 128) (o : Amo) : Amo.dec (slotWord h opc o.enc) = o := by
  have hb := o.enc_lt
  simp only [Amo.dec, srcAt, fld_slotWord h opc _ ho hb, 
    bit_slotWord h opc _ ho hb, Nat.reduceLT, Nat.reduceAdd, Nat.reduceLeDiff]
  clear hb
  obtain ⟨dest, ⟨addrr, addrf⟩, size, ord, scope, ⟨valr, valf⟩, op⟩ := o
  have hdest := dest.isLt
  have haddrr := addrr.isLt
  have hsize := size.isLt
  have hord := ord.isLt
  have hscope := scope.isLt
  have hvalr := valr.isLt
  have hop := op.isLt
  have haddrf := Bool.toNat_le addrf
  have hvalf := Bool.toNat_le valf
  simp only [Amo.enc, srcEnc, Amo.mk.injEq, Src.mk.injEq, ← BitVec.toNat_inj, BitVec.toNat_ofNat]
  repeat' apply And.intro
  all_goals first | omega | (apply bit_eq; omega)

theorem Cas.enc_lt (o : Cas) : o.enc < 2 ^ 52 := by
  obtain ⟨dest, ⟨addrr, addrf⟩, size, ord, scope, ⟨expr, expf⟩, ⟨newr, newf⟩⟩ := o
  have hdest := dest.isLt
  have haddrr := addrr.isLt
  have hsize := size.isLt
  have hord := ord.isLt
  have hscope := scope.isLt
  have hexpr := expr.isLt
  have hnewr := newr.isLt
  have haddrf := Bool.toNat_le addrf
  have hexpf := Bool.toNat_le expf
  have hnewf := Bool.toNat_le newf
  simp only [Cas.enc, srcEnc]
  omega

theorem Cas.dec_enc (h : Hdr) (opc : Nat) (ho : opc < 128) (o : Cas) : Cas.dec (slotWord h opc o.enc) = o := by
  have hb := o.enc_lt
  simp only [Cas.dec, srcAt, fld_slotWord h opc _ ho hb, 
    bit_slotWord h opc _ ho hb, Nat.reduceLT, Nat.reduceAdd, Nat.reduceLeDiff]
  clear hb
  obtain ⟨dest, ⟨addrr, addrf⟩, size, ord, scope, ⟨expr, expf⟩, ⟨newr, newf⟩⟩ := o
  have hdest := dest.isLt
  have haddrr := addrr.isLt
  have hsize := size.isLt
  have hord := ord.isLt
  have hscope := scope.isLt
  have hexpr := expr.isLt
  have hnewr := newr.isLt
  have haddrf := Bool.toNat_le addrf
  have hexpf := Bool.toNat_le expf
  have hnewf := Bool.toNat_le newf
  simp only [Cas.enc, srcEnc, Cas.mk.injEq, Src.mk.injEq, ← BitVec.toNat_inj, BitVec.toNat_ofNat]
  repeat' apply And.intro
  all_goals first | omega | (apply bit_eq; omega)

theorem Amol.enc_lt (o : Amol) : o.enc < 2 ^ 52 := by
  obtain ⟨src, op, ord, scope, ⟨baser, basef⟩, ty, mask, off⟩ := o
  have hsrc := src.isLt
  have hop := op.isLt
  have hord := ord.isLt
  have hscope := scope.isLt
  have hbaser := baser.isLt
  have hty := ty.isLt
  have hmask := mask.isLt
  have hoff := off.isLt
  have hbasef := Bool.toNat_le basef
  simp only [Amol.enc, srcEnc]
  omega

theorem Amol.dec_enc (h : Hdr) (opc : Nat) (ho : opc < 128) (o : Amol) : Amol.dec (slotWord h opc o.enc) = o := by
  have hb := o.enc_lt
  simp only [Amol.dec, srcAt, fld_slotWord h opc _ ho hb, 
    bit_slotWord h opc _ ho hb, Nat.reduceLT, Nat.reduceAdd, Nat.reduceLeDiff]
  clear hb
  obtain ⟨src, op, ord, scope, ⟨baser, basef⟩, ty, mask, off⟩ := o
  have hsrc := src.isLt
  have hop := op.isLt
  have hord := ord.isLt
  have hscope := scope.isLt
  have hbaser := baser.isLt
  have hty := ty.isLt
  have hmask := mask.isLt
  have hoff := off.isLt
  have hbasef := Bool.toNat_le basef
  simp only [Amol.enc, srcEnc, Amol.mk.injEq, Src.mk.injEq, ← BitVec.toNat_inj, BitVec.toNat_ofNat]
  repeat' apply And.intro
  all_goals first | omega | (apply bit_eq; omega)

theorem Pcfg.enc_lt (o : Pcfg) : o.enc < 2 ^ 52 := by
  obtain ⟨port, ⟨baser, basef⟩, off⟩ := o
  have hport := port.isLt
  have hbaser := baser.isLt
  have hoff := off.isLt
  have hbasef := Bool.toNat_le basef
  simp only [Pcfg.enc, srcEnc]
  omega

theorem Pcfg.dec_enc (h : Hdr) (opc : Nat) (ho : opc < 128) (o : Pcfg) : Pcfg.dec (slotWord h opc o.enc) = o := by
  have hb := o.enc_lt
  simp only [Pcfg.dec, srcAt, fld_slotWord h opc _ ho hb, 
    bit_slotWord h opc _ ho hb, Nat.reduceLT, Nat.reduceAdd, Nat.reduceLeDiff]
  clear hb
  obtain ⟨port, ⟨baser, basef⟩, off⟩ := o
  have hport := port.isLt
  have hbaser := baser.isLt
  have hoff := off.isLt
  have hbasef := Bool.toNat_le basef
  simp only [Pcfg.enc, srcEnc, Pcfg.mk.injEq, Src.mk.injEq, ← BitVec.toNat_inj, BitVec.toNat_ofNat]
  repeat' apply And.intro
  all_goals first | omega | (apply bit_eq; omega)

theorem PortOp.enc_lt (o : PortOp) : o.enc < 2 ^ 52 := by
  obtain ⟨port⟩ := o
  have hport := port.isLt
  simp only [PortOp.enc]
  omega

theorem PortOp.dec_enc (h : Hdr) (opc : Nat) (ho : opc < 128) (o : PortOp) : PortOp.dec (slotWord h opc o.enc) = o := by
  have hb := o.enc_lt
  simp only [PortOp.dec, fld_slotWord h opc _ ho hb, Nat.reduceAdd, Nat.reduceLeDiff]
  clear hb
  obtain ⟨port⟩ := o
  have hport := port.isLt
  simp only [PortOp.enc, PortOp.mk.injEq, ← BitVec.toNat_inj, BitVec.toNat_ofNat]
  omega

theorem Hgive.enc_lt (o : Hgive) : o.enc < 2 ^ 52 := by
  obtain ⟨dest, ⟨baser, basef⟩, ⟨descr, descf⟩⟩ := o
  have hdest := dest.isLt
  have hbaser := baser.isLt
  have hdescr := descr.isLt
  have hbasef := Bool.toNat_le basef
  have hdescf := Bool.toNat_le descf
  simp only [Hgive.enc, srcEnc]
  omega

theorem Hgive.dec_enc (h : Hdr) (opc : Nat) (ho : opc < 128) (o : Hgive) : Hgive.dec (slotWord h opc o.enc) = o := by
  have hb := o.enc_lt
  simp only [Hgive.dec, srcAt, fld_slotWord h opc _ ho hb, 
    bit_slotWord h opc _ ho hb, Nat.reduceLT, Nat.reduceAdd, Nat.reduceLeDiff]
  clear hb
  obtain ⟨dest, ⟨baser, basef⟩, ⟨descr, descf⟩⟩ := o
  have hdest := dest.isLt
  have hbaser := baser.isLt
  have hdescr := descr.isLt
  have hbasef := Bool.toNat_le basef
  have hdescf := Bool.toNat_le descf
  simp only [Hgive.enc, srcEnc, Hgive.mk.injEq, Src.mk.injEq, ← BitVec.toNat_inj, BitVec.toNat_ofNat]
  repeat' apply And.intro
  all_goals first | omega | (apply bit_eq; omega)

theorem Htake.enc_lt (o : Htake) : o.enc < 2 ^ 52 := by
  obtain ⟨dest, h⟩ := o
  have hdest := dest.isLt
  have hh := h.isLt
  simp only [Htake.enc]
  omega

theorem Htake.dec_enc (h : Hdr) (opc : Nat) (ho : opc < 128) (o : Htake) : Htake.dec (slotWord h opc o.enc) = o := by
  have hb := o.enc_lt
  simp only [Htake.dec, fld_slotWord h opc _ ho hb, Nat.reduceAdd, Nat.reduceLeDiff]
  clear hb
  obtain ⟨dest, h⟩ := o
  have hdest := dest.isLt
  have hh := h.isLt
  simp only [Htake.enc, Htake.mk.injEq, ← BitVec.toNat_inj, BitVec.toNat_ofNat]
  repeat' apply And.intro
  all_goals omega

theorem Hback.enc_lt (o : Hback) : o.enc < 2 ^ 52 := by
  obtain ⟨h⟩ := o
  have hh := h.isLt
  simp only [Hback.enc]
  omega

theorem Hback.dec_enc (h : Hdr) (opc : Nat) (ho : opc < 128) (o : Hback) : Hback.dec (slotWord h opc o.enc) = o := by
  have hb := o.enc_lt
  simp only [Hback.dec, fld_slotWord h opc _ ho hb, Nat.reduceAdd, Nat.reduceLeDiff]
  clear hb
  obtain ⟨h⟩ := o
  have hh := h.isLt
  simp only [Hback.enc, Hback.mk.injEq, ← BitVec.toNat_inj, BitVec.toNat_ofNat]
  omega

theorem VF.enc_lt (o : VF) : o.enc < 2 ^ 52 := by
  obtain ⟨ty, k, dst, s1, s2, mode, sat, z⟩ := o
  have hty := ty.isLt
  have hk := k.isLt
  have hdst := dst.isLt
  have hs1 := s1.isLt
  have hs2 := s2.isLt
  have hmode := mode.isLt
  have hsat := Bool.toNat_le sat
  have hz := Bool.toNat_le z
  simp only [VF.enc]
  omega

theorem VF.dec_enc (h : Hdr) (opc : Nat) (ho : opc < 128) (o : VF) : VF.dec (slotWord h opc o.enc) = o := by
  have hb := o.enc_lt
  simp only [VF.dec, fld_slotWord h opc _ ho hb, 
    bit_slotWord h opc _ ho hb, Nat.reduceLT, Nat.reduceAdd, Nat.reduceLeDiff]
  clear hb
  obtain ⟨ty, k, dst, s1, s2, mode, sat, z⟩ := o
  have hty := ty.isLt
  have hk := k.isLt
  have hdst := dst.isLt
  have hs1 := s1.isLt
  have hs2 := s2.isLt
  have hmode := mode.isLt
  have hsat := Bool.toNat_le sat
  have hz := Bool.toNat_le z
  simp only [VF.enc, VF.mk.injEq, ← BitVec.toNat_inj, BitVec.toNat_ofNat]
  repeat' apply And.intro
  all_goals first | omega | (apply bit_eq; omega)

theorem XF.enc_lt (o : XF) : o.enc < 2 ^ 52 := by
  obtain ⟨dt, st, dst, s1, s2, mode, md⟩ := o
  have hdt := dt.isLt
  have hst := st.isLt
  have hdst := dst.isLt
  have hs1 := s1.isLt
  have hs2 := s2.isLt
  have hmode := mode.isLt
  have hmd := md.isLt
  simp only [XF.enc]
  omega

theorem XF.dec_enc (h : Hdr) (opc : Nat) (ho : opc < 128) (o : XF) : XF.dec (slotWord h opc o.enc) = o := by
  have hb := o.enc_lt
  simp only [XF.dec, fld_slotWord h opc _ ho hb, Nat.reduceAdd, Nat.reduceLeDiff]
  clear hb
  obtain ⟨dt, st, dst, s1, s2, mode, md⟩ := o
  have hdt := dt.isLt
  have hst := st.isLt
  have hdst := dst.isLt
  have hs1 := s1.isLt
  have hs2 := s2.isLt
  have hmode := mode.isLt
  have hmd := md.isLt
  simp only [XF.enc, XF.mk.injEq, ← BitVec.toNat_inj, BitVec.toNat_ofNat]
  repeat' apply And.intro
  all_goals omega

theorem MF.enc_lt (o : MF) : o.enc < 2 ^ 52 := by
  obtain ⟨wty, sty, trans, bank, row, line, seg, low⟩ := o
  have hwty := wty.isLt
  have hsty := sty.isLt
  have hrow := row.isLt
  have hline := line.isLt
  have hseg := seg.isLt
  have hlow := low.isLt
  have htrans := Bool.toNat_le trans
  have hbank := Bool.toNat_le bank
  simp only [MF.enc]
  omega

theorem MF.dec_enc (h : Hdr) (opc : Nat) (ho : opc < 128) (o : MF) : MF.dec (slotWord h opc o.enc) = o := by
  have hb := o.enc_lt
  simp only [MF.dec, fld_slotWord h opc _ ho hb, 
    bit_slotWord h opc _ ho hb, Nat.reduceLT, Nat.reduceAdd, Nat.reduceLeDiff]
  clear hb
  obtain ⟨wty, sty, trans, bank, row, line, seg, low⟩ := o
  have hwty := wty.isLt
  have hsty := sty.isLt
  have hrow := row.isLt
  have hline := line.isLt
  have hseg := seg.isLt
  have hlow := low.isLt
  have htrans := Bool.toNat_le trans
  have hbank := Bool.toNat_le bank
  simp only [MF.enc, MF.mk.injEq, ← BitVec.toNat_inj, BitVec.toNat_ofNat]
  repeat' apply And.intro
  all_goals first | omega | (apply bit_eq; omega)

theorem RecOp.enc_lt (o : RecOp) : o.enc < 2 ^ 52 := by
  obtain ⟨⟨baser, basef⟩, off⟩ := o
  have hbaser := baser.isLt
  have hoff := off.isLt
  have hbasef := Bool.toNat_le basef
  simp only [RecOp.enc, srcEnc]
  omega

theorem RecOp.dec_enc (h : Hdr) (opc : Nat) (ho : opc < 128) (o : RecOp) : RecOp.dec (slotWord h opc o.enc) = o := by
  have hb := o.enc_lt
  simp only [RecOp.dec, srcAt, fld_slotWord h opc _ ho hb, 
    bit_slotWord h opc _ ho hb, Nat.reduceLT, Nat.reduceAdd, Nat.reduceLeDiff]
  clear hb
  obtain ⟨⟨baser, basef⟩, off⟩ := o
  have hbaser := baser.isLt
  have hoff := off.isLt
  have hbasef := Bool.toNat_le basef
  simp only [RecOp.enc, srcEnc, RecOp.mk.injEq, Src.mk.injEq, ← BitVec.toNat_inj, BitVec.toNat_ofNat]
  repeat' apply And.intro
  all_goals first | omega | (apply bit_eq; omega)

theorem RecDst.enc_lt (o : RecDst) : o.enc < 2 ^ 52 := by
  obtain ⟨dest, ⟨baser, basef⟩, off⟩ := o
  have hdest := dest.isLt
  have hbaser := baser.isLt
  have hoff := off.isLt
  have hbasef := Bool.toNat_le basef
  simp only [RecDst.enc, srcEnc]
  omega

theorem RecDst.dec_enc (h : Hdr) (opc : Nat) (ho : opc < 128) (o : RecDst) : RecDst.dec (slotWord h opc o.enc) = o := by
  have hb := o.enc_lt
  simp only [RecDst.dec, srcAt, fld_slotWord h opc _ ho hb, 
    bit_slotWord h opc _ ho hb, Nat.reduceLT, Nat.reduceAdd, Nat.reduceLeDiff]
  clear hb
  obtain ⟨dest, ⟨baser, basef⟩, off⟩ := o
  have hdest := dest.isLt
  have hbaser := baser.isLt
  have hoff := off.isLt
  have hbasef := Bool.toNat_le basef
  simp only [RecDst.enc, srcEnc, RecDst.mk.injEq, Src.mk.injEq, ← BitVec.toNat_inj, BitVec.toNat_ofNat]
  repeat' apply And.intro
  all_goals first | omega | (apply bit_eq; omega)

theorem TagMask.enc_lt (o : TagMask) : o.enc < 2 ^ 52 := by
  obtain ⟨⟨maskr, maskf⟩⟩ := o
  have hmaskr := maskr.isLt
  have hmaskf := Bool.toNat_le maskf
  simp only [TagMask.enc, srcEnc]
  omega

theorem TagMask.dec_enc (h : Hdr) (opc : Nat) (ho : opc < 128) (o : TagMask) : TagMask.dec (slotWord h opc o.enc) = o :=
    by
  have hb := o.enc_lt
  simp only [TagMask.dec, srcAt, fld_slotWord h opc _ ho hb, 
    bit_slotWord h opc _ ho hb, Nat.reduceLT, Nat.reduceAdd, Nat.reduceLeDiff]
  clear hb
  obtain ⟨⟨maskr, maskf⟩⟩ := o
  have hmaskr := maskr.isLt
  have hmaskf := Bool.toNat_le maskf
  simp only [TagMask.enc, srcEnc, TagMask.mk.injEq, Src.mk.injEq, ← BitVec.toNat_inj, BitVec.toNat_ofNat]
  repeat' apply And.intro
  all_goals first | omega | (apply bit_eq; omega)

theorem Tfind.enc_lt (o : Tfind) : o.enc < 2 ^ 52 := by
  obtain ⟨dest, ⟨maskr, maskf⟩⟩ := o
  have hdest := dest.isLt
  have hmaskr := maskr.isLt
  have hmaskf := Bool.toNat_le maskf
  simp only [Tfind.enc, srcEnc]
  omega

theorem Tfind.dec_enc (h : Hdr) (opc : Nat) (ho : opc < 128) (o : Tfind) : Tfind.dec (slotWord h opc o.enc) = o := by
  have hb := o.enc_lt
  simp only [Tfind.dec, srcAt, fld_slotWord h opc _ ho hb, 
    bit_slotWord h opc _ ho hb, Nat.reduceLT, Nat.reduceAdd, Nat.reduceLeDiff]
  clear hb
  obtain ⟨dest, ⟨maskr, maskf⟩⟩ := o
  have hdest := dest.isLt
  have hmaskr := maskr.isLt
  have hmaskf := Bool.toNat_le maskf
  simp only [Tfind.enc, srcEnc, Tfind.mk.injEq, Src.mk.injEq, ← BitVec.toNat_inj, BitVec.toNat_ofNat]
  repeat' apply And.intro
  all_goals first | omega | (apply bit_eq; omega)

theorem Order.enc_lt (o : Order) : o.enc < 2 ^ 52 := by
  obtain ⟨ord, scope⟩ := o
  have hord := ord.isLt
  have hscope := scope.isLt
  simp only [Order.enc]
  omega

theorem Order.dec_enc (h : Hdr) (opc : Nat) (ho : opc < 128) (o : Order) : Order.dec (slotWord h opc o.enc) = o := by
  have hb := o.enc_lt
  simp only [Order.dec, fld_slotWord h opc _ ho hb, Nat.reduceAdd, Nat.reduceLeDiff]
  clear hb
  obtain ⟨ord, scope⟩ := o
  have hord := ord.isLt
  have hscope := scope.isLt
  simp only [Order.enc, Order.mk.injEq, ← BitVec.toNat_inj, BitVec.toNat_ofNat]
  repeat' apply And.intro
  all_goals omega

theorem Drain.enc_lt (o : Drain) : o.enc < 2 ^ 52 := by
  obtain ⟨nt, cp, ord, scope⟩ := o
  have hord := ord.isLt
  have hscope := scope.isLt
  have hnt := Bool.toNat_le nt
  have hcp := Bool.toNat_le cp
  simp only [Drain.enc]
  omega

theorem Drain.dec_enc (h : Hdr) (opc : Nat) (ho : opc < 128) (o : Drain) : Drain.dec (slotWord h opc o.enc) = o := by
  have hb := o.enc_lt
  simp only [Drain.dec, fld_slotWord h opc _ ho hb, 
    bit_slotWord h opc _ ho hb, Nat.reduceLT, Nat.reduceAdd, Nat.reduceLeDiff]
  clear hb
  obtain ⟨nt, cp, ord, scope⟩ := o
  have hord := ord.isLt
  have hscope := scope.isLt
  have hnt := Bool.toNat_le nt
  have hcp := Bool.toNat_le cp
  simp only [Drain.enc, Drain.mk.injEq, ← BitVec.toNat_inj, BitVec.toNat_ofNat]
  repeat' apply And.intro
  all_goals first | omega | (apply bit_eq; omega)

theorem GroupOp.enc_lt (o : GroupOp) : o.enc < 2 ^ 52 := by
  obtain ⟨group⟩ := o
  have hgroup := group.isLt
  simp only [GroupOp.enc]
  omega

theorem GroupOp.dec_enc (h : Hdr) (opc : Nat) (ho : opc < 128) (o : GroupOp) : GroupOp.dec (slotWord h opc o.enc) = o :=
    by
  have hb := o.enc_lt
  simp only [GroupOp.dec, fld_slotWord h opc _ ho hb, Nat.reduceAdd, Nat.reduceLeDiff]
  clear hb
  obtain ⟨group⟩ := o
  have hgroup := group.isLt
  simp only [GroupOp.enc, GroupOp.mk.injEq, ← BitVec.toNat_inj, BitVec.toNat_ofNat]
  omega

theorem Btest.enc_lt (o : Btest) : o.enc < 2 ^ 52 := by
  obtain ⟨group, pd⟩ := o
  have hgroup := group.isLt
  have hpd := pd.isLt
  simp only [Btest.enc]
  omega

theorem Btest.dec_enc (h : Hdr) (opc : Nat) (ho : opc < 128) (o : Btest) : Btest.dec (slotWord h opc o.enc) = o := by
  have hb := o.enc_lt
  simp only [Btest.dec, fld_slotWord h opc _ ho hb, Nat.reduceAdd, Nat.reduceLeDiff]
  clear hb
  obtain ⟨group, pd⟩ := o
  have hgroup := group.isLt
  have hpd := pd.isLt
  simp only [Btest.enc, Btest.mk.injEq, ← BitVec.toNat_inj, BitVec.toNat_ofNat]
  repeat' apply And.intro
  all_goals omega

theorem StepOp.enc_lt (o : StepOp) : o.enc < 2 ^ 52 := by
  obtain ⟨d⟩ := o
  have hd := d.isLt
  simp only [StepOp.enc]
  omega

theorem StepOp.dec_enc (h : Hdr) (opc : Nat) (ho : opc < 128) (o : StepOp) : StepOp.dec (slotWord h opc o.enc) = o := by
  have hb := o.enc_lt
  simp only [StepOp.dec, fld_slotWord h opc _ ho hb, Nat.reduceAdd, Nat.reduceLeDiff]
  clear hb
  obtain ⟨d⟩ := o
  have hd := d.isLt
  simp only [StepOp.enc, StepOp.mk.injEq, ← BitVec.toNat_inj, BitVec.toNat_ofNat]
  omega

theorem Submit.enc_lt (o : Submit) : o.enc < 2 ^ 52 := by
  obtain ⟨dest, queue, ord, scope, ⟨baser, basef⟩, off⟩ := o
  have hdest := dest.isLt
  have hqueue := queue.isLt
  have hord := ord.isLt
  have hscope := scope.isLt
  have hbaser := baser.isLt
  have hoff := off.isLt
  have hbasef := Bool.toNat_le basef
  simp only [Submit.enc, srcEnc]
  omega

theorem Submit.dec_enc (h : Hdr) (opc : Nat) (ho : opc < 128) (o : Submit) : Submit.dec (slotWord h opc o.enc) = o := by
  have hb := o.enc_lt
  simp only [Submit.dec, srcAt, fld_slotWord h opc _ ho hb, 
    bit_slotWord h opc _ ho hb, Nat.reduceLT, Nat.reduceAdd, Nat.reduceLeDiff]
  clear hb
  obtain ⟨dest, queue, ord, scope, ⟨baser, basef⟩, off⟩ := o
  have hdest := dest.isLt
  have hqueue := queue.isLt
  have hord := ord.isLt
  have hscope := scope.isLt
  have hbaser := baser.isLt
  have hoff := off.isLt
  have hbasef := Bool.toNat_le basef
  simp only [Submit.enc, srcEnc, Submit.mk.injEq, Src.mk.injEq, ← BitVec.toNat_inj, BitVec.toNat_ofNat]
  repeat' apply And.intro
  all_goals first | omega | (apply bit_eq; omega)

theorem SkimOp.enc_lt (o : SkimOp) : o.enc < 2 ^ 52 := by
  obtain ⟨dest, ord, scope, ⟨baser, basef⟩, off⟩ := o
  have hdest := dest.isLt
  have hord := ord.isLt
  have hscope := scope.isLt
  have hbaser := baser.isLt
  have hoff := off.isLt
  have hbasef := Bool.toNat_le basef
  simp only [SkimOp.enc, srcEnc]
  omega

theorem SkimOp.dec_enc (h : Hdr) (opc : Nat) (ho : opc < 128) (o : SkimOp) : SkimOp.dec (slotWord h opc o.enc) = o := by
  have hb := o.enc_lt
  simp only [SkimOp.dec, srcAt, fld_slotWord h opc _ ho hb, 
    bit_slotWord h opc _ ho hb, Nat.reduceLT, Nat.reduceAdd, Nat.reduceLeDiff]
  clear hb
  obtain ⟨dest, ord, scope, ⟨baser, basef⟩, off⟩ := o
  have hdest := dest.isLt
  have hord := ord.isLt
  have hscope := scope.isLt
  have hbaser := baser.isLt
  have hoff := off.isLt
  have hbasef := Bool.toNat_le basef
  simp only [SkimOp.enc, srcEnc, SkimOp.mk.injEq, Src.mk.injEq, ← BitVec.toNat_inj, BitVec.toNat_ofNat]
  repeat' apply And.intro
  all_goals first | omega | (apply bit_eq; omega)

theorem EvOp.enc_lt (o : EvOp) : o.enc < 2 ^ 52 := by
  obtain ⟨ord, scope, ⟨ctrr, ctrf⟩, ⟨valr, valf⟩⟩ := o
  have hord := ord.isLt
  have hscope := scope.isLt
  have hctrr := ctrr.isLt
  have hvalr := valr.isLt
  have hctrf := Bool.toNat_le ctrf
  have hvalf := Bool.toNat_le valf
  simp only [EvOp.enc, srcEnc]
  omega

theorem EvOp.dec_enc (h : Hdr) (opc : Nat) (ho : opc < 128) (o : EvOp) : EvOp.dec (slotWord h opc o.enc) = o := by
  have hb := o.enc_lt
  simp only [EvOp.dec, srcAt, fld_slotWord h opc _ ho hb, 
    bit_slotWord h opc _ ho hb, Nat.reduceLT, Nat.reduceAdd, Nat.reduceLeDiff]
  clear hb
  obtain ⟨ord, scope, ⟨ctrr, ctrf⟩, ⟨valr, valf⟩⟩ := o
  have hord := ord.isLt
  have hscope := scope.isLt
  have hctrr := ctrr.isLt
  have hvalr := valr.isLt
  have hctrf := Bool.toNat_le ctrf
  have hvalf := Bool.toNat_le valf
  simp only [EvOp.enc, srcEnc, EvOp.mk.injEq, Src.mk.injEq, ← BitVec.toNat_inj, BitVec.toNat_ofNat]
  repeat' apply And.intro
  all_goals first | omega | (apply bit_eq; omega)

theorem TrapOp.enc_lt (o : TrapOp) : o.enc < 2 ^ 52 := by
  obtain ⟨num⟩ := o
  have hnum := num.isLt
  simp only [TrapOp.enc]
  omega

theorem TrapOp.dec_enc (h : Hdr) (opc : Nat) (ho : opc < 128) (o : TrapOp) : TrapOp.dec (slotWord h opc o.enc) = o := by
  have hb := o.enc_lt
  simp only [TrapOp.dec, fld_slotWord h opc _ ho hb, Nat.reduceAdd, Nat.reduceLeDiff]
  clear hb
  obtain ⟨num⟩ := o
  have hnum := num.isLt
  simp only [TrapOp.enc, TrapOp.mk.injEq, ← BitVec.toNat_inj, BitVec.toNat_ofNat]
  omega

theorem LoopMem.enc_lt (o : LoopMem) : o.enc < 2 ^ 52 := by
  obtain ⟨⟨baser, basef⟩, off⟩ := o
  have hbaser := baser.isLt
  have hoff := off.isLt
  have hbasef := Bool.toNat_le basef
  simp only [LoopMem.enc, srcEnc]
  omega

theorem LoopMem.dec_enc (h : Hdr) (opc : Nat) (ho : opc < 128) (o : LoopMem) : LoopMem.dec (slotWord h opc o.enc) = o :=
    by
  have hb := o.enc_lt
  simp only [LoopMem.dec, srcAt, fld_slotWord h opc _ ho hb, 
    bit_slotWord h opc _ ho hb, Nat.reduceLT, Nat.reduceAdd, Nat.reduceLeDiff]
  clear hb
  obtain ⟨⟨baser, basef⟩, off⟩ := o
  have hbaser := baser.isLt
  have hoff := off.isLt
  have hbasef := Bool.toNat_le basef
  simp only [LoopMem.enc, srcEnc, LoopMem.mk.injEq, Src.mk.injEq, ← BitVec.toNat_inj, BitVec.toNat_ofNat]
  repeat' apply And.intro
  all_goals first | omega | (apply bit_eq; omega)

theorem SvOp.enc_lt (o : SvOp) : o.enc < 2 ^ 52 := by
  obtain ⟨⟨baser, basef⟩, part, tag, ord, scope⟩ := o
  have hbaser := baser.isLt
  have hpart := part.isLt
  have htag := tag.isLt
  have hord := ord.isLt
  have hscope := scope.isLt
  have hbasef := Bool.toNat_le basef
  simp only [SvOp.enc, srcEnc]
  omega

theorem SvOp.dec_enc (h : Hdr) (opc : Nat) (ho : opc < 128) (o : SvOp) : SvOp.dec (slotWord h opc o.enc) = o := by
  have hb := o.enc_lt
  simp only [SvOp.dec, srcAt, fld_slotWord h opc _ ho hb, 
    bit_slotWord h opc _ ho hb, Nat.reduceLT, Nat.reduceAdd, Nat.reduceLeDiff]
  clear hb
  obtain ⟨⟨baser, basef⟩, part, tag, ord, scope⟩ := o
  have hbaser := baser.isLt
  have hpart := part.isLt
  have htag := tag.isLt
  have hord := ord.isLt
  have hscope := scope.isLt
  have hbasef := Bool.toNat_le basef
  simp only [SvOp.enc, srcEnc, SvOp.mk.injEq, Src.mk.injEq, ← BitVec.toNat_inj, BitVec.toNat_ofNat]
  repeat' apply And.intro
  all_goals first | omega | (apply bit_eq; omega)

theorem RR.bit39 (h : Hdr) (opc : Nat) (ho : opc < 128) (o : RR) : bit (slotWord h opc o.enc) 39 = false := by
  rw [bit_slotWord h opc _ ho o.enc_lt 39 (by omega)]
  apply bit_eq
  obtain ⟨d, ⟨ar, af⟩, ⟨br, bf⟩⟩ := o
  have hd := d.isLt
  have har := ar.isLt
  have hbr := br.isLt
  have haf := Bool.toNat_le af
  have hbf := Bool.toNat_le bf
  simp only [RR.enc, srcEnc, Bool.toNat_false]
  omega

theorem RI.bit39 (h : Hdr) (opc : Nat) (ho : opc < 128) (o : RI) : bit (slotWord h opc o.enc) 39 = true := by
  rw [bit_slotWord h opc _ ho o.enc_lt 39 (by omega)]
  apply bit_eq
  obtain ⟨d, ⟨ar, af⟩, imm⟩ := o
  have hd := d.isLt
  have har := ar.isLt
  have himm := imm.isLt
  have haf := Bool.toNat_le af
  simp only [RI.enc, srcEnc, Bool.toNat_true]
  omega

theorem SelR.bit39 (h : Hdr) (opc : Nat) (ho : opc < 128) (o : SelR) : bit (slotWord h opc o.enc) 39 = false := by
  rw [bit_slotWord h opc _ ho o.enc_lt 39 (by omega)]
  apply bit_eq
  obtain ⟨d, ⟨ar, af⟩, ⟨br, bf⟩, q⟩ := o
  have hd := d.isLt
  have har := ar.isLt
  have hbr := br.isLt
  have hq := q.isLt
  have haf := Bool.toNat_le af
  have hbf := Bool.toNat_le bf
  simp only [SelR.enc, srcEnc, Bool.toNat_false]
  omega

theorem SelI.bit39 (h : Hdr) (opc : Nat) (ho : opc < 128) (o : SelI) : bit (slotWord h opc o.enc) 39 = true := by
  rw [bit_slotWord h opc _ ho o.enc_lt 39 (by omega)]
  apply bit_eq
  obtain ⟨d, ⟨ar, af⟩, q, imm⟩ := o
  have hd := d.isLt
  have har := ar.isLt
  have hq := q.isLt
  have himm := imm.isLt
  have haf := Bool.toNat_le af
  simp only [SelI.enc, srcEnc, Bool.toNat_true]
  omega

theorem CmpR.bit39 (h : Hdr) (opc : Nat) (ho : opc < 128) (o : CmpR) : bit (slotWord h opc o.enc) 39 = false := by
  rw [bit_slotWord h opc _ ho o.enc_lt 39 (by omega)]
  apply bit_eq
  obtain ⟨pd, ⟨ar, af⟩, ⟨br, bf⟩⟩ := o
  have hpd := pd.isLt
  have har := ar.isLt
  have hbr := br.isLt
  have haf := Bool.toNat_le af
  have hbf := Bool.toNat_le bf
  simp only [CmpR.enc, srcEnc, Bool.toNat_false]
  omega

theorem CmpI.bit39 (h : Hdr) (opc : Nat) (ho : opc < 128) (o : CmpI) : bit (slotWord h opc o.enc) 39 = true := by
  rw [bit_slotWord h opc _ ho o.enc_lt 39 (by omega)]
  apply bit_eq
  obtain ⟨pd, ⟨ar, af⟩, imm⟩ := o
  have hpd := pd.isLt
  have har := ar.isLt
  have himm := imm.isLt
  have haf := Bool.toNat_le af
  simp only [CmpI.enc, srcEnc, Bool.toNat_true]
  omega

theorem FpR.bit39 (h : Hdr) (opc : Nat) (ho : opc < 128) (o : FpR) : bit (slotWord h opc o.enc) 39 = false := by
  rw [bit_slotWord h opc _ ho o.enc_lt 39 (by omega)]
  apply bit_eq
  obtain ⟨d, ⟨ar, af⟩, ⟨br, bf⟩, rm⟩ := o
  have hd := d.isLt
  have har := ar.isLt
  have hbr := br.isLt
  have hrm := rm.isLt
  have haf := Bool.toNat_le af
  have hbf := Bool.toNat_le bf
  simp only [FpR.enc, srcEnc, Bool.toNat_false]
  omega

theorem FpI.bit39 (h : Hdr) (opc : Nat) (ho : opc < 128) (o : FpI) : bit (slotWord h opc o.enc) 39 = true := by
  rw [bit_slotWord h opc _ ho o.enc_lt 39 (by omega)]
  apply bit_eq
  obtain ⟨d, ⟨ar, af⟩, rm, imm⟩ := o
  have hd := d.isLt
  have har := ar.isLt
  have hrm := rm.isLt
  have himm := imm.isLt
  have haf := Bool.toNat_le af
  simp only [FpI.enc, srcEnc, Bool.toNat_true]
  omega

theorem FcmpR.bit39 (h : Hdr) (opc : Nat) (ho : opc < 128) (o : FcmpR) : bit (slotWord h opc o.enc) 39 = false := by
  rw [bit_slotWord h opc _ ho o.enc_lt 39 (by omega)]
  apply bit_eq
  obtain ⟨pd, ⟨ar, af⟩, ⟨br, bf⟩, rm⟩ := o
  have hpd := pd.isLt
  have har := ar.isLt
  have hbr := br.isLt
  have hrm := rm.isLt
  have haf := Bool.toNat_le af
  have hbf := Bool.toNat_le bf
  simp only [FcmpR.enc, srcEnc, Bool.toNat_false]
  omega

theorem FcmpI.bit39 (h : Hdr) (opc : Nat) (ho : opc < 128) (o : FcmpI) : bit (slotWord h opc o.enc) 39 = true := by
  rw [bit_slotWord h opc _ ho o.enc_lt 39 (by omega)]
  apply bit_eq
  obtain ⟨pd, ⟨ar, af⟩, rm, imm⟩ := o
  have hpd := pd.isLt
  have har := ar.isLt
  have hrm := rm.isLt
  have himm := imm.isLt
  have haf := Bool.toNat_le af
  simp only [FcmpI.enc, srcEnc, Bool.toNat_true]
  omega

theorem Mem.enc_mode_lt (o : Mem) : o.enc + 2 ^ 30 < 2 ^ 52 := by
  obtain ⟨reg, ⟨baser, basef⟩, size, bit36, ord, scope, off⟩ := o
  have hreg := reg.isLt
  have hbaser := baser.isLt
  have hsize := size.isLt
  have hord := ord.isLt
  have hscope := scope.isLt
  have hoff := off.isLt
  have hbasef := Bool.toNat_le basef
  have hbit36 := Bool.toNat_le bit36
  simp only [Mem.enc, srcEnc]
  omega

theorem Mem.dec_enc_mode (h : Hdr) (opc : Nat) (ho : opc < 128) (o : Mem) :
    Mem.dec (slotWord h opc (o.enc + 2 ^ 30)) = o := by
  have hb := o.enc_mode_lt
  simp only [Mem.dec, srcAt, fld_slotWord h opc _ ho hb, bit_slotWord h opc _ ho hb, Nat.reduceLT, Nat.reduceAdd,
    Nat.reduceLeDiff]
  clear hb
  obtain ⟨reg, ⟨baser, basef⟩, size, bit36, ord, scope, off⟩ := o
  have hreg := reg.isLt
  have hbaser := baser.isLt
  have hsize := size.isLt
  have hord := ord.isLt
  have hscope := scope.isLt
  have hoff := off.isLt
  have hbasef := Bool.toNat_le basef
  have hbit36 := Bool.toNat_le bit36
  simp only [Mem.enc, srcEnc, Mem.mk.injEq, Src.mk.injEq, ← BitVec.toNat_inj, BitVec.toNat_ofNat]
  repeat' apply And.intro
  all_goals first | omega | (apply bit_eq; omega)

theorem Mem.mode0 (h : Hdr) (opc : Nat) (ho : opc < 128) (o : Mem) : fld 2 (slotWord h opc o.enc) 29 = 0#2 := by
  rw [fld_slotWord h opc _ ho o.enc_lt 2 29 (by omega), ← BitVec.toNat_inj, BitVec.toNat_ofNat, BitVec.toNat_ofNat]
  obtain ⟨reg, ⟨baser, basef⟩, size, bit36, ord, scope, off⟩ := o
  have hreg := reg.isLt
  have hbaser := baser.isLt
  have hsize := size.isLt
  have hord := ord.isLt
  have hscope := scope.isLt
  have hoff := off.isLt
  have hbasef := Bool.toNat_le basef
  have hbit36 := Bool.toNat_le bit36
  simp only [Mem.enc, srcEnc]
  omega

theorem Mem.mode1 (h : Hdr) (opc : Nat) (ho : opc < 128) (o : Mem) : fld 2 (slotWord h opc (o.enc + 2 ^ 30)) 29 = 2#2 :=
    by
  rw [fld_slotWord h opc _ ho o.enc_mode_lt 2 29 (by omega), ← BitVec.toNat_inj, BitVec.toNat_ofNat, BitVec.toNat_ofNat]
  obtain ⟨reg, ⟨baser, basef⟩, size, bit36, ord, scope, off⟩ := o
  have hreg := reg.isLt
  have hbaser := baser.isLt
  have hsize := size.isLt
  have hord := ord.isLt
  have hscope := scope.isLt
  have hoff := off.isLt
  have hbasef := Bool.toNat_le basef
  have hbit36 := Bool.toNat_le bit36
  simp only [Mem.enc, srcEnc]
  omega

theorem MemIdx.enc_mode_lt (o : MemIdx) : o.enc + 2 ^ 29 < 2 ^ 52 := by
  obtain ⟨reg, ⟨baser, basef⟩, size, bit36, ord, scope, ⟨indexr, indexf⟩⟩ := o
  have hreg := reg.isLt
  have hbaser := baser.isLt
  have hsize := size.isLt
  have hord := ord.isLt
  have hscope := scope.isLt
  have hindexr := indexr.isLt
  have hbasef := Bool.toNat_le basef
  have hbit36 := Bool.toNat_le bit36
  have hindexf := Bool.toNat_le indexf
  simp only [MemIdx.enc, srcEnc]
  omega

theorem MemIdx.dec_enc_mode (h : Hdr) (opc : Nat) (ho : opc < 128) (o : MemIdx) :
    MemIdx.dec (slotWord h opc (o.enc + 2 ^ 29)) = o := by
  have hb := o.enc_mode_lt
  simp only [MemIdx.dec, srcAt, fld_slotWord h opc _ ho hb, bit_slotWord h opc _ ho hb, Nat.reduceLT, Nat.reduceAdd,
    Nat.reduceLeDiff]
  clear hb
  obtain ⟨reg, ⟨baser, basef⟩, size, bit36, ord, scope, ⟨indexr, indexf⟩⟩ := o
  have hreg := reg.isLt
  have hbaser := baser.isLt
  have hsize := size.isLt
  have hord := ord.isLt
  have hscope := scope.isLt
  have hindexr := indexr.isLt
  have hbasef := Bool.toNat_le basef
  have hbit36 := Bool.toNat_le bit36
  have hindexf := Bool.toNat_le indexf
  simp only [MemIdx.enc, srcEnc, MemIdx.mk.injEq, Src.mk.injEq, ← BitVec.toNat_inj, BitVec.toNat_ofNat]
  repeat' apply And.intro
  all_goals first | omega | (apply bit_eq; omega)

theorem MemIdx.mode1 (h : Hdr) (opc : Nat) (ho : opc < 128) (o : MemIdx) : fld 2 (slotWord h opc (o.enc + 2 ^ 29)) 29 = 1#2 :=
    by
  rw [fld_slotWord h opc _ ho o.enc_mode_lt 2 29 (by omega), ← BitVec.toNat_inj, BitVec.toNat_ofNat, BitVec.toNat_ofNat]
  obtain ⟨reg, ⟨baser, basef⟩, size, bit36, ord, scope, ⟨indexr, indexf⟩⟩ := o
  have hreg := reg.isLt
  have hbaser := baser.isLt
  have hsize := size.isLt
  have hord := ord.isLt
  have hscope := scope.isLt
  have hindexr := indexr.isLt
  have hbasef := Bool.toNat_le basef
  have hbit36 := Bool.toNat_le bit36
  have hindexf := Bool.toNat_le indexf
  simp only [MemIdx.enc, srcEnc]
  omega

theorem LineMem.enc_mode_lt (o : LineMem) : o.enc + 2 ^ 23 < 2 ^ 52 := by
  obtain ⟨line, ad, ord, scope, ⟨baser, basef⟩, mask, off⟩ := o
  have hline := line.isLt
  have hord := ord.isLt
  have hscope := scope.isLt
  have hbaser := baser.isLt
  have hmask := mask.isLt
  have hoff := off.isLt
  have had := Bool.toNat_le ad
  have hbasef := Bool.toNat_le basef
  simp only [LineMem.enc, srcEnc]
  omega

theorem LineMem.dec_enc_mode (h : Hdr) (opc : Nat) (ho : opc < 128) (o : LineMem) :
    LineMem.dec (slotWord h opc (o.enc + 2 ^ 23)) = o := by
  have hb := o.enc_mode_lt
  simp only [LineMem.dec, srcAt, fld_slotWord h opc _ ho hb, bit_slotWord h opc _ ho hb, Nat.reduceLT, Nat.reduceAdd,
    Nat.reduceLeDiff]
  clear hb
  obtain ⟨line, ad, ord, scope, ⟨baser, basef⟩, mask, off⟩ := o
  have hline := line.isLt
  have hord := ord.isLt
  have hscope := scope.isLt
  have hbaser := baser.isLt
  have hmask := mask.isLt
  have hoff := off.isLt
  have had := Bool.toNat_le ad
  have hbasef := Bool.toNat_le basef
  simp only [LineMem.enc, srcEnc, LineMem.mk.injEq, Src.mk.injEq, ← BitVec.toNat_inj, BitVec.toNat_ofNat]
  repeat' apply And.intro
  all_goals first | omega | (apply bit_eq; omega)

theorem LineMem.mode0 (h : Hdr) (opc : Nat) (ho : opc < 128) (o : LineMem) : fld 2 (slotWord h opc o.enc) 22 = 0#2 := by
  rw [fld_slotWord h opc _ ho o.enc_lt 2 22 (by omega), ← BitVec.toNat_inj, BitVec.toNat_ofNat, BitVec.toNat_ofNat]
  obtain ⟨line, ad, ord, scope, ⟨baser, basef⟩, mask, off⟩ := o
  have hline := line.isLt
  have hord := ord.isLt
  have hscope := scope.isLt
  have hbaser := baser.isLt
  have hmask := mask.isLt
  have hoff := off.isLt
  have had := Bool.toNat_le ad
  have hbasef := Bool.toNat_le basef
  simp only [LineMem.enc, srcEnc]
  omega

theorem LineMem.mode1 (h : Hdr) (opc : Nat) (ho : opc < 128) (o : LineMem) : fld 2 (slotWord h opc (o.enc + 2 ^ 23)) 22 = 2#2 :=
    by
  rw [fld_slotWord h opc _ ho o.enc_mode_lt 2 22 (by omega), ← BitVec.toNat_inj, BitVec.toNat_ofNat, BitVec.toNat_ofNat]
  obtain ⟨line, ad, ord, scope, ⟨baser, basef⟩, mask, off⟩ := o
  have hline := line.isLt
  have hord := ord.isLt
  have hscope := scope.isLt
  have hbaser := baser.isLt
  have hmask := mask.isLt
  have hoff := off.isLt
  have had := Bool.toNat_le ad
  have hbasef := Bool.toNat_le basef
  simp only [LineMem.enc, srcEnc]
  omega

/-- The word of a slot operation is a slot word with its own header. -/
theorem encodeWord_slot (i : Instr) (h : Hdr) (hi : hdrOfInstr i = some h) :
    ∃ opc body, opc < 128 ∧ body < 2 ^ 52 ∧ encodeWord i = slotWord h opc body := by
  cases i <;> cases hi
  · exact ⟨0x00, _, by decide, by decide, rfl⟩
  · exact ⟨0x01, _, by decide, RR.enc_lt _, rfl⟩
  · exact ⟨0x01, _, by decide, RI.enc_lt _, rfl⟩
  · exact ⟨0x02, _, by decide, RR.enc_lt _, rfl⟩
  · exact ⟨0x02, _, by decide, RI.enc_lt _, rfl⟩
  · exact ⟨0x03, _, by decide, RR.enc_lt _, rfl⟩
  · exact ⟨0x03, _, by decide, RI.enc_lt _, rfl⟩
  · exact ⟨0x04, _, by decide, RR.enc_lt _, rfl⟩
  · exact ⟨0x04, _, by decide, RI.enc_lt _, rfl⟩
  · exact ⟨0x05, _, by decide, RR.enc_lt _, rfl⟩
  · exact ⟨0x05, _, by decide, RI.enc_lt _, rfl⟩
  · exact ⟨0x06, _, by decide, RR.enc_lt _, rfl⟩
  · exact ⟨0x06, _, by decide, RI.enc_lt _, rfl⟩
  · exact ⟨0x07, _, by decide, RR.enc_lt _, rfl⟩
  · exact ⟨0x07, _, by decide, RI.enc_lt _, rfl⟩
  · exact ⟨0x08, _, by decide, RR.enc_lt _, rfl⟩
  · exact ⟨0x08, _, by decide, RI.enc_lt _, rfl⟩
  · exact ⟨0x09, _, by decide, RR.enc_lt _, rfl⟩
  · exact ⟨0x09, _, by decide, RI.enc_lt _, rfl⟩
  · exact ⟨0x0A, _, by decide, RR.enc_lt _, rfl⟩
  · exact ⟨0x0A, _, by decide, RI.enc_lt _, rfl⟩
  · exact ⟨0x0B, _, by decide, RR.enc_lt _, rfl⟩
  · exact ⟨0x0B, _, by decide, RI.enc_lt _, rfl⟩
  · exact ⟨0x0C, _, by decide, RR.enc_lt _, rfl⟩
  · exact ⟨0x0C, _, by decide, RI.enc_lt _, rfl⟩
  · exact ⟨0x0D, _, by decide, RR.enc_lt _, rfl⟩
  · exact ⟨0x0D, _, by decide, RI.enc_lt _, rfl⟩
  · exact ⟨0x0E, _, by decide, RR.enc_lt _, rfl⟩
  · exact ⟨0x0E, _, by decide, RI.enc_lt _, rfl⟩
  · exact ⟨0x0F, _, by decide, RR.enc_lt _, rfl⟩
  · exact ⟨0x0F, _, by decide, RI.enc_lt _, rfl⟩
  · exact ⟨0x10, _, by decide, RR.enc_lt _, rfl⟩
  · exact ⟨0x10, _, by decide, RI.enc_lt _, rfl⟩
  · exact ⟨0x11, _, by decide, RR.enc_lt _, rfl⟩
  · exact ⟨0x11, _, by decide, RI.enc_lt _, rfl⟩
  · exact ⟨0x12, _, by decide, RR.enc_lt _, rfl⟩
  · exact ⟨0x12, _, by decide, RI.enc_lt _, rfl⟩
  · exact ⟨0x13, _, by decide, RR.enc_lt _, rfl⟩
  · exact ⟨0x13, _, by decide, RI.enc_lt _, rfl⟩
  · exact ⟨0x14, _, by decide, RR.enc_lt _, rfl⟩
  · exact ⟨0x14, _, by decide, RI.enc_lt _, rfl⟩
  · exact ⟨0x15, _, by decide, RR.enc_lt _, rfl⟩
  · exact ⟨0x15, _, by decide, RI.enc_lt _, rfl⟩
  · exact ⟨0x16, _, by decide, R1.enc_lt _, rfl⟩
  · exact ⟨0x17, _, by decide, R1.enc_lt _, rfl⟩
  · exact ⟨0x18, _, by decide, R1.enc_lt _, rfl⟩
  · exact ⟨0x19, _, by decide, Bf.enc_lt _, rfl⟩
  · exact ⟨0x1A, _, by decide, Bf.enc_lt _, rfl⟩
  · exact ⟨0x1B, _, by decide, Bfi.enc_lt _, rfl⟩
  · exact ⟨0x1C, _, by decide, R3.enc_lt _, rfl⟩
  · exact ⟨0x1D, _, by decide, R3.enc_lt _, rfl⟩
  · exact ⟨0x1E, _, by decide, SelR.enc_lt _, rfl⟩
  · exact ⟨0x1E, _, by decide, SelI.enc_lt _, rfl⟩
  · exact ⟨0x1F, _, by decide, Movi.enc_lt _, rfl⟩
  · exact ⟨0x20, _, by decide, RI.enc_lt _, rfl⟩
  · exact ⟨0x21, _, by decide, CmpR.enc_lt _, rfl⟩
  · exact ⟨0x21, _, by decide, CmpI.enc_lt _, rfl⟩
  · exact ⟨0x22, _, by decide, CmpR.enc_lt _, rfl⟩
  · exact ⟨0x22, _, by decide, CmpI.enc_lt _, rfl⟩
  · exact ⟨0x23, _, by decide, CmpR.enc_lt _, rfl⟩
  · exact ⟨0x23, _, by decide, CmpI.enc_lt _, rfl⟩
  · exact ⟨0x24, _, by decide, CmpR.enc_lt _, rfl⟩
  · exact ⟨0x24, _, by decide, CmpI.enc_lt _, rfl⟩
  · exact ⟨0x25, _, by decide, CmpR.enc_lt _, rfl⟩
  · exact ⟨0x25, _, by decide, CmpI.enc_lt _, rfl⟩
  · exact ⟨0x26, _, by decide, CmpR.enc_lt _, rfl⟩
  · exact ⟨0x26, _, by decide, CmpI.enc_lt _, rfl⟩
  · exact ⟨0x28, _, by decide, PredOp.enc_lt _, rfl⟩
  · exact ⟨0x29, _, by decide, PredOp.enc_lt _, rfl⟩
  · exact ⟨0x2A, _, by decide, PredOp.enc_lt _, rfl⟩
  · exact ⟨0x2B, _, by decide, PredOp.enc_lt _, rfl⟩
  · exact ⟨0x2C, _, by decide, PsetOp.enc_lt _, rfl⟩
  · exact ⟨0x30, _, by decide, FpR.enc_lt _, rfl⟩
  · exact ⟨0x30, _, by decide, FpI.enc_lt _, rfl⟩
  · exact ⟨0x31, _, by decide, FpR.enc_lt _, rfl⟩
  · exact ⟨0x31, _, by decide, FpI.enc_lt _, rfl⟩
  · exact ⟨0x32, _, by decide, FpR.enc_lt _, rfl⟩
  · exact ⟨0x32, _, by decide, FpI.enc_lt _, rfl⟩
  · exact ⟨0x33, _, by decide, Fma3.enc_lt _, rfl⟩
  · exact ⟨0x34, _, by decide, FpR.enc_lt _, rfl⟩
  · exact ⟨0x34, _, by decide, FpI.enc_lt _, rfl⟩
  · exact ⟨0x35, _, by decide, FpR.enc_lt _, rfl⟩
  · exact ⟨0x35, _, by decide, FpI.enc_lt _, rfl⟩
  · exact ⟨0x36, _, by decide, FcmpR.enc_lt _, rfl⟩
  · exact ⟨0x36, _, by decide, FcmpI.enc_lt _, rfl⟩
  · exact ⟨0x37, _, by decide, FcmpR.enc_lt _, rfl⟩
  · exact ⟨0x37, _, by decide, FcmpI.enc_lt _, rfl⟩
  · exact ⟨0x38, _, by decide, FcmpR.enc_lt _, rfl⟩
  · exact ⟨0x38, _, by decide, FcmpI.enc_lt _, rfl⟩
  · exact ⟨0x39, _, by decide, Fcvt.enc_lt _, rfl⟩
  · exact ⟨0x3A, _, by decide, Fcvt.enc_lt _, rfl⟩
  · exact ⟨0x3E, _, by decide, Rdsr.enc_lt _, rfl⟩
  · exact ⟨0x3F, _, by decide, Wrsr.enc_lt _, rfl⟩
  · exact ⟨0x00, _, by decide, by decide, rfl⟩
  · exact ⟨0x01, _, by decide, Mem.enc_lt _, rfl⟩
  · exact ⟨0x01, _, by decide, MemIdx.enc_mode_lt _, rfl⟩
  · exact ⟨0x01, _, by decide, Mem.enc_mode_lt _, rfl⟩
  · exact ⟨0x02, _, by decide, Mem.enc_lt _, rfl⟩
  · exact ⟨0x02, _, by decide, MemIdx.enc_mode_lt _, rfl⟩
  · exact ⟨0x02, _, by decide, Mem.enc_mode_lt _, rfl⟩
  · exact ⟨0x03, _, by decide, LineMem.enc_lt _, rfl⟩
  · exact ⟨0x03, _, by decide, LineMem.enc_mode_lt _, rfl⟩
  · exact ⟨0x04, _, by decide, LineMem.enc_lt _, rfl⟩
  · exact ⟨0x04, _, by decide, LineMem.enc_mode_lt _, rfl⟩
  · exact ⟨0x05, _, by decide, Gather.enc_lt _, rfl⟩
  · exact ⟨0x06, _, by decide, Gather.enc_lt _, rfl⟩
  · exact ⟨0x08, _, by decide, Gld.enc_lt _, rfl⟩
  · exact ⟨0x09, _, by decide, Glds.enc_lt _, rfl⟩
  · exact ⟨0x0A, _, by decide, Amo.enc_lt _, rfl⟩
  · exact ⟨0x0B, _, by decide, Cas.enc_lt _, rfl⟩
  · exact ⟨0x0C, _, by decide, Amol.enc_lt _, rfl⟩
  · exact ⟨0x10, _, by decide, Pcfg.enc_lt _, rfl⟩
  · exact ⟨0x11, _, by decide, PortOp.enc_lt _, rfl⟩
  · exact ⟨0x12, _, by decide, Hgive.enc_lt _, rfl⟩
  · exact ⟨0x13, _, by decide, Htake.enc_lt _, rfl⟩
  · exact ⟨0x14, _, by decide, Hback.enc_lt _, rfl⟩
  · exact ⟨0x00, _, by decide, by decide, rfl⟩
  · exact ⟨0x01, _, by decide, VF.enc_lt _, rfl⟩
  · exact ⟨0x02, _, by decide, VF.enc_lt _, rfl⟩
  · exact ⟨0x03, _, by decide, VF.enc_lt _, rfl⟩
  · exact ⟨0x04, _, by decide, VF.enc_lt _, rfl⟩
  · exact ⟨0x05, _, by decide, VF.enc_lt _, rfl⟩
  · exact ⟨0x06, _, by decide, VF.enc_lt _, rfl⟩
  · exact ⟨0x07, _, by decide, VF.enc_lt _, rfl⟩
  · exact ⟨0x08, _, by decide, VF.enc_lt _, rfl⟩
  · exact ⟨0x09, _, by decide, VF.enc_lt _, rfl⟩
  · exact ⟨0x0A, _, by decide, VF.enc_lt _, rfl⟩
  · exact ⟨0x0B, _, by decide, VF.enc_lt _, rfl⟩
  · exact ⟨0x0C, _, by decide, VF.enc_lt _, rfl⟩
  · exact ⟨0x0D, _, by decide, VF.enc_lt _, rfl⟩
  · exact ⟨0x0E, _, by decide, VF.enc_lt _, rfl⟩
  · exact ⟨0x10, _, by decide, VF.enc_lt _, rfl⟩
  · exact ⟨0x11, _, by decide, VF.enc_lt _, rfl⟩
  · exact ⟨0x12, _, by decide, VF.enc_lt _, rfl⟩
  · exact ⟨0x13, _, by decide, VF.enc_lt _, rfl⟩
  · exact ⟨0x14, _, by decide, VF.enc_lt _, rfl⟩
  · exact ⟨0x15, _, by decide, VF.enc_lt _, rfl⟩
  · exact ⟨0x16, _, by decide, VF.enc_lt _, rfl⟩
  · exact ⟨0x17, _, by decide, VF.enc_lt _, rfl⟩
  · exact ⟨0x18, _, by decide, VF.enc_lt _, rfl⟩
  · exact ⟨0x19, _, by decide, VF.enc_lt _, rfl⟩
  · exact ⟨0x1A, _, by decide, VF.enc_lt _, rfl⟩
  · exact ⟨0x1B, _, by decide, VF.enc_lt _, rfl⟩
  · exact ⟨0x1C, _, by decide, VF.enc_lt _, rfl⟩
  · exact ⟨0x1D, _, by decide, VF.enc_lt _, rfl⟩
  · exact ⟨0x20, _, by decide, VF.enc_lt _, rfl⟩
  · exact ⟨0x21, _, by decide, VF.enc_lt _, rfl⟩
  · exact ⟨0x22, _, by decide, VF.enc_lt _, rfl⟩
  · exact ⟨0x23, _, by decide, VF.enc_lt _, rfl⟩
  · exact ⟨0x24, _, by decide, VF.enc_lt _, rfl⟩
  · exact ⟨0x25, _, by decide, VF.enc_lt _, rfl⟩
  · exact ⟨0x26, _, by decide, VF.enc_lt _, rfl⟩
  · exact ⟨0x28, _, by decide, VF.enc_lt _, rfl⟩
  · exact ⟨0x29, _, by decide, VF.enc_lt _, rfl⟩
  · exact ⟨0x2A, _, by decide, VF.enc_lt _, rfl⟩
  · exact ⟨0x2B, _, by decide, VF.enc_lt _, rfl⟩
  · exact ⟨0x2C, _, by decide, VF.enc_lt _, rfl⟩
  · exact ⟨0x30, _, by decide, VF.enc_lt _, rfl⟩
  · exact ⟨0x31, _, by decide, VF.enc_lt _, rfl⟩
  · exact ⟨0x32, _, by decide, VF.enc_lt _, rfl⟩
  · exact ⟨0x38, _, by decide, VF.enc_lt _, rfl⟩
  · exact ⟨0x39, _, by decide, VF.enc_lt _, rfl⟩
  · exact ⟨0x3A, _, by decide, VF.enc_lt _, rfl⟩
  · exact ⟨0x3B, _, by decide, VF.enc_lt _, rfl⟩
  · exact ⟨0x3C, _, by decide, VF.enc_lt _, rfl⟩
  · exact ⟨0x3D, _, by decide, VF.enc_lt _, rfl⟩
  · exact ⟨0x00, _, by decide, by decide, rfl⟩
  · exact ⟨0x01, _, by decide, XF.enc_lt _, rfl⟩
  · exact ⟨0x02, _, by decide, XF.enc_lt _, rfl⟩
  · exact ⟨0x03, _, by decide, XF.enc_lt _, rfl⟩
  · exact ⟨0x04, _, by decide, XF.enc_lt _, rfl⟩
  · exact ⟨0x05, _, by decide, XF.enc_lt _, rfl⟩
  · exact ⟨0x06, _, by decide, XF.enc_lt _, rfl⟩
  · exact ⟨0x07, _, by decide, XF.enc_lt _, rfl⟩
  · exact ⟨0x08, _, by decide, XF.enc_lt _, rfl⟩
  · exact ⟨0x09, _, by decide, XF.enc_lt _, rfl⟩
  · exact ⟨0x0A, _, by decide, XF.enc_lt _, rfl⟩
  · exact ⟨0x0B, _, by decide, XF.enc_lt _, rfl⟩
  · exact ⟨0x0C, _, by decide, XF.enc_lt _, rfl⟩
  · exact ⟨0x0D, _, by decide, XF.enc_lt _, rfl⟩
  · exact ⟨0x0E, _, by decide, XF.enc_lt _, rfl⟩
  · exact ⟨0x0F, _, by decide, XF.enc_lt _, rfl⟩
  · exact ⟨0x00, _, by decide, by decide, rfl⟩
  · exact ⟨0x01, _, by decide, MF.enc_lt _, rfl⟩
  · exact ⟨0x02, _, by decide, MF.enc_lt _, rfl⟩
  · exact ⟨0x03, _, by decide, MF.enc_lt _, rfl⟩
  · exact ⟨0x04, _, by decide, MF.enc_lt _, rfl⟩
  · exact ⟨0x05, _, by decide, MF.enc_lt _, rfl⟩
  · exact ⟨0x06, _, by decide, MF.enc_lt _, rfl⟩
  · exact ⟨0x07, _, by decide, MF.enc_lt _, rfl⟩
  · exact ⟨0x08, _, by decide, MF.enc_lt _, rfl⟩
  · exact ⟨0x09, _, by decide, MF.enc_lt _, rfl⟩
  · exact ⟨0x0A, _, by decide, MF.enc_lt _, rfl⟩
  · exact ⟨0x00, _, by decide, by decide, rfl⟩
  · exact ⟨0x01, _, by decide, RecOp.enc_lt _, rfl⟩
  · exact ⟨0x02, _, by decide, RecDst.enc_lt _, rfl⟩
  · exact ⟨0x03, _, by decide, TagMask.enc_lt _, rfl⟩
  · exact ⟨0x04, _, by decide, TagMask.enc_lt _, rfl⟩
  · exact ⟨0x05, _, by decide, Tfind.enc_lt _, rfl⟩
  · exact ⟨0x06, _, by decide, TagMask.enc_lt _, rfl⟩
  · exact ⟨0x08, _, by decide, Order.enc_lt _, rfl⟩
  · exact ⟨0x08, _, by decide, by decide, rfl⟩
  · exact ⟨0x09, _, by decide, Drain.enc_lt _, rfl⟩
  · exact ⟨0x0A, _, by decide, GroupOp.enc_lt _, rfl⟩
  · exact ⟨0x0B, _, by decide, GroupOp.enc_lt _, rfl⟩
  · exact ⟨0x0C, _, by decide, Btest.enc_lt _, rfl⟩
  · exact ⟨0x10, _, by decide, StepOp.enc_lt _, rfl⟩
  · exact ⟨0x11, _, by decide, Order.enc_lt _, rfl⟩
  · exact ⟨0x12, _, by decide, by decide, rfl⟩
  · exact ⟨0x13, _, by decide, Submit.enc_lt _, rfl⟩
  · exact ⟨0x14, _, by decide, SkimOp.enc_lt _, rfl⟩
  · exact ⟨0x15, _, by decide, EvOp.enc_lt _, rfl⟩
  · exact ⟨0x16, _, by decide, EvOp.enc_lt _, rfl⟩
  · exact ⟨0x18, _, by decide, TrapOp.enc_lt _, rfl⟩
  · exact ⟨0x19, _, by decide, by decide, rfl⟩
  · exact ⟨0x1A, _, by decide, LoopMem.enc_lt _, rfl⟩
  · exact ⟨0x1B, _, by decide, LoopMem.enc_lt _, rfl⟩
  · exact ⟨0x1C, _, by decide, SvOp.enc_lt _, rfl⟩
  · exact ⟨0x1D, _, by decide, SvOp.enc_lt _, rfl⟩

/-- The guard of a slot operation's word is the guard of its header (R27). -/
theorem hdrOf_encodeWord (i : Instr) (h : Hdr) (hi : hdrOfInstr i = some h) : hdrOf h.slot (encodeWord i) = h := by
  obtain ⟨opc, body, ho, hb, he⟩ := encodeWord_slot i h hi
  rw [he, hdrOf_slotWord h opc body ho hb]

/-- No bit of a word stands above bit 63. -/
theorem opc_encodeWord (i : Instr) (h : Hdr) (hi : hdrOfInstr i = some h) : (encodeWord i).toNat >>> 57 < 128 := by
  rw [Nat.shiftRight_eq_div_pow]; have := (encodeWord i).isLt; omega

end Sys2Proof
end

