-- ==== Sys2Proof/Laws/Map.lean ====
section
/-! SUPPORT. Sparse arrays: what is read after a write. -/

namespace Sys2Proof

@[simp] theorem FMap.look_nil {α : Type} (d : α) (k : Nat) : FMap.look d [] k = d := rfl

@[simp] theorem FMap.look_put_same {α : Type} (d : α) (m : FMap α) (k : Nat) (v : α) : (m.put k v).look d k = v := by
  induction m with
  | nil => simp [FMap.put, FMap.look]
  | cons p m ih =>
    obtain ⟨a, w⟩ := p
    rcases lt_trichotomy k a with h | h | h
    · simp [FMap.put, FMap.look, h]
    · simp [FMap.put, FMap.look, h]
    · have h1 : ¬ k < a := by omega
      have h2 : a ≠ k := by omega
      simp [FMap.put, FMap.look, h1, h2, ih]

theorem FMap.look_put_ne {α : Type} (d : α) (m : FMap α) (k : Nat) (v : α) (j : Nat) (h : j ≠ k) :
    (m.put k v).look d j = m.look d j := by
  induction m with
  | nil => simp [FMap.put, FMap.look]; omega
  | cons p m ih =>
    obtain ⟨a, w⟩ := p
    rcases lt_trichotomy k a with hk | hk | hk
    · simp only [FMap.put, FMap.look, hk, if_true]
      split_ifs <;> first | rfl | omega
    · subst hk
      simp only [FMap.put, FMap.look, lt_irrefl, if_false, if_true]
      split_ifs <;> first | rfl | omega
    · have h1 : ¬ k < a := by omega
      have h2 : a ≠ k := by omega
      simp only [FMap.put, FMap.look, h1, h2, if_false, ih]

theorem FMap.look_put {α : Type} (d : α) (m : FMap α) (k : Nat) (v : α) (j : Nat) :
    (m.put k v).look d j = if j = k then v else m.look d j := by
  split
  · next h => rw [h, FMap.look_put_same]
  · next h => exact FMap.look_put_ne d m k v j h

@[simp] theorem FMap.find_put_same {α : Type} (m : FMap α) (k : Nat) (v : α) : (m.put k v).find k = some v := by
  induction m with
  | nil => simp [FMap.put, FMap.find]
  | cons p m ih =>
    obtain ⟨a, w⟩ := p
    rcases lt_trichotomy k a with h | h | h
    · simp [FMap.put, FMap.find, h]
    · simp [FMap.put, FMap.find, h]
    · have h1 : ¬ k < a := by omega
      have h2 : a ≠ k := by omega
      simp [FMap.put, FMap.find, h1, h2, ih]

theorem FMap.find_put_ne {α : Type} (m : FMap α) (k : Nat) (v : α) (j : Nat) (h : j ≠ k) :
    (m.put k v).find j = m.find j := by
  induction m with
  | nil => simp [FMap.put, FMap.find]; omega
  | cons p m ih =>
    obtain ⟨a, w⟩ := p
    rcases lt_trichotomy k a with hk | hk | hk
    · simp only [FMap.put, FMap.find, hk, if_true]
      split_ifs <;> first | rfl | omega
    · subst hk
      simp only [FMap.put, FMap.find, lt_irrefl, if_false, if_true]
      split_ifs <;> first | rfl | omega
    · have h1 : ¬ k < a := by omega
      have h2 : a ≠ k := by omega
      simp only [FMap.put, FMap.find, h1, h2, if_false, ih]

/-- A second write to a key replaces the first. -/
@[simp] theorem FMap.put_put {α : Type} (m : FMap α) (k : Nat) (v w : α) : (m.put k v).put k w = m.put k w := by
  induction m with
  | nil => simp [FMap.put]
  | cons p m ih =>
    obtain ⟨a, u⟩ := p
    rcases lt_trichotomy k a with h | h | h
    · simp [FMap.put, h]
    · simp [FMap.put, h]
    · have h1 : ¬ k < a := by omega
      have h2 : a ≠ k := by omega
      simp [FMap.put, h1, h2, ih]

end Sys2Proof
end

