-- ==== Sys2Proof/Laws/State.lean ====
section
/-! SUPPORT. One lemma for each field of a state under each named update, true by rfl; and what a core and a context read
after one. -/

namespace Sys2Proof.Machine

@[simp] theorem State.setCore_mem (s : State) (n : Nat) (c : Core) : (s.setCore n c).mem = s.mem := rfl
@[simp] theorem State.setCore_counters (s : State) (n : Nat) (c : Core) : (s.setCore n c).counters = s.counters := rfl
@[simp] theorem State.setCore_irqs (s : State) (n : Nat) (c : Core) : (s.setCore n c).irqs = s.irqs := rfl
@[simp] theorem State.setCore_msix (s : State) (n : Nat) (c : Core) : (s.setCore n c).msix = s.msix := rfl
@[simp] theorem State.setCore_copies (s : State) (n : Nat) (c : Core) : (s.setCore n c).copies = s.copies := rfl
@[simp] theorem State.setCore_nextCopy (s : State) (n : Nat) (c : Core) : (s.setCore n c).nextCopy = s.nextCopy := rfl
@[simp] theorem State.setCore_nt (s : State) (n : Nat) (c : Core) : (s.setCore n c).nt = s.nt := rfl
@[simp] theorem State.setCore_groups (s : State) (n : Nat) (c : Core) : (s.setCore n c).groups = s.groups := rfl
@[simp] theorem State.setCore_sched (s : State) (n : Nat) (c : Core) : (s.setCore n c).sched = s.sched := rfl
@[simp] theorem State.setCore_coll (s : State) (n : Nat) (c : Core) : (s.setCore n c).coll = s.coll := rfl
@[simp] theorem State.setCore_xl (s : State) (n : Nat) (c : Core) : (s.setCore n c).xl = s.xl := rfl
@[simp] theorem State.setCore_dm (s : State) (n : Nat) (c : Core) : (s.setCore n c).dm = s.dm := rfl
@[simp] theorem State.setCore_skim (s : State) (n : Nat) (c : Core) : (s.setCore n c).skim = s.skim := rfl
@[simp] theorem State.setCore_err (s : State) (n : Nat) (c : Core) : (s.setCore n c).err = s.err := rfl
@[simp] theorem State.setCore_sec (s : State) (n : Nat) (c : Core) : (s.setCore n c).sec = s.sec := rfl
@[simp] theorem State.setCore_pow (s : State) (n : Nat) (c : Core) : (s.setCore n c).pow = s.pow := rfl
@[simp] theorem State.setCore_time (s : State) (n : Nat) (c : Core) : (s.setCore n c).time = s.time := rfl
@[simp] theorem State.setCore_out (s : State) (n : Nat) (c : Core) : (s.setCore n c).out = s.out := rfl
@[simp] theorem State.setCore_agenda (s : State) (n : Nat) (c : Core) : (s.setCore n c).agenda = s.agenda := rfl
@[simp] theorem State.setCore_turn (s : State) (n : Nat) (c : Core) : (s.setCore n c).turn = s.turn := rfl
@[simp] theorem State.setCore_free (s : State) (n : Nat) (c : Core) : (s.setCore n c).free = s.free := rfl

@[simp] theorem State.modCore_mem (s : State) (n : Nat) (f : Core → Core) : (s.modCore n f).mem = s.mem := rfl
@[simp] theorem State.modCore_counters (s : State) (n : Nat) (f : Core → Core) : (s.modCore n f).counters = s.counters :=
  rfl
@[simp] theorem State.modCore_irqs (s : State) (n : Nat) (f : Core → Core) : (s.modCore n f).irqs = s.irqs := rfl
@[simp] theorem State.modCore_msix (s : State) (n : Nat) (f : Core → Core) : (s.modCore n f).msix = s.msix := rfl
@[simp] theorem State.modCore_copies (s : State) (n : Nat) (f : Core → Core) : (s.modCore n f).copies = s.copies := rfl
@[simp] theorem State.modCore_nextCopy (s : State) (n : Nat) (f : Core → Core) : (s.modCore n f).nextCopy = s.nextCopy :=
  rfl
@[simp] theorem State.modCore_nt (s : State) (n : Nat) (f : Core → Core) : (s.modCore n f).nt = s.nt := rfl
@[simp] theorem State.modCore_groups (s : State) (n : Nat) (f : Core → Core) : (s.modCore n f).groups = s.groups := rfl
@[simp] theorem State.modCore_sched (s : State) (n : Nat) (f : Core → Core) : (s.modCore n f).sched = s.sched := rfl
@[simp] theorem State.modCore_coll (s : State) (n : Nat) (f : Core → Core) : (s.modCore n f).coll = s.coll := rfl
@[simp] theorem State.modCore_xl (s : State) (n : Nat) (f : Core → Core) : (s.modCore n f).xl = s.xl := rfl
@[simp] theorem State.modCore_dm (s : State) (n : Nat) (f : Core → Core) : (s.modCore n f).dm = s.dm := rfl
@[simp] theorem State.modCore_skim (s : State) (n : Nat) (f : Core → Core) : (s.modCore n f).skim = s.skim := rfl
@[simp] theorem State.modCore_err (s : State) (n : Nat) (f : Core → Core) : (s.modCore n f).err = s.err := rfl
@[simp] theorem State.modCore_sec (s : State) (n : Nat) (f : Core → Core) : (s.modCore n f).sec = s.sec := rfl
@[simp] theorem State.modCore_pow (s : State) (n : Nat) (f : Core → Core) : (s.modCore n f).pow = s.pow := rfl
@[simp] theorem State.modCore_time (s : State) (n : Nat) (f : Core → Core) : (s.modCore n f).time = s.time := rfl
@[simp] theorem State.modCore_out (s : State) (n : Nat) (f : Core → Core) : (s.modCore n f).out = s.out := rfl
@[simp] theorem State.modCore_agenda (s : State) (n : Nat) (f : Core → Core) : (s.modCore n f).agenda = s.agenda := rfl
@[simp] theorem State.modCore_turn (s : State) (n : Nat) (f : Core → Core) : (s.modCore n f).turn = s.turn := rfl
@[simp] theorem State.modCore_free (s : State) (n : Nat) (f : Core → Core) : (s.modCore n f).free = s.free := rfl

@[simp] theorem State.modCtx_mem (s : State) (n : Nat) (f : Ctx → Ctx) : (s.modCtx n f).mem = s.mem := rfl
@[simp] theorem State.modCtx_counters (s : State) (n : Nat) (f : Ctx → Ctx) : (s.modCtx n f).counters = s.counters :=
  rfl
@[simp] theorem State.modCtx_irqs (s : State) (n : Nat) (f : Ctx → Ctx) : (s.modCtx n f).irqs = s.irqs := rfl
@[simp] theorem State.modCtx_msix (s : State) (n : Nat) (f : Ctx → Ctx) : (s.modCtx n f).msix = s.msix := rfl
@[simp] theorem State.modCtx_copies (s : State) (n : Nat) (f : Ctx → Ctx) : (s.modCtx n f).copies = s.copies := rfl
@[simp] theorem State.modCtx_nextCopy (s : State) (n : Nat) (f : Ctx → Ctx) : (s.modCtx n f).nextCopy = s.nextCopy :=
  rfl
@[simp] theorem State.modCtx_nt (s : State) (n : Nat) (f : Ctx → Ctx) : (s.modCtx n f).nt = s.nt := rfl
@[simp] theorem State.modCtx_groups (s : State) (n : Nat) (f : Ctx → Ctx) : (s.modCtx n f).groups = s.groups := rfl
@[simp] theorem State.modCtx_sched (s : State) (n : Nat) (f : Ctx → Ctx) : (s.modCtx n f).sched = s.sched := rfl
@[simp] theorem State.modCtx_coll (s : State) (n : Nat) (f : Ctx → Ctx) : (s.modCtx n f).coll = s.coll := rfl
@[simp] theorem State.modCtx_xl (s : State) (n : Nat) (f : Ctx → Ctx) : (s.modCtx n f).xl = s.xl := rfl
@[simp] theorem State.modCtx_dm (s : State) (n : Nat) (f : Ctx → Ctx) : (s.modCtx n f).dm = s.dm := rfl
@[simp] theorem State.modCtx_skim (s : State) (n : Nat) (f : Ctx → Ctx) : (s.modCtx n f).skim = s.skim := rfl
@[simp] theorem State.modCtx_err (s : State) (n : Nat) (f : Ctx → Ctx) : (s.modCtx n f).err = s.err := rfl
@[simp] theorem State.modCtx_sec (s : State) (n : Nat) (f : Ctx → Ctx) : (s.modCtx n f).sec = s.sec := rfl
@[simp] theorem State.modCtx_pow (s : State) (n : Nat) (f : Ctx → Ctx) : (s.modCtx n f).pow = s.pow := rfl
@[simp] theorem State.modCtx_time (s : State) (n : Nat) (f : Ctx → Ctx) : (s.modCtx n f).time = s.time := rfl
@[simp] theorem State.modCtx_out (s : State) (n : Nat) (f : Ctx → Ctx) : (s.modCtx n f).out = s.out := rfl
@[simp] theorem State.modCtx_agenda (s : State) (n : Nat) (f : Ctx → Ctx) : (s.modCtx n f).agenda = s.agenda := rfl
@[simp] theorem State.modCtx_turn (s : State) (n : Nat) (f : Ctx → Ctx) : (s.modCtx n f).turn = s.turn := rfl
@[simp] theorem State.modCtx_free (s : State) (n : Nat) (f : Ctx → Ctx) : (s.modCtx n f).free = s.free := rfl

@[simp] theorem State.land_mem (s : State) (n : Nat) (f : Flight) : (s.land n f).mem = s.mem := rfl
@[simp] theorem State.land_counters (s : State) (n : Nat) (f : Flight) : (s.land n f).counters = s.counters := rfl
@[simp] theorem State.land_irqs (s : State) (n : Nat) (f : Flight) : (s.land n f).irqs = s.irqs := rfl
@[simp] theorem State.land_msix (s : State) (n : Nat) (f : Flight) : (s.land n f).msix = s.msix := rfl
@[simp] theorem State.land_copies (s : State) (n : Nat) (f : Flight) : (s.land n f).copies = s.copies := rfl
@[simp] theorem State.land_nextCopy (s : State) (n : Nat) (f : Flight) : (s.land n f).nextCopy = s.nextCopy := rfl
@[simp] theorem State.land_nt (s : State) (n : Nat) (f : Flight) : (s.land n f).nt = s.nt := rfl
@[simp] theorem State.land_groups (s : State) (n : Nat) (f : Flight) : (s.land n f).groups = s.groups := rfl
@[simp] theorem State.land_sched (s : State) (n : Nat) (f : Flight) : (s.land n f).sched = s.sched := rfl
@[simp] theorem State.land_coll (s : State) (n : Nat) (f : Flight) : (s.land n f).coll = s.coll := rfl
@[simp] theorem State.land_xl (s : State) (n : Nat) (f : Flight) : (s.land n f).xl = s.xl := rfl
@[simp] theorem State.land_dm (s : State) (n : Nat) (f : Flight) : (s.land n f).dm = s.dm := rfl
@[simp] theorem State.land_skim (s : State) (n : Nat) (f : Flight) : (s.land n f).skim = s.skim := rfl
@[simp] theorem State.land_err (s : State) (n : Nat) (f : Flight) : (s.land n f).err = s.err := rfl
@[simp] theorem State.land_sec (s : State) (n : Nat) (f : Flight) : (s.land n f).sec = s.sec := rfl
@[simp] theorem State.land_pow (s : State) (n : Nat) (f : Flight) : (s.land n f).pow = s.pow := rfl
@[simp] theorem State.land_time (s : State) (n : Nat) (f : Flight) : (s.land n f).time = s.time := rfl
@[simp] theorem State.land_out (s : State) (n : Nat) (f : Flight) : (s.land n f).out = s.out := rfl
@[simp] theorem State.land_agenda (s : State) (n : Nat) (f : Flight) : (s.land n f).agenda = s.agenda := rfl
@[simp] theorem State.land_turn (s : State) (n : Nat) (f : Flight) : (s.land n f).turn = s.turn := rfl
@[simp] theorem State.land_free (s : State) (n : Nat) (f : Flight) : (s.land n f).free = s.free := rfl

@[simp] theorem State.write_cores (s : State) (k n v : Nat) : (s.write k n v).cores = s.cores := rfl
@[simp] theorem State.write_counters (s : State) (k n v : Nat) : (s.write k n v).counters = s.counters := rfl
@[simp] theorem State.write_irqs (s : State) (k n v : Nat) : (s.write k n v).irqs = s.irqs := rfl
@[simp] theorem State.write_msix (s : State) (k n v : Nat) : (s.write k n v).msix = s.msix := rfl
@[simp] theorem State.write_copies (s : State) (k n v : Nat) : (s.write k n v).copies = s.copies := rfl
@[simp] theorem State.write_nextCopy (s : State) (k n v : Nat) : (s.write k n v).nextCopy = s.nextCopy := rfl
@[simp] theorem State.write_nt (s : State) (k n v : Nat) : (s.write k n v).nt = s.nt := rfl
@[simp] theorem State.write_groups (s : State) (k n v : Nat) : (s.write k n v).groups = s.groups := rfl
@[simp] theorem State.write_sched (s : State) (k n v : Nat) : (s.write k n v).sched = s.sched := rfl
@[simp] theorem State.write_coll (s : State) (k n v : Nat) : (s.write k n v).coll = s.coll := rfl
@[simp] theorem State.write_xl (s : State) (k n v : Nat) : (s.write k n v).xl = s.xl := rfl
@[simp] theorem State.write_dm (s : State) (k n v : Nat) : (s.write k n v).dm = s.dm := rfl
@[simp] theorem State.write_skim (s : State) (k n v : Nat) : (s.write k n v).skim = s.skim := rfl
@[simp] theorem State.write_err (s : State) (k n v : Nat) : (s.write k n v).err = s.err := rfl
@[simp] theorem State.write_sec (s : State) (k n v : Nat) : (s.write k n v).sec = s.sec := rfl
@[simp] theorem State.write_pow (s : State) (k n v : Nat) : (s.write k n v).pow = s.pow := rfl
@[simp] theorem State.write_time (s : State) (k n v : Nat) : (s.write k n v).time = s.time := rfl
@[simp] theorem State.write_out (s : State) (k n v : Nat) : (s.write k n v).out = s.out := rfl
@[simp] theorem State.write_agenda (s : State) (k n v : Nat) : (s.write k n v).agenda = s.agenda := rfl
@[simp] theorem State.write_turn (s : State) (k n v : Nat) : (s.write k n v).turn = s.turn := rfl
@[simp] theorem State.write_free (s : State) (k n v : Nat) : (s.write k n v).free = s.free := rfl

@[simp] theorem State.writeEn_cores (s : State) (k n v en : Nat) : (s.writeEn k n v en).cores = s.cores := rfl
@[simp] theorem State.writeEn_counters (s : State) (k n v en : Nat) : (s.writeEn k n v en).counters = s.counters := rfl
@[simp] theorem State.writeEn_irqs (s : State) (k n v en : Nat) : (s.writeEn k n v en).irqs = s.irqs := rfl
@[simp] theorem State.writeEn_msix (s : State) (k n v en : Nat) : (s.writeEn k n v en).msix = s.msix := rfl
@[simp] theorem State.writeEn_copies (s : State) (k n v en : Nat) : (s.writeEn k n v en).copies = s.copies := rfl
@[simp] theorem State.writeEn_nextCopy (s : State) (k n v en : Nat) : (s.writeEn k n v en).nextCopy = s.nextCopy := rfl
@[simp] theorem State.writeEn_nt (s : State) (k n v en : Nat) : (s.writeEn k n v en).nt = s.nt := rfl
@[simp] theorem State.writeEn_groups (s : State) (k n v en : Nat) : (s.writeEn k n v en).groups = s.groups := rfl
@[simp] theorem State.writeEn_sched (s : State) (k n v en : Nat) : (s.writeEn k n v en).sched = s.sched := rfl
@[simp] theorem State.writeEn_coll (s : State) (k n v en : Nat) : (s.writeEn k n v en).coll = s.coll := rfl
@[simp] theorem State.writeEn_xl (s : State) (k n v en : Nat) : (s.writeEn k n v en).xl = s.xl := rfl
@[simp] theorem State.writeEn_dm (s : State) (k n v en : Nat) : (s.writeEn k n v en).dm = s.dm := rfl
@[simp] theorem State.writeEn_skim (s : State) (k n v en : Nat) : (s.writeEn k n v en).skim = s.skim := rfl
@[simp] theorem State.writeEn_err (s : State) (k n v en : Nat) : (s.writeEn k n v en).err = s.err := rfl
@[simp] theorem State.writeEn_sec (s : State) (k n v en : Nat) : (s.writeEn k n v en).sec = s.sec := rfl
@[simp] theorem State.writeEn_pow (s : State) (k n v en : Nat) : (s.writeEn k n v en).pow = s.pow := rfl
@[simp] theorem State.writeEn_time (s : State) (k n v en : Nat) : (s.writeEn k n v en).time = s.time := rfl
@[simp] theorem State.writeEn_out (s : State) (k n v en : Nat) : (s.writeEn k n v en).out = s.out := rfl
@[simp] theorem State.writeEn_agenda (s : State) (k n v en : Nat) : (s.writeEn k n v en).agenda = s.agenda := rfl
@[simp] theorem State.writeEn_turn (s : State) (k n v en : Nat) : (s.writeEn k n v en).turn = s.turn := rfl
@[simp] theorem State.writeEn_free (s : State) (k n v en : Nat) : (s.writeEn k n v en).free = s.free := rfl

/-! ## Cores -/

theorem State.core_setCore (s : State) (n : Nat) (c : Core) (m : Nat) :
    (s.setCore n c).core m = if m = n then c else s.core m := FMap.look_put _ _ _ _ _

@[simp] theorem State.core_setCore_same (s : State) (n : Nat) (c : Core) : (s.setCore n c).core n = c :=
  FMap.look_put_same _ _ _ _

theorem State.core_setCore_ne (s : State) (n : Nat) (c : Core) (m : Nat) (h : m ≠ n) :
    (s.setCore n c).core m = s.core m := FMap.look_put_ne _ _ _ _ _ h

@[simp] theorem State.core_modCore_same (s : State) (n : Nat) (f : Core → Core) :
    (s.modCore n f).core n = f (s.core n) := FMap.look_put_same _ _ _ _

theorem State.core_modCore_ne (s : State) (n : Nat) (f : Core → Core) (m : Nat) (h : m ≠ n) :
    (s.modCore n f).core m = s.core m := FMap.look_put_ne _ _ _ _ _ h

@[simp] theorem State.core_modCtx_same (s : State) (n : Nat) (f : Ctx → Ctx) :
    (s.modCtx n f).core n = (s.core n).setCtx (f (s.core n).ctx) := FMap.look_put_same _ _ _ _

theorem State.core_modCtx_ne (s : State) (n : Nat) (f : Ctx → Ctx) (m : Nat) (h : m ≠ n) :
    (s.modCtx n f).core m = s.core m := FMap.look_put_ne _ _ _ _ _ h

@[simp] theorem State.core_write (s : State) (k n v m : Nat) : (s.write k n v).core m = s.core m := rfl
@[simp] theorem State.core_writeEn (s : State) (k n v en m : Nat) : (s.writeEn k n v en).core m = s.core m := rfl

/-- Two changes of one core in a row are one. -/
@[simp] theorem State.modCore_modCore (s : State) (n : Nat) (f g : Core → Core) :
    (s.modCore n f).modCore n g = s.modCore n (fun c => g (f c)) := by
  simp [State.modCore, State.setCore, State.core]

@[simp] theorem Core.inSup_setCtx (c : Core) (x : Ctx) : (c.setCtx x).inSup = c.inSup := by
  cases h : c.inSup <;> simp [Core.setCtx, h] <;> simpa [Core.inSup] using h

@[simp] theorem Core.ctx_setCtx (c : Core) (x : Ctx) : (c.setCtx x).ctx = x := by
  cases h : c.inSup
  · have := Core.inSup_setCtx c x
    simp [Core.setCtx, h, Core.ctx] at this ⊢
    simp [this]
  · have := Core.inSup_setCtx c x
    simp [Core.setCtx, h, Core.ctx] at this ⊢
    simp [this]

@[simp] theorem Core.setCtx_setCtx (c : Core) (x y : Ctx) : (c.setCtx x).setCtx y = c.setCtx y := by
  have := Core.inSup_setCtx c x
  cases h : c.inSup <;> simp [Core.setCtx, h] at this ⊢ <;> simp [this]

/-- The executing context is the core's own. -/
@[simp] theorem Core.setCtx_ctx (c : Core) : c.setCtx c.ctx = c := by
  cases h : c.inSup <;> simp [Core.setCtx, Core.ctx, h]

@[simp] theorem Core.setCtx_mode (c : Core) (x : Ctx) : (c.setCtx x).mode = c.mode :=
  by unfold Core.setCtx; split <;> rfl
@[simp] theorem Core.setCtx_k (c : Core) (x : Ctx) : (c.setCtx x).k = c.k := by unfold Core.setCtx; split <;> rfl
@[simp] theorem Core.setCtx_tiles (c : Core) (x : Ctx) : (c.setCtx x).tiles = c.tiles :=
  by unfold Core.setCtx; split <;> rfl
@[simp] theorem Core.setCtx_cellEmpty (c : Core) (x : Ctx) : (c.setCtx x).cellEmpty = c.cellEmpty :=
  by unfold Core.setCtx; split <;> rfl
@[simp] theorem Core.setCtx_arr (c : Core) (x : Ctx) : (c.setCtx x).arr = c.arr := by unfold Core.setCtx; split <;> rfl
@[simp] theorem Core.setCtx_ports (c : Core) (x : Ctx) : (c.setCtx x).ports = c.ports :=
  by unfold Core.setCtx; split <;> rfl
@[simp] theorem Core.setCtx_held (c : Core) (x : Ctx) : (c.setCtx x).held = c.held :=
  by unfold Core.setCtx; split <;> rfl
@[simp] theorem Core.setCtx_lent (c : Core) (x : Ctx) : (c.setCtx x).lent = c.lent :=
  by unfold Core.setCtx; split <;> rfl
@[simp] theorem Core.setCtx_nextLent (c : Core) (x : Ctx) : (c.setCtx x).nextLent = c.nextLent :=
  by unfold Core.setCtx; split <;> rfl
@[simp] theorem Core.setCtx_offers (c : Core) (x : Ctx) : (c.setCtx x).offers = c.offers :=
  by unfold Core.setCtx; split <;> rfl
@[simp] theorem Core.setCtx_progBank (c : Core) (x : Ctx) : (c.setCtx x).progBank = c.progBank :=
  by unfold Core.setCtx; split <;> rfl
@[simp] theorem Core.setCtx_sysBank (c : Core) (x : Ctx) : (c.setCtx x).sysBank = c.sysBank :=
  by unfold Core.setCtx; split <;> rfl
@[simp] theorem Core.setCtx_handlerIssues (c : Core) (x : Ctx) : (c.setCtx x).handlerIssues = c.handlerIssues :=
  by unfold Core.setCtx; split <;> rfl
@[simp] theorem Core.setCtx_loadErrors (c : Core) (x : Ctx) : (c.setCtx x).loadErrors = c.loadErrors :=
  by unfold Core.setCtx; split <;> rfl
@[simp] theorem Core.setCtx_machineErr (c : Core) (x : Ctx) : (c.setCtx x).machineErr = c.machineErr :=
  by unfold Core.setCtx; split <;> rfl
@[simp] theorem Core.setCtx_preempt (c : Core) (x : Ctx) : (c.setCtx x).preempt = c.preempt :=
  by unfold Core.setCtx; split <;> rfl
@[simp] theorem Core.setCtx_icache (c : Core) (x : Ctx) : (c.setCtx x).icache = c.icache :=
  by unfold Core.setCtx; split <;> rfl
@[simp] theorem Core.setCtx_svCmds (c : Core) (x : Ctx) : (c.setCtx x).svCmds = c.svCmds :=
  by unfold Core.setCtx; split <;> rfl
@[simp] theorem Core.setCtx_reloaded (c : Core) (x : Ctx) : (c.setCtx x).reloaded = c.reloaded :=
  by unfold Core.setCtx; split <;> rfl
@[simp] theorem Core.setCtx_svEntry (c : Core) (x : Ctx) : (c.setCtx x).svEntry = c.svEntry :=
  by unfold Core.setCtx; split <;> rfl
@[simp] theorem Core.setCtx_ceRate (c : Core) (x : Ctx) : (c.setCtx x).ceRate = c.ceRate :=
  by unfold Core.setCtx; split <;> rfl
@[simp] theorem Core.setCtx_launch (c : Core) (x : Ctx) : (c.setCtx x).launch = c.launch :=
  by unfold Core.setCtx; split <;> rfl
@[simp] theorem Core.setCtx_claim (c : Core) (x : Ctx) : (c.setCtx x).claim = c.claim :=
  by unfold Core.setCtx; split <;> rfl
@[simp] theorem Core.setCtx_ending (c : Core) (x : Ctx) : (c.setCtx x).ending = c.ending :=
  by unfold Core.setCtx; split <;> rfl

/-! ## Registers of a context -/

@[simp] theorem Ctx.sreg_zero (x : Ctx) : x.sreg 0 = 0 := rfl
@[simp] theorem Ctx.setSreg_zero (x : Ctx) (v : W64) : x.setSreg 0 v = x := rfl
@[simp] theorem Ctx.pred_zero (x : Ctx) : x.pred 0 = true := rfl
@[simp] theorem Ctx.isEmpty_zero (x : Ctx) : x.isEmpty 0 = false := rfl

theorem Ctx.sreg_setSreg (x : Ctx) (r : Nat) (v : W64) (q : Nat) :
    (x.setSreg r v).sreg q = if q = r ∧ r ≠ 0 then v else x.sreg q := by
  unfold Ctx.setSreg Ctx.sreg
  by_cases h : r = 0
  · subst h; simp
  · by_cases hq : q = 0
    · subst hq; simp [h]; omega
    · simp [h, hq, FMap.look_put]

@[simp] theorem Ctx.spec_putSpec_same (x : Ctx) (n : Nat) (v : W64) : (x.putSpec n v).spec n = v :=
  FMap.look_put_same _ _ _ _

theorem Ctx.spec_putSpec (x : Ctx) (n : Nat) (v : W64) (k : Nat) :
    (x.putSpec n v).spec k = if k = n then v else x.spec k := FMap.look_put _ _ _ _ _

@[simp] theorem Ctx.putSpec_s (x : Ctx) (n : Nat) (v : W64) : (x.putSpec n v).s = x.s := rfl
@[simp] theorem Ctx.putSpec_empty (x : Ctx) (n : Nat) (v : W64) : (x.putSpec n v).empty = x.empty := rfl
@[simp] theorem Ctx.putSpec_p (x : Ctx) (n : Nat) (v : W64) : (x.putSpec n v).p = x.p := rfl
@[simp] theorem Ctx.putSpec_pc (x : Ctx) (n : Nat) (v : W64) : (x.putSpec n v).pc = x.pc := rfl
@[simp] theorem Ctx.putSpec_rep (x : Ctx) (n : Nat) (v : W64) : (x.putSpec n v).rep = x.rep := rfl
@[simp] theorem Ctx.putSpec_cur (x : Ctx) (n : Nat) (v : W64) : (x.putSpec n v).cur = x.cur := rfl
@[simp] theorem Ctx.putSpec_sticky (x : Ctx) (n : Nat) (v : W64) : (x.putSpec n v).sticky = x.sticky := rfl
@[simp] theorem Ctx.putSpec_oc (x : Ctx) (n : Nat) (v : W64) : (x.putSpec n v).oc = x.oc := rfl
@[simp] theorem Ctx.putSpec_flight (x : Ctx) (n : Nat) (v : W64) : (x.putSpec n v).flight = x.flight := rfl
@[simp] theorem Ctx.putSpec_racc (x : Ctx) (n : Nat) (v : W64) : (x.putSpec n v).racc = x.racc := rfl
@[simp] theorem Ctx.putSpec_vars (x : Ctx) (n : Nat) (v : W64) : (x.putSpec n v).vars = x.vars := rfl
@[simp] theorem Ctx.putSpec_nextId (x : Ctx) (n : Nat) (v : W64) : (x.putSpec n v).nextId = x.nextId := rfl
@[simp] theorem Ctx.putSpec_afterAcq (x : Ctx) (n : Nat) (v : W64) : (x.putSpec n v).afterAcq = x.afterAcq := rfl
@[simp] theorem Ctx.putSpec_afterRel (x : Ctx) (n : Nat) (v : W64) : (x.putSpec n v).afterRel = x.afterRel := rfl
@[simp] theorem Ctx.putSpec_landed (x : Ctx) (n : Nat) (v : W64) : (x.putSpec n v).landed = x.landed := rfl
@[simp] theorem Ctx.putSpec_lately (x : Ctx) (n : Nat) (v : W64) : (x.putSpec n v).lately = x.lately := rfl

@[simp] theorem Ctx.setSpec_s (x : Ctx) (n : Nat) (v : W64) : (x.setSpec n v).s = x.s := rfl
@[simp] theorem Ctx.setSpec_empty (x : Ctx) (n : Nat) (v : W64) : (x.setSpec n v).empty = x.empty := rfl
@[simp] theorem Ctx.setSpec_p (x : Ctx) (n : Nat) (v : W64) : (x.setSpec n v).p = x.p := rfl
@[simp] theorem Ctx.setSpec_pc (x : Ctx) (n : Nat) (v : W64) : (x.setSpec n v).pc = x.pc := rfl
@[simp] theorem Ctx.setSpec_rep (x : Ctx) (n : Nat) (v : W64) : (x.setSpec n v).rep = x.rep := rfl
@[simp] theorem Ctx.setSpec_cur (x : Ctx) (n : Nat) (v : W64) : (x.setSpec n v).cur = x.cur := rfl
@[simp] theorem Ctx.setSpec_sticky (x : Ctx) (n : Nat) (v : W64) : (x.setSpec n v).sticky = x.sticky := rfl
@[simp] theorem Ctx.setSpec_oc (x : Ctx) (n : Nat) (v : W64) : (x.setSpec n v).oc = x.oc := rfl
@[simp] theorem Ctx.setSpec_flight (x : Ctx) (n : Nat) (v : W64) : (x.setSpec n v).flight = x.flight := rfl
@[simp] theorem Ctx.setSpec_racc (x : Ctx) (n : Nat) (v : W64) : (x.setSpec n v).racc = x.racc := rfl
@[simp] theorem Ctx.setSpec_vars (x : Ctx) (n : Nat) (v : W64) : (x.setSpec n v).vars = x.vars := rfl
@[simp] theorem Ctx.setSpec_nextId (x : Ctx) (n : Nat) (v : W64) : (x.setSpec n v).nextId = x.nextId := rfl
@[simp] theorem Ctx.setSpec_afterAcq (x : Ctx) (n : Nat) (v : W64) : (x.setSpec n v).afterAcq = x.afterAcq := rfl
@[simp] theorem Ctx.setSpec_afterRel (x : Ctx) (n : Nat) (v : W64) : (x.setSpec n v).afterRel = x.afterRel := rfl
@[simp] theorem Ctx.setSpec_landed (x : Ctx) (n : Nat) (v : W64) : (x.setSpec n v).landed = x.landed := rfl
@[simp] theorem Ctx.setSpec_lately (x : Ctx) (n : Nat) (v : W64) : (x.setSpec n v).lately = x.lately := rfl

@[simp] theorem Ctx.setSreg_empty (x : Ctx) (r : Nat) (v : W64) : (x.setSreg r v).empty = x.empty :=
  by unfold Ctx.setSreg; split <;> rfl
@[simp] theorem Ctx.setSreg_p (x : Ctx) (r : Nat) (v : W64) : (x.setSreg r v).p = x.p :=
  by unfold Ctx.setSreg; split <;> rfl
@[simp] theorem Ctx.setSreg_pc (x : Ctx) (r : Nat) (v : W64) : (x.setSreg r v).pc = x.pc :=
  by unfold Ctx.setSreg; split <;> rfl
@[simp] theorem Ctx.setSreg_rep (x : Ctx) (r : Nat) (v : W64) : (x.setSreg r v).rep = x.rep :=
  by unfold Ctx.setSreg; split <;> rfl
@[simp] theorem Ctx.setSreg_cur (x : Ctx) (r : Nat) (v : W64) : (x.setSreg r v).cur = x.cur :=
  by unfold Ctx.setSreg; split <;> rfl
@[simp] theorem Ctx.setSreg_sr (x : Ctx) (r : Nat) (v : W64) : (x.setSreg r v).sr = x.sr :=
  by unfold Ctx.setSreg; split <;> rfl
@[simp] theorem Ctx.setSreg_sticky (x : Ctx) (r : Nat) (v : W64) : (x.setSreg r v).sticky = x.sticky :=
  by unfold Ctx.setSreg; split <;> rfl
@[simp] theorem Ctx.setSreg_oc (x : Ctx) (r : Nat) (v : W64) : (x.setSreg r v).oc = x.oc :=
  by unfold Ctx.setSreg; split <;> rfl
@[simp] theorem Ctx.setSreg_flight (x : Ctx) (r : Nat) (v : W64) : (x.setSreg r v).flight = x.flight :=
  by unfold Ctx.setSreg; split <;> rfl
@[simp] theorem Ctx.setSreg_racc (x : Ctx) (r : Nat) (v : W64) : (x.setSreg r v).racc = x.racc :=
  by unfold Ctx.setSreg; split <;> rfl
@[simp] theorem Ctx.setSreg_vars (x : Ctx) (r : Nat) (v : W64) : (x.setSreg r v).vars = x.vars :=
  by unfold Ctx.setSreg; split <;> rfl
@[simp] theorem Ctx.setSreg_nextId (x : Ctx) (r : Nat) (v : W64) : (x.setSreg r v).nextId = x.nextId :=
  by unfold Ctx.setSreg; split <;> rfl
@[simp] theorem Ctx.setSreg_afterAcq (x : Ctx) (r : Nat) (v : W64) : (x.setSreg r v).afterAcq = x.afterAcq :=
  by unfold Ctx.setSreg; split <;> rfl
@[simp] theorem Ctx.setSreg_afterRel (x : Ctx) (r : Nat) (v : W64) : (x.setSreg r v).afterRel = x.afterRel :=
  by unfold Ctx.setSreg; split <;> rfl
@[simp] theorem Ctx.setSreg_landed (x : Ctx) (r : Nat) (v : W64) : (x.setSreg r v).landed = x.landed :=
  by unfold Ctx.setSreg; split <;> rfl
@[simp] theorem Ctx.setSreg_lately (x : Ctx) (r : Nat) (v : W64) : (x.setSreg r v).lately = x.lately :=
  by unfold Ctx.setSreg; split <;> rfl

@[simp] theorem Ctx.setPred_s (x : Ctx) (i : Nat) (v : Bool) : (x.setPred i v).s = x.s :=
  by unfold Ctx.setPred; split <;> rfl
@[simp] theorem Ctx.setPred_empty (x : Ctx) (i : Nat) (v : Bool) : (x.setPred i v).empty = x.empty :=
  by unfold Ctx.setPred; split <;> rfl
@[simp] theorem Ctx.setPred_pc (x : Ctx) (i : Nat) (v : Bool) : (x.setPred i v).pc = x.pc :=
  by unfold Ctx.setPred; split <;> rfl
@[simp] theorem Ctx.setPred_rep (x : Ctx) (i : Nat) (v : Bool) : (x.setPred i v).rep = x.rep :=
  by unfold Ctx.setPred; split <;> rfl
@[simp] theorem Ctx.setPred_cur (x : Ctx) (i : Nat) (v : Bool) : (x.setPred i v).cur = x.cur :=
  by unfold Ctx.setPred; split <;> rfl
@[simp] theorem Ctx.setPred_sr (x : Ctx) (i : Nat) (v : Bool) : (x.setPred i v).sr = x.sr :=
  by unfold Ctx.setPred; split <;> rfl
@[simp] theorem Ctx.setPred_sticky (x : Ctx) (i : Nat) (v : Bool) : (x.setPred i v).sticky = x.sticky :=
  by unfold Ctx.setPred; split <;> rfl
@[simp] theorem Ctx.setPred_oc (x : Ctx) (i : Nat) (v : Bool) : (x.setPred i v).oc = x.oc :=
  by unfold Ctx.setPred; split <;> rfl
@[simp] theorem Ctx.setPred_flight (x : Ctx) (i : Nat) (v : Bool) : (x.setPred i v).flight = x.flight :=
  by unfold Ctx.setPred; split <;> rfl
@[simp] theorem Ctx.setPred_racc (x : Ctx) (i : Nat) (v : Bool) : (x.setPred i v).racc = x.racc :=
  by unfold Ctx.setPred; split <;> rfl
@[simp] theorem Ctx.setPred_vars (x : Ctx) (i : Nat) (v : Bool) : (x.setPred i v).vars = x.vars :=
  by unfold Ctx.setPred; split <;> rfl
@[simp] theorem Ctx.setPred_nextId (x : Ctx) (i : Nat) (v : Bool) : (x.setPred i v).nextId = x.nextId :=
  by unfold Ctx.setPred; split <;> rfl
@[simp] theorem Ctx.setPred_afterAcq (x : Ctx) (i : Nat) (v : Bool) : (x.setPred i v).afterAcq = x.afterAcq :=
  by unfold Ctx.setPred; split <;> rfl
@[simp] theorem Ctx.setPred_afterRel (x : Ctx) (i : Nat) (v : Bool) : (x.setPred i v).afterRel = x.afterRel :=
  by unfold Ctx.setPred; split <;> rfl
@[simp] theorem Ctx.setPred_landed (x : Ctx) (i : Nat) (v : Bool) : (x.setPred i v).landed = x.landed :=
  by unfold Ctx.setPred; split <;> rfl
@[simp] theorem Ctx.setPred_lately (x : Ctx) (i : Nat) (v : Bool) : (x.setPred i v).lately = x.lately :=
  by unfold Ctx.setPred; split <;> rfl

@[simp] theorem Ctx.setFull_s (x : Ctx) (r : Nat) : (x.setFull r).s = x.s := rfl
@[simp] theorem Ctx.setFull_p (x : Ctx) (r : Nat) : (x.setFull r).p = x.p := rfl
@[simp] theorem Ctx.setFull_pc (x : Ctx) (r : Nat) : (x.setFull r).pc = x.pc := rfl
@[simp] theorem Ctx.setFull_rep (x : Ctx) (r : Nat) : (x.setFull r).rep = x.rep := rfl
@[simp] theorem Ctx.setFull_cur (x : Ctx) (r : Nat) : (x.setFull r).cur = x.cur := rfl
@[simp] theorem Ctx.setFull_sr (x : Ctx) (r : Nat) : (x.setFull r).sr = x.sr := rfl
@[simp] theorem Ctx.setFull_sticky (x : Ctx) (r : Nat) : (x.setFull r).sticky = x.sticky := rfl
@[simp] theorem Ctx.setFull_oc (x : Ctx) (r : Nat) : (x.setFull r).oc = x.oc := rfl
@[simp] theorem Ctx.setFull_flight (x : Ctx) (r : Nat) : (x.setFull r).flight = x.flight := rfl
@[simp] theorem Ctx.setFull_racc (x : Ctx) (r : Nat) : (x.setFull r).racc = x.racc := rfl
@[simp] theorem Ctx.setFull_vars (x : Ctx) (r : Nat) : (x.setFull r).vars = x.vars := rfl
@[simp] theorem Ctx.setFull_nextId (x : Ctx) (r : Nat) : (x.setFull r).nextId = x.nextId := rfl
@[simp] theorem Ctx.setFull_afterAcq (x : Ctx) (r : Nat) : (x.setFull r).afterAcq = x.afterAcq := rfl
@[simp] theorem Ctx.setFull_afterRel (x : Ctx) (r : Nat) : (x.setFull r).afterRel = x.afterRel := rfl
@[simp] theorem Ctx.setFull_landed (x : Ctx) (r : Nat) : (x.setFull r).landed = x.landed := rfl
@[simp] theorem Ctx.setFull_lately (x : Ctx) (r : Nat) : (x.setFull r).lately = x.lately := rfl

@[simp] theorem Ctx.setEmpty_s (x : Ctx) (r : Nat) : (x.setEmpty r).s = x.s := by unfold Ctx.setEmpty; split <;> rfl
@[simp] theorem Ctx.setEmpty_p (x : Ctx) (r : Nat) : (x.setEmpty r).p = x.p := by unfold Ctx.setEmpty; split <;> rfl
@[simp] theorem Ctx.setEmpty_pc (x : Ctx) (r : Nat) : (x.setEmpty r).pc = x.pc := by unfold Ctx.setEmpty; split <;> rfl
@[simp] theorem Ctx.setEmpty_rep (x : Ctx) (r : Nat) : (x.setEmpty r).rep = x.rep :=
  by unfold Ctx.setEmpty; split <;> rfl
@[simp] theorem Ctx.setEmpty_cur (x : Ctx) (r : Nat) : (x.setEmpty r).cur = x.cur :=
  by unfold Ctx.setEmpty; split <;> rfl
@[simp] theorem Ctx.setEmpty_sr (x : Ctx) (r : Nat) : (x.setEmpty r).sr = x.sr := by unfold Ctx.setEmpty; split <;> rfl
@[simp] theorem Ctx.setEmpty_sticky (x : Ctx) (r : Nat) : (x.setEmpty r).sticky = x.sticky :=
  by unfold Ctx.setEmpty; split <;> rfl
@[simp] theorem Ctx.setEmpty_oc (x : Ctx) (r : Nat) : (x.setEmpty r).oc = x.oc := by unfold Ctx.setEmpty; split <;> rfl
@[simp] theorem Ctx.setEmpty_flight (x : Ctx) (r : Nat) : (x.setEmpty r).flight = x.flight :=
  by unfold Ctx.setEmpty; split <;> rfl
@[simp] theorem Ctx.setEmpty_racc (x : Ctx) (r : Nat) : (x.setEmpty r).racc = x.racc :=
  by unfold Ctx.setEmpty; split <;> rfl
@[simp] theorem Ctx.setEmpty_vars (x : Ctx) (r : Nat) : (x.setEmpty r).vars = x.vars :=
  by unfold Ctx.setEmpty; split <;> rfl
@[simp] theorem Ctx.setEmpty_nextId (x : Ctx) (r : Nat) : (x.setEmpty r).nextId = x.nextId :=
  by unfold Ctx.setEmpty; split <;> rfl
@[simp] theorem Ctx.setEmpty_afterAcq (x : Ctx) (r : Nat) : (x.setEmpty r).afterAcq = x.afterAcq :=
  by unfold Ctx.setEmpty; split <;> rfl
@[simp] theorem Ctx.setEmpty_afterRel (x : Ctx) (r : Nat) : (x.setEmpty r).afterRel = x.afterRel :=
  by unfold Ctx.setEmpty; split <;> rfl
@[simp] theorem Ctx.setEmpty_landed (x : Ctx) (r : Nat) : (x.setEmpty r).landed = x.landed :=
  by unfold Ctx.setEmpty; split <;> rfl
@[simp] theorem Ctx.setEmpty_lately (x : Ctx) (r : Nat) : (x.setEmpty r).lately = x.lately :=
  by unfold Ctx.setEmpty; split <;> rfl

@[simp] theorem Ctx.orFlags_s (x : Ctx) (f : Nat) : (x.orFlags f).s = x.s := by unfold Ctx.orFlags; split <;> rfl
@[simp] theorem Ctx.orFlags_empty (x : Ctx) (f : Nat) : (x.orFlags f).empty = x.empty :=
  by unfold Ctx.orFlags; split <;> rfl
@[simp] theorem Ctx.orFlags_p (x : Ctx) (f : Nat) : (x.orFlags f).p = x.p := by unfold Ctx.orFlags; split <;> rfl
@[simp] theorem Ctx.orFlags_pc (x : Ctx) (f : Nat) : (x.orFlags f).pc = x.pc := by unfold Ctx.orFlags; split <;> rfl
@[simp] theorem Ctx.orFlags_rep (x : Ctx) (f : Nat) : (x.orFlags f).rep = x.rep := by unfold Ctx.orFlags; split <;> rfl
@[simp] theorem Ctx.orFlags_cur (x : Ctx) (f : Nat) : (x.orFlags f).cur = x.cur := by unfold Ctx.orFlags; split <;> rfl
@[simp] theorem Ctx.orFlags_sticky (x : Ctx) (f : Nat) : (x.orFlags f).sticky = x.sticky :=
  by unfold Ctx.orFlags; split <;> rfl
@[simp] theorem Ctx.orFlags_oc (x : Ctx) (f : Nat) : (x.orFlags f).oc = x.oc := by unfold Ctx.orFlags; split <;> rfl
@[simp] theorem Ctx.orFlags_flight (x : Ctx) (f : Nat) : (x.orFlags f).flight = x.flight :=
  by unfold Ctx.orFlags; split <;> rfl
@[simp] theorem Ctx.orFlags_racc (x : Ctx) (f : Nat) : (x.orFlags f).racc = x.racc :=
  by unfold Ctx.orFlags; split <;> rfl
@[simp] theorem Ctx.orFlags_vars (x : Ctx) (f : Nat) : (x.orFlags f).vars = x.vars :=
  by unfold Ctx.orFlags; split <;> rfl
@[simp] theorem Ctx.orFlags_nextId (x : Ctx) (f : Nat) : (x.orFlags f).nextId = x.nextId :=
  by unfold Ctx.orFlags; split <;> rfl
@[simp] theorem Ctx.orFlags_afterAcq (x : Ctx) (f : Nat) : (x.orFlags f).afterAcq = x.afterAcq :=
  by unfold Ctx.orFlags; split <;> rfl
@[simp] theorem Ctx.orFlags_afterRel (x : Ctx) (f : Nat) : (x.orFlags f).afterRel = x.afterRel :=
  by unfold Ctx.orFlags; split <;> rfl
@[simp] theorem Ctx.orFlags_landed (x : Ctx) (f : Nat) : (x.orFlags f).landed = x.landed :=
  by unfold Ctx.orFlags; split <;> rfl
@[simp] theorem Ctx.orFlags_lately (x : Ctx) (f : Nat) : (x.orFlags f).lately = x.lately :=
  by unfold Ctx.orFlags; split <;> rfl

@[simp] theorem Ctx.orAcc_s (x : Ctx) (f : Nat) : (x.orAcc f).s = x.s := by unfold Ctx.orAcc; split <;> rfl
@[simp] theorem Ctx.orAcc_empty (x : Ctx) (f : Nat) : (x.orAcc f).empty = x.empty := by unfold Ctx.orAcc; split <;> rfl
@[simp] theorem Ctx.orAcc_p (x : Ctx) (f : Nat) : (x.orAcc f).p = x.p := by unfold Ctx.orAcc; split <;> rfl
@[simp] theorem Ctx.orAcc_pc (x : Ctx) (f : Nat) : (x.orAcc f).pc = x.pc := by unfold Ctx.orAcc; split <;> rfl
@[simp] theorem Ctx.orAcc_rep (x : Ctx) (f : Nat) : (x.orAcc f).rep = x.rep := by unfold Ctx.orAcc; split <;> rfl
@[simp] theorem Ctx.orAcc_cur (x : Ctx) (f : Nat) : (x.orAcc f).cur = x.cur := by unfold Ctx.orAcc; split <;> rfl
@[simp] theorem Ctx.orAcc_sticky (x : Ctx) (f : Nat) : (x.orAcc f).sticky = x.sticky :=
  by unfold Ctx.orAcc; split <;> rfl
@[simp] theorem Ctx.orAcc_oc (x : Ctx) (f : Nat) : (x.orAcc f).oc = x.oc := by unfold Ctx.orAcc; split <;> rfl
@[simp] theorem Ctx.orAcc_flight (x : Ctx) (f : Nat) : (x.orAcc f).flight = x.flight :=
  by unfold Ctx.orAcc; split <;> rfl
@[simp] theorem Ctx.orAcc_racc (x : Ctx) (f : Nat) : (x.orAcc f).racc = x.racc := by unfold Ctx.orAcc; split <;> rfl
@[simp] theorem Ctx.orAcc_vars (x : Ctx) (f : Nat) : (x.orAcc f).vars = x.vars := by unfold Ctx.orAcc; split <;> rfl
@[simp] theorem Ctx.orAcc_nextId (x : Ctx) (f : Nat) : (x.orAcc f).nextId = x.nextId :=
  by unfold Ctx.orAcc; split <;> rfl
@[simp] theorem Ctx.orAcc_afterAcq (x : Ctx) (f : Nat) : (x.orAcc f).afterAcq = x.afterAcq :=
  by unfold Ctx.orAcc; split <;> rfl
@[simp] theorem Ctx.orAcc_afterRel (x : Ctx) (f : Nat) : (x.orAcc f).afterRel = x.afterRel :=
  by unfold Ctx.orAcc; split <;> rfl
@[simp] theorem Ctx.orAcc_landed (x : Ctx) (f : Nat) : (x.orAcc f).landed = x.landed :=
  by unfold Ctx.orAcc; split <;> rfl
@[simp] theorem Ctx.orAcc_lately (x : Ctx) (f : Nat) : (x.orAcc f).lately = x.lately :=
  by unfold Ctx.orAcc; split <;> rfl

end Sys2Proof.Machine
end

