-- ==== Sys2Proof/Laws/Issue.lean ====
section
/-! SUPPORT. What the issue of one operation alone does, once for all operations of fixed latency. -/

namespace Sys2Proof.Machine

open Sys2Proof.Claims

/-- Results put into flight one after another. -/
def State.landMany (s : State) (n : Nat) (fl : List Flight) : State :=
  s.modCtx n (fun x => { x with flight := x.flight ++ fl })

/-- A core that has been written is listed: putting nothing into flight there changes nothing. -/
theorem landMany_nil (u : State) (n : Nat) (f : Core → Core) :
    (u.modCore n f).landMany n [] = u.modCore n f := by
  rw [State.landMany, State.modCtx, State.modCore_modCore]
  congr 1
  funext c
  simp only [List.append_nil]
  unfold Core.setCtx Core.ctx
  split <;> rfl

/-- Lines counted as pushed. -/
def pushPorts (n : Nat) (ps : List Nat) (s : State) : State :=
  ps.foldl (fun s p => s.modCore n (fun c => c.setPort p { c.port p with pushed := (c.port p).pushed + 1 })) s

/-- The end of an issue with a branch resolution. -/
def soloEnd (n : Nat) (next : W64) (xl : Ctx) (s : State) : State :=
  let s := s.modCtx n (fun x =>
    { x with s := x.s,
             sr := [0, 1, 2, 3, 4, 5].foldl (fun sr l =>
               ((sr.put (SR.lc l) (xl.spec (SR.lc l))).put (SR.ls l) (xl.spec (SR.ls l))).put (SR.le l)
                 (xl.spec (SR.le l))) (x.sr.put SR.ldepth (xl.spec SR.ldepth)) })
  let s := s.modCore n Core.countIssue
  s.modCtx n (fun x => { x with pc := next, rep := 0, cur := none })

theorem resolve_none (v : Env) (h : W64) (len : Nat) (la : W64 → Except Trap Nat) (x : Ctx) :
    resolve noBranch v h len la x =
      .ok ((loopEnd h 7 x).1, ((loopEnd h 7 x).2).getD (h + BitVec.ofNat 64 (8 * len))) := by
  simp [resolve, noBranch]

/-- The issue of one operation that passes every test: its effects in the three phases between the landings and the end. -/
theorem issueOps_one {n : Nat} {b : Bundle} {a : Active} {s0 : State} {v : Env}
    (hv : v = { core := n, slot := a.slot.val, word := a.word, s := s0.modCore n Core.landDue, pc := (s0.ctx n).pc,
                popped := [], pushed := [] })
    (hfull : (s0.core n).landFull = false) (hb : b.rep = 0) (hg : guardTrue v.x a.word = true)
    (hd : a.sem.delivery = true → v.x.spec SR.fpflags &&& v.x.spec SR.fpenable = 0)
    (he : findEmptyTrap [(a, v)] = none) (hs : opStalls a v = false) (hc : findCheck [(a, v)] = none)
    (hf : a.sem.flow ≠ .exit)
    (ht : a.sem.flow = .step → ¬(v.c.preempt = some false ∧ v.c.progBank = none ∧ v.c.inSup = false)) :
    issueOps n b [a] noBranch s0 =
      finishFlow n true a.sem.flow (soloEnd n (((loopEnd v.pc 7 v.x).2).getD (v.pc + BitVec.ofNat 64 (8 * b.len)))
        (loopEnd v.pc 7 v.x).1
        (popPorts n (popsOf a.sem.srcs) (a.sem.store v (a.sem.atom v (a.sem.act v
          (v.s.modCore n (fun c => c.setCtx { c.ctx.countDown with
            sticky := stickyAt b (s0.ctx n).rep c.ctx.sticky }))))))) := by
  have hx : v.x = ((s0.modCore n Core.landDue).core n).ctx := by rw [hv]; rfl
  rw [hx] at hg
  have hvc : v.c = (s0.modCore n Core.landDue).core n := by rw [hv]; rfl
  rw [hx] at hd
  have hr : noBranch.reg = none := rfl
  have hq : (a.sem.flow == Flow.exit) = false := by simpa using hf
  have hl : noBranch.link = 0 := rfl
  have h1 : v.pc = (s0.ctx n).pc := by rw [hv]
  have h2 : v.s = s0.modCore n Core.landDue := by rw [hv]
  unfold issueOps
  rw [if_neg (by simp [hfull])]
  simp only [List.filter_cons, List.filter_nil, hg, if_true, envs]
  rw [← hv]
  simp only [List.any_cons, List.any_nil, Bool.or_false, he, hs, hc, hq, Bool.not_false, Bool.and_true,
    List.flatMap_cons, List.flatMap_nil, List.append_nil, resolve_none, runPhase, List.foldl_cons, List.foldl_nil, hb,
    Nat.zero_le, decide_true, advancePc, hr, hl, Option.any_none, Nat.not_lt_zero]
  rw [if_neg (by rintro ⟨p, q⟩; exact p (hd q)), if_neg (by simp), if_neg (by
    rintro ⟨p, q, r, z⟩
    exact ht (by simpa using z) (by rw [hvc]; exact ⟨p, q, by simpa using r⟩))]
  simp only [Bool.false_eq_true, if_false, if_true, hx, h1, h2, soloEnd, List.foldl_cons, List.foldl_nil]

/-! ## What stays -/

/-- The loop registers of one context copied over those of another. -/
def copyLoops (xl : Ctx) (sr : FMap W64) : FMap W64 :=
  [0, 1, 2, 3, 4, 5].foldl (fun sr l =>
    ((sr.put (SR.lc l) (xl.spec (SR.lc l))).put (SR.ls l) (xl.spec (SR.ls l))).put (SR.le l) (xl.spec (SR.le l)))
    (sr.put SR.ldepth (xl.spec SR.ldepth))

/-- The change of a context that an issue without a branch operation makes. -/
def endCtx (next : W64) (xl : Ctx) (fl : List Flight) (st : FMap W64) (counts : Nat) (x : Ctx) : Ctx :=
  { x.countDown with
      sticky := st, flight := x.countDown.flight ++ fl,
      sr := if counts = 0 then copyLoops xl x.sr
            else (copyLoops xl x.sr).put SR.issues ((copyLoops xl x.sr).look 0 SR.issues + 1),
      pc := next, rep := 0, cur := none }

/-- Copying the loop registers of some levels: registers outside the loop stack stay. -/
theorem copyLoops_out (ls : List Nat) (xl : Ctx) (k : Nat) (hk : k < 0x08 ∨ 0x1E < k) (hl : ∀ l ∈ ls, l ≤ 5)
    (sr : FMap W64) :
    FMap.look 0 (ls.foldl (fun sr l =>
      ((sr.put (SR.lc l) (xl.spec (SR.lc l))).put (SR.ls l) (xl.spec (SR.ls l))).put (SR.le l) (xl.spec (SR.le l))) sr)
      k = sr.look 0 k := by
  induction ls generalizing sr with
  | nil => rfl
  | cons l ls ih =>
    have h5 := hl l (by simp)
    rw [List.foldl_cons, ih (fun m hm => hl m (by simp [hm])),
      FMap.look_put_ne _ _ _ _ _ (show k ≠ SR.le l by simp only [SR.le]; omega),
      FMap.look_put_ne _ _ _ _ _ (show k ≠ SR.ls l by simp only [SR.ls]; omega),
      FMap.look_put_ne _ _ _ _ _ (show k ≠ SR.lc l by simp only [SR.lc]; omega)]

/-- Copying a register's own value changes nothing that is read. -/
theorem look_put_own (sr : FMap W64) (j : Nat) (v : W64) (hv : v = sr.look 0 j) (k : Nat) :
    (sr.put j v).look 0 k = sr.look 0 k := by
  rw [FMap.look_put]
  split
  · next h => rw [hv, h]
  · rfl

theorem copyLoops_same (ls : List Nat) (xl : Ctx) (k : Nat) (sr : FMap W64) (h : ∀ j, xl.spec j = sr.look 0 j) :
    FMap.look 0 (ls.foldl (fun sr l =>
      ((sr.put (SR.lc l) (xl.spec (SR.lc l))).put (SR.ls l) (xl.spec (SR.ls l))).put (SR.le l) (xl.spec (SR.le l))) sr)
      k = sr.look 0 k := by
  induction ls generalizing sr with
  | nil => rfl
  | cons l ls ih =>
    have e1 := look_put_own sr (SR.lc l) _ (h _)
    have e2 := look_put_own _ (SR.ls l) (xl.spec (SR.ls l)) ((h _).trans (e1 _).symm)
    have e3 := look_put_own _ (SR.le l) (xl.spec (SR.le l)) (((h _).trans (e1 _).symm).trans (e2 _).symm)
    rw [List.foldl_cons, ih _ (fun j => by rw [e3, e2, e1, h]), e3, e2, e1]

theorem copyLoops_look (z : Ctx) (sr : FMap W64) (k : Nat) (hk : (k < 0x08 ∨ 0x1E < k) ∨ ∀ j, z.spec j = sr.look 0 j) :
    (copyLoops z sr).look 0 k = sr.look 0 k := by
  rcases hk with hk | hk
  · rw [copyLoops, copyLoops_out _ _ _ hk (by simp), FMap.look_put_ne _ _ _ _ _ (by simp only [SR.ldepth]; omega)]
  · have e := look_put_own sr SR.ldepth _ (hk SR.ldepth)
    rw [copyLoops, copyLoops_same _ _ _ _ (fun j => by rw [e, hk]), e]

theorem loopEnd_none (h : W64) (n : Nat) (x : Ctx)
    (hx : x.spec SR.ldepth = 0 ∨ x.spec (SR.le ((x.spec SR.ldepth).toNat - 1)) ≠ h) : loopEnd h n x = (x, none) := by
  cases n with
  | zero => rfl
  | succ n =>
    unfold loopEnd
    rcases hx with hx | hx
    · simp [hx]
    · simp only [if_neg hx, ite_self]

theorem look_put_agree (xl : Ctx) (sr : FMap W64) (j k : Nat) (h : k = j ∨ sr.look 0 k = xl.spec k) :
    (sr.put j (xl.spec j)).look 0 k = xl.spec k := by
  rw [FMap.look_put]
  split
  · next e => rw [e]
  · next e => exact h.resolve_left e

/-- Where a context agrees with the resolved one outside the loop stack, copying the loop stack makes them agree. -/
theorem copyLoops_agree (xl : Ctx) (sr : FMap W64) (hx : ∀ k, k ∉ loopStackRegs → sr.look 0 k = xl.spec k) (k : Nat) :
    (copyLoops xl sr).look 0 k = xl.spec k := by
  by_cases hk : k ∈ loopStackRegs
  · simp only [copyLoops, List.foldl_cons, List.foldl_nil]
    simp only [loopStackRegs, List.mem_cons, List.not_mem_nil, or_false] at hk
    rcases hk with rfl | rfl | rfl | rfl | rfl | rfl | rfl | rfl | rfl | rfl | rfl | rfl | rfl | rfl | rfl | rfl | rfl |
      rfl | rfl
    all_goals repeat first | exact look_put_agree _ _ _ _ (.inl rfl) | refine look_put_agree _ _ _ _ (.inr ?_)
  · simp only [copyLoops, List.foldl_cons, List.foldl_nil]
    repeat refine look_put_agree _ _ _ _ (.inr ?_)
    exact hx k hk

theorem endingLevels_congr (x y : Ctx) (hp : y.pc = x.pc) (n : Nat)
    (h : ∀ l, l < n → y.spec (SR.le l) = x.spec (SR.le l) ∧ y.spec (SR.lc l) = x.spec (SR.lc l)) :
    endingLevels y n = endingLevels x n := by
  induction n with
  | zero => rfl
  | succ n ih =>
    unfold endingLevels
    rw [(h n (by omega)).1, (h n (by omega)).2, hp, ih (fun l hl => h l (by omega))]

theorem endingLevels_le (x : Ctx) (n : Nat) : endingLevels x n ≤ n := by
  induction n with
  | zero => exact Nat.le_refl 0
  | succ n ih => unfold endingLevels; split <;> omega

/-- What the loop-end test answers, by the levels that end. -/
theorem loopEnd_tested (n d : Nat) (x : Ctx) (hd : (x.spec SR.ldepth).toNat = d) (h6 : d ≤ 6) (hn : d < n) :
    let m := d - endingLevels x d
    let again : Prop := 0 < m ∧ x.spec (SR.le (m - 1)) = x.pc
    let r := loopEnd x.pc n x
    (again → r.2 = some (x.spec (SR.ls (m - 1)))) ∧ (¬again → r.2 = none) ∧
    r.1.spec SR.ldepth = BitVec.ofNat 64 m ∧
    (∀ l, l < 6 → r.1.spec (SR.ls l) = x.spec (SR.ls l) ∧ r.1.spec (SR.le l) = x.spec (SR.le l) ∧
      (m ≤ l ∧ l < d → r.1.spec (SR.lc l) = 0) ∧
      (again → l + 1 = m → r.1.spec (SR.lc l) = x.spec (SR.lc l) - 1) ∧
      (¬(m ≤ l ∧ l < d) → ¬(again ∧ l + 1 = m) → r.1.spec (SR.lc l) = x.spec (SR.lc l))) := by
  induction n generalizing d x with
  | zero => omega
  | succ n ih =>
    have hl : x.spec SR.ldepth = BitVec.ofNat 64 d := by rw [← hd, BitVec.ofNat_toNat, BitVec.setWidth_eq]
    unfold loopEnd
    simp only [hd]
    cases d with
    | zero => simp [endingLevels, hl]
    | succ d =>
      rw [if_neg (by omega)]
      simp only [Nat.add_sub_cancel]
      by_cases he : x.spec (SR.le d) = x.pc
      · rw [if_pos he]
        by_cases h1 : x.spec (SR.lc d) = 1
        · have h0 : ¬(x.spec (SR.lc d) - 1 ≠ 0) := by rw [h1]; simp
          simp only [if_neg h0]
          obtain ⟨x', hx'⟩ : ∃ x', x' = (x.putSpec (SR.lc d) (x.spec (SR.lc d) - 1)).putSpec SR.ldepth (BitVec.ofNat 64 d) :=
            ⟨_, rfl⟩
          have hp : x'.pc = x.pc := by rw [hx']; rfl
          have hs : ∀ k, x'.spec k = if k = SR.ldepth then BitVec.ofNat 64 d else if k = SR.lc d then 0 else x.spec k := by
            intro k
            rw [hx', Ctx.putSpec, Ctx.putSpec, Ctx.spec]
            simp only [FMap.look_put]
            split
            · rfl
            · split
              · rw [h1]; simp
              · rfl
          have hlt : ∀ l, l < d → x'.spec (SR.le l) = x.spec (SR.le l) ∧ x'.spec (SR.lc l) = x.spec (SR.lc l) := by
            intro l hl
            rw [hs, hs, if_neg (by simp only [SR.le, SR.ldepth]; omega), if_neg (by simp only [SR.le, SR.lc]; omega),
              if_neg (by simp only [SR.lc, SR.ldepth]; omega), if_neg (by simp only [SR.lc]; omega)]
            exact ⟨rfl, rfl⟩
          have hc := endingLevels_congr x x' hp d hlt
          have hle := endingLevels_le x d
          have hd' : (x'.spec SR.ldepth).toNat = d := by rw [hs, if_pos rfl, BitVec.toNat_ofNat]; omega
          obtain ⟨a1, a2, a3, a4⟩ := ih d x' hd' (by omega) (by omega)
          have hr : loopEnd x.pc n ((x.putSpec (SR.lc d) (x.spec (SR.lc d) - 1)).putSpec SR.ldepth (BitVec.ofNat 64 d)) =
              loopEnd x'.pc n x' := by rw [hp, hx']
          rw [hr]
          have hm : d + 1 - endingLevels x (d + 1) = d - endingLevels x' d := by
            rw [hc, endingLevels, if_pos ⟨he, h1⟩]; omega
          rw [hm]
          generalize hmm : d - endingLevels x' d = m at *
          have hag : (0 < m ∧ x'.spec (SR.le (m - 1)) = x'.pc) ↔ (0 < m ∧ x.spec (SR.le (m - 1)) = x.pc) := by
            rw [hp]
            constructor <;> rintro ⟨p, q⟩ <;> refine ⟨p, ?_⟩
            · rw [← (hlt (m - 1) (by omega)).1]; exact q
            · rw [(hlt (m - 1) (by omega)).1]; exact q
          simp only [hag] at a1 a2 a4
          refine ⟨fun h => ?_, a2, a3, fun l hl => ?_⟩
          · rw [a1 h, hs, if_neg (by simp only [SR.ls, SR.ldepth]; omega), if_neg (by simp only [SR.ls, SR.lc]; omega)]
          · obtain ⟨b1, b2, b3, b4, b5⟩ := a4 l hl
            rw [hs, if_neg (by simp only [SR.ls, SR.ldepth]; omega), if_neg (by simp only [SR.ls, SR.lc]; omega)] at b1
            rw [hs, if_neg (by simp only [SR.le, SR.ldepth]; omega), if_neg (by simp only [SR.le, SR.lc]; omega)] at b2
            refine ⟨b1, b2, fun h => ?_, fun h hq => ?_, fun h hq => ?_⟩
            · by_cases hld : l < d
              · exact b3 ⟨h.1, hld⟩
              · have : l = d := by omega
                subst this
                rw [b5 (by omega) (by rintro ⟨-, q⟩; omega), hs, if_neg (by simp only [SR.lc, SR.ldepth]; omega), if_pos rfl]
            · rw [b4 h hq, (hlt l (by omega)).2]
            · rw [b5 (by omega) hq, hs, if_neg (by simp only [SR.lc, SR.ldepth]; omega),
                if_neg (by simp only [SR.lc]; omega)]
        · have h0 : x.spec (SR.lc d) - 1 ≠ 0 := by
            intro h; apply h1; bv_omega
          simp only [if_pos h0]
          have hE : endingLevels x (d + 1) = 0 := by rw [endingLevels, if_neg (by rintro ⟨-, q⟩; exact h1 q)]
          rw [hE]
          have hs : ∀ k, (x.putSpec (SR.lc d) (x.spec (SR.lc d) - 1)).spec k =
              if k = SR.lc d then x.spec (SR.lc d) - 1 else x.spec k := by
            intro k; rw [Ctx.putSpec, Ctx.spec]; simp only [FMap.look_put]; rfl
          simp only [hs, Nat.sub_zero, Nat.add_sub_cancel]
          refine ⟨fun _ => ?_, fun h => absurd ⟨by omega, he⟩ h, ?_, fun l hl => ⟨?_, ?_, fun h => by omega, fun _ h => ?_,
            fun _ h => ?_⟩⟩
          · rw [if_neg (by simp only [SR.ls, SR.lc]; omega)]
          · rw [if_neg (by simp only [SR.ldepth, SR.lc]; omega), hl]
          · rw [if_neg (by simp only [SR.ls, SR.lc]; omega)]
          · rw [if_neg (by simp only [SR.le, SR.lc]; omega)]
          · have : l = d := by omega
            rw [this, if_pos rfl]
          · rw [if_neg (by
              intro q
              exact h ⟨⟨by omega, he⟩, by simp only [SR.lc] at q; omega⟩)]
      · rw [if_neg he]
        have hE : endingLevels x (d + 1) = 0 := by rw [endingLevels, if_neg (by rintro ⟨q, -⟩; exact he q)]
        rw [hE]
        simp only [Nat.sub_zero, Nat.add_sub_cancel]
        refine ⟨fun h => absurd h.2 he, fun _ => by trivial, hl, fun l _ => ⟨by trivial, by trivial, fun h => by omega,
          fun h => absurd h.2 he, fun _ _ => by trivial⟩⟩

/-- The loop-end test changes the loop stack alone. -/
theorem loopEnd_frame (h : W64) (n : Nat) (x : Ctx) (k : Nat) (hk : k ∉ loopStackRegs) :
    (loopEnd h n x).1.spec k = x.spec k := by
  induction n generalizing x with
  | zero => rfl
  | succ n ih =>
    unfold loopEnd
    simp only
    split
    · rfl
    · next h0 =>
      have hm : ∀ v : W64, (x.putSpec (SR.lc ((x.spec SR.ldepth).toNat - 1)) v).spec k = x.spec k := by
        intro v
        rw [Ctx.putSpec, Ctx.spec]
        simp only [FMap.look_put]
        rw [if_neg (by
          rintro rfl
          apply hk
          have : (x.spec SR.ldepth).toNat - 1 < 6 := by omega
          generalize (x.spec SR.ldepth).toNat - 1 = j at *
          simp only [SR.lc, loopStackRegs, List.mem_cons, List.not_mem_nil, or_false]
          omega)]
        rfl
      split
      · split
        · exact hm _
        · rw [ih, Ctx.putSpec, Ctx.spec]
          simp only [FMap.look_put]
          rw [if_neg (by rintro rfl; exact hk (by decide))]
          exact hm _
      · rfl

/-- The registers of a context after an issue: as resolved, with the issue counted. -/
theorem endCtx_spec (next : W64) (xl : Ctx) (fl : List Flight) (st : FMap W64) (counts : Nat) (hc : counts ≤ 1) (x : Ctx)
    (hx : ∀ k, k ∉ loopStackRegs → xl.spec k = x.spec k) (k : Nat) :
    (endCtx next xl fl st counts x).spec k = xl.spec k + if k = SR.issues then BitVec.ofNat 64 counts else 0 := by
  have h := copyLoops_agree xl x.sr (fun k hk => (hx k hk).symm)
  have h1 : (endCtx next xl fl st counts x).sr = if counts = 0 then copyLoops xl x.sr
    else (copyLoops xl x.sr).put SR.issues ((copyLoops xl x.sr).look 0 SR.issues + 1) := rfl
  rw [Ctx.spec, h1]
  rcases Nat.le_one_iff_eq_zero_or_eq_one.1 hc with e | e
  · rw [if_pos e, h, e]; split <;> simp
  · rw [if_neg (by omega), FMap.look_put, h, h, e]
    by_cases hk : k = SR.issues
    · rw [if_pos hk, if_pos hk, hk]; rfl
    · rw [if_neg hk, if_neg hk]; simp

/-- The end of an issue keeps to the frame. -/
theorem endCtx_issued (len : Nat) (st : FMap W64) (counts : Nat) (fl : List Flight) (x : Ctx) (hc : counts ≤ 1) :
    IssuedCtx len counts fl x
      (endCtx (((loopEnd x.pc 7 x).2).getD (x.pc + BitVec.ofNat 64 (8 * len))) (loopEnd x.pc 7 x).1 fl st counts x)
      := by
  obtain ⟨z, hz⟩ : ∃ z, z = (loopEnd x.pc 7 x).1 := ⟨_, rfl⟩
  have hsr : ∀ k, (k < 0x08 ∨ 0x1E < k) ∨ (∀ j, z.spec j = x.sr.look 0 j) →
      (endCtx (((loopEnd x.pc 7 x).2).getD (x.pc + BitVec.ofNat 64 (8 * len))) z fl st counts x).spec k =
      if k = SR.issues then x.spec k + BitVec.ofNat 64 counts else x.spec k := by
    intro k hk
    have hcopy := copyLoops_look z x.sr
    have hi := hcopy SR.issues (hk.imp (fun _ => by simp [SR.issues]) id)
    unfold endCtx Ctx.spec
    simp only
    rcases Nat.le_one_iff_eq_zero_or_eq_one.1 hc with rfl | rfl
    · rw [if_pos rfl]
      rw [hcopy k hk]; split <;> simp
    · rw [if_neg (by decide), FMap.look_put]
      split
      · next h => rw [hi, h]; rfl
      · exact hcopy k hk
  rw [← hz]
  refine ⟨rfl, rfl, rfl, rfl, rfl, rfl, rfl, rfl, rfl, rfl, rfl, rfl, ?_, ?_, ?_, ?_, ?_⟩
  · rw [hsr _ (.inl (by simp [SR.issues])), if_pos rfl]
  · intro k h1 h2
    rw [hsr k (.inl h1), if_neg h2]
  · intro hn
    have h0 := loopEnd_none x.pc 7 x hn
    refine ⟨?_, ?_⟩
    · simp [endCtx, h0]
    · intro k hk
      rw [hsr k (.inr (fun j => by rw [hz, h0]; rfl)), if_neg hk]
  · intro k hk hi
    rw [endCtx_spec _ _ _ _ _ hc x (fun k hk => by rw [hz]; exact loopEnd_frame _ _ _ _ hk), if_neg hi, hz,
      loopEnd_frame _ _ _ _ hk]
    simp
  · have hy := endCtx_spec (((loopEnd x.pc 7 x).2).getD (x.pc + BitVec.ofNat 64 (8 * len))) z fl st counts hc x
      (fun k hk => by rw [hz]; exact loopEnd_frame _ _ _ _ hk)
    have hpc : (endCtx (((loopEnd x.pc 7 x).2).getD (x.pc + BitVec.ofNat 64 (8 * len))) z fl st counts x).pc =
        ((loopEnd x.pc 7 x).2).getD (x.pc + BitVec.ofNat 64 (8 * len)) := rfl
    have hne : ∀ l, l < 6 → SR.lc l ≠ SR.issues ∧ SR.ls l ≠ SR.issues ∧ SR.le l ≠ SR.issues := by
      intro l hl; simp only [SR.lc, SR.ls, SR.le, SR.issues]; omega
    rw [LoopTested, hpc]
    by_cases h6 : (x.spec SR.ldepth).toNat ≤ 6
    · obtain ⟨a1, a2, a3, a4⟩ := loopEnd_tested 7 _ x rfl h6 (by omega)
      have hm : levelsLeft x = (x.spec SR.ldepth).toNat - endingLevels x (x.spec SR.ldepth).toNat := by
        rw [levelsLeft]; simp only [if_pos h6]
      rw [← hm] at a1 a2 a3 a4
      have hag : levelRepeats x = true ↔ 0 < levelsLeft x ∧ x.spec (SR.le (levelsLeft x - 1)) = x.pc := by
        have : levelsLeft x ≤ 6 := by rw [hm]; omega
        simp [levelRepeats, this]
      refine ⟨?_, ?_, fun l hl => ?_⟩
      · by_cases ha : levelRepeats x = true
        · rw [if_pos ha, a1 (hag.1 ha)]; rfl
        · rw [if_neg ha, a2 (fun h => ha (hag.2 h))]; rfl
      · rw [hy, if_neg (by decide), hz, a3]; simp
      · obtain ⟨b1, b2, b3, b4, b5⟩ := a4 l hl
        obtain ⟨n1, n2, n3⟩ := hne l hl
        rw [hy, hy, hy, if_neg n1, if_neg n2, if_neg n3, hz]
        rw [show ∀ a : W64, a + 0 = a from fun a => by simp]
        rw [show ∀ a : W64, a + 0 = a from fun a => by simp]
        rw [show ∀ a : W64, a + 0 = a from fun a => by simp]
        refine ⟨b1, b2, ?_⟩
        by_cases c1 : levelsLeft x ≤ l ∧ l < (x.spec SR.ldepth).toNat
        · rw [if_pos c1]; exact b3 c1
        · rw [if_neg c1]
          by_cases c2 : levelRepeats x = true ∧ l + 1 = levelsLeft x
          · rw [if_pos c2]; exact b4 (hag.1 c2.1) c2.2
          · rw [if_neg c2]; exact b5 c1 (fun h => c2 ⟨hag.2 h.1, h.2⟩)
    · have hE : loopEnd x.pc 7 x = (x, none) := by unfold loopEnd; simp only [if_pos (Or.inr (Nat.lt_of_not_le h6))]
      have hm : levelsLeft x = (x.spec SR.ldepth).toNat := by rw [levelsLeft]; simp only [if_neg h6]
      have hr : levelRepeats x = false := by
        rw [levelRepeats, hm]; simp [h6]
      have hzx : z = x := by rw [hz, hE]
      refine ⟨by rw [hr, hE]; rfl, by rw [hy, if_neg (by decide), hzx, hm]; simp, fun l hl => ?_⟩
      obtain ⟨n1, n2, n3⟩ := hne l hl
      rw [hy, hy, hy, if_neg n1, if_neg n2, if_neg n3, hzx, hr, if_neg (by omega), if_neg (by simp)]
      simp

theorem port_setPort (c : Core) (p : Nat) (q : Port) (j : Nat) :
    (c.setPort p q).port j = if j = p then q else c.port j := FMap.look_put _ _ _ _ _

/-! ## Ports -/

/-- A state differs from another in the ports of core `n` alone, which have lost and counted lines. -/
def PortsOnly (n : Nat) (pops pushes : List Nat) (s t : State) : Prop :=
  { t with cores := s.cores } = s ∧ (∀ m, m ≠ n → t.core m = s.core m) ∧
  { t.core n with ports := (s.core n).ports } = s.core n ∧
  ∀ p, (t.core n).port p = { (s.core n).port p with queue := ((s.core n).port p).queue.drop (pops.count p),
                                                    pushed := ((s.core n).port p).pushed + pushes.count p }

theorem popPorts_only (n : Nat) (ps : List Nat) (s : State) : PortsOnly n ps [] s (popPorts n ps s) := by
  induction ps generalizing s with
  | nil => exact ⟨rfl, fun _ _ => rfl, rfl, fun _ => rfl⟩
  | cons q ps ih =>
    obtain ⟨h1, h2, h3, h4⟩ := ih (s.modCore n (fun c => c.setPort q ((c.port q).pop 1)))
    have e : popPorts n (q :: ps) s = popPorts n ps (s.modCore n (fun c => c.setPort q ((c.port q).pop 1))) := rfl
    rw [e]
    refine ⟨?_, ?_, ?_, ?_⟩
    · have := congrArg (fun t : State => { t with cores := s.cores }) h1
      exact this
    · intro m hm
      rw [h2 m hm, State.core_modCore_ne _ _ _ _ hm]
    · have := congrArg (fun c : Core => { c with ports := (s.core n).ports }) h3
      rw [State.core_modCore_same] at this
      exact this
    · intro p
      rw [h4 p, State.core_modCore_same, port_setPort]
      by_cases hp : p = q
      · subst hp
        simp [Port.pop]
      · rw [if_neg hp, List.count_cons_of_ne (fun h => hp h.symm)]

theorem pushPorts_only (n : Nat) (ps : List Nat) (s : State) : PortsOnly n [] ps s (pushPorts n ps s) := by
  induction ps generalizing s with
  | nil => exact ⟨rfl, fun _ _ => rfl, rfl, fun _ => rfl⟩
  | cons q ps ih =>
    obtain ⟨h1, h2, h3, h4⟩ := ih (s.modCore n (fun c => c.setPort q { c.port q with pushed := (c.port q).pushed + 1 }))
    have e : pushPorts n (q :: ps) s =
      pushPorts n ps (s.modCore n (fun c => c.setPort q { c.port q with pushed := (c.port q).pushed + 1 })) := rfl
    rw [e]
    refine ⟨?_, ?_, ?_, ?_⟩
    · have := congrArg (fun t : State => { t with cores := s.cores }) h1
      exact this
    · intro m hm
      rw [h2 m hm, State.core_modCore_ne _ _ _ _ hm]
    · have := congrArg (fun c : Core => { c with ports := (s.core n).ports }) h3
      rw [State.core_modCore_same] at this
      exact this
    · intro p
      rw [h4 p, State.core_modCore_same, port_setPort]
      by_cases hp : p = q
      · subst hp
        rw [if_pos rfl, List.count_cons_self]
        simp only [List.count_nil, List.drop_zero]
        congr 1
        omega
      · rw [if_neg hp, List.count_cons_of_ne (fun h => hp h.symm)]

theorem PortsOnly.trans {n : Nat} {a b : List Nat} {s t u : State} (h : PortsOnly n [] b s t) (g : PortsOnly n a [] t u) :
    PortsOnly n a b s u := by
  obtain ⟨h1, h2, h3, h4⟩ := h
  obtain ⟨g1, g2, g3, g4⟩ := g
  refine ⟨?_, fun m hm => (g2 m hm).trans (h2 m hm), ?_, ?_⟩
  · have := congrArg (fun t : State => { t with cores := s.cores }) g1
    exact this.trans h1
  · have := congrArg (fun c : Core => { c with ports := (s.core n).ports }) g3
    exact this.trans h3
  · intro p
    rw [g4, h4]
    simp

/-! ## The issue of an operation whose results go into flight -/

theorem soloBundle_len (i : Instr) (h : Hdr) (hi : hdrOfInstr i = some h) : (soloBundle i).len = 2 := by
  simp [soloBundle, encode, hi]

theorem soloBundle_rep (i : Instr) : (soloBundle i).rep = 0 := rfl

theorem guardTrue_encode (i : Instr) (h : Hdr) (hi : hdrOfInstr i = some h) (x : Ctx) :
    guardTrue x (encodeWord i) = (x.pred h.pred.toNat != h.neg) := by
  have e := hdrOf_encodeWord i h hi
  have e1 : bit (encodeWord i) 56 = h.neg := congrArg Hdr.neg e
  have e2 : fld 4 (encodeWord i) 52 = h.pred := congrArg Hdr.pred e
  rw [guardTrue, e1, e2]

/-- The end of an issue on a core. -/
def endCore (next : W64) (xl : Ctx) (c : Core) : Core :=
  let d := (c.setCtx { c.ctx with sr := copyLoops xl c.ctx.sr }).countIssue
  d.setCtx { d.ctx with pc := next, rep := 0, cur := none }

theorem soloEnd_eq (n : Nat) (next : W64) (xl : Ctx) (s : State) : soloEnd n next xl s = s.modCore n (endCore next xl) := by
  rw [soloEnd, State.modCtx, State.modCtx, State.modCore_modCore, State.modCore_modCore]
  rfl

theorem endCore_issued (c : Core) (ports : FMap Port) (len : Nat) (st : FMap W64) (fl : List Flight)
    (pops pushes : List Nat)
    (hp : ∀ p, ports.look Port.start p = { c.port p with queue := (c.port p).queue.drop (pops.count p),
                                                         pushed := (c.port p).pushed + pushes.count p }) :
    IssuedCore len fl pops pushes c
      (endCore (((loopEnd c.ctx.pc 7 c.ctx).2).getD (c.ctx.pc + BitVec.ofNat 64 (8 * len))) (loopEnd c.ctx.pc 7 c.ctx).1
        { c.setCtx { c.ctx.countDown with sticky := st, flight := c.ctx.countDown.flight ++ fl } with ports := ports }) := by
  have h := endCtx_issued len st (if c.inSup then 0 else 1) fl c.ctx (by split <;> omega)
  generalize (loopEnd c.ctx.pc 7 c.ctx).1 = xl at *
  generalize ((loopEnd c.ctx.pc 7 c.ctx).2).getD (c.ctx.pc + BitVec.ofNat 64 (8 * len)) = next at *
  cases hs : c.inSup
  · have hm : (c.mode == CoreMode.supervisor) = false := hs
    rw [hs] at h
    simp only [Core.ctx, hs, Bool.false_eq_true, if_false] at h ⊢
    refine ⟨?_, ?_, ?_, ?_⟩
    · simp [endCore, Core.countIssue, Core.setCtx, Core.ctx, Core.inSup, hm]
    · intro p
      simp only [endCore, Core.countIssue, Core.setCtx, Core.ctx, Core.inSup, hm, Bool.false_eq_true, if_false]
      exact hp p
    · simp [endCore, Core.countIssue, Core.setCtx, Core.ctx, Core.inSup, hm]
    · have e : ∀ x y : Ctx, x = y → IssuedCtx len 1 fl c.prog x → IssuedCtx len 1 fl c.prog y := by
        rintro x y rfl h; exact h
      simp only [hs, Bool.false_eq_true, if_false, Core.ctx]
      refine e _ _ ?_ h
      simp [endCore, Core.countIssue, Core.setCtx, Core.ctx, Core.inSup, hm, endCtx, Ctx.putSpec, Ctx.spec]
      rfl
  · have hm : (c.mode == CoreMode.supervisor) = true := hs
    rw [hs] at h
    simp only [Core.ctx, hs, if_true] at h ⊢
    refine ⟨?_, ?_, ?_, ?_⟩
    · simp [endCore, Core.countIssue, Core.setCtx, Core.ctx, Core.inSup, hm]
    · intro p
      simp only [endCore, Core.countIssue, Core.setCtx, Core.ctx, Core.inSup, hm, if_true]
      exact hp p
    · simp [endCore, Core.countIssue, Core.setCtx, Core.ctx, Core.inSup, hm]
    · have e : ∀ x y : Ctx, x = y → IssuedCtx len 0 fl c.sup x → IssuedCtx len 0 fl c.sup y := by
        rintro x y rfl h; exact h
      simp only [hs, if_true, Core.ctx]
      refine e _ _ ?_ h
      simp [endCore, Core.countIssue, Core.setCtx, Core.ctx, Core.inSup, hm, endCtx]
      rfl

theorem Core.landEff_pc (c : Core) (e : Eff) : (c.landEff e).ctx.pc = c.ctx.pc ∧ (c.landEff e).inSup = c.inSup := by
  cases e <;> simp [Core.landEff, Ctx.tagClear, Ctx.noteTags]
  · simp [Core.setMask]; split <;> simp [Core.ctx, Core.inSup]
  · exact ⟨rfl, rfl⟩
  · simp [Core.ctx, Core.inSup]
  · split <;> simp [Core.setPort, Core.ctx, Core.inSup]
  · simp [Core.ctx, Core.inSup]

theorem Core.landList_pc (c : Core) (fs : List Flight) (a b : Nat) :
    (c.landList fs a b).1.ctx.pc = c.ctx.pc ∧ (c.landList fs a b).1.inSup = c.inSup := by
  induction fs generalizing c a b with
  | nil => exact ⟨rfl, rfl⟩
  | cons f fs ih =>
    have h := c.landEff_pc f.eff
    have g := ih (c.landEff f.eff) (a ||| (c.landFlags f).1) (b ||| (c.landFlags f).2)
    exact ⟨g.1.trans h.1, g.2.trans h.2⟩

/-- No landing moves the pc. -/
theorem Core.landDue_pc (c : Core) : c.landDue.ctx.pc = c.ctx.pc := by
  unfold Core.landDue
  simp only
  split
  · rfl
  · simp only [Core.ctx_setCtx, Ctx.orAcc_pc, Ctx.orFlags_pc]
    rw [(Core.landList_pc _ _ _ _).1, Core.ctx_setCtx]

theorem Core.landDue_inSup (c : Core) : c.landDue.inSup = c.inSup := by
  unfold Core.landDue
  simp only
  split
  · rfl
  · rw [Core.inSup_setCtx, (Core.landList_pc _ _ _ _).2, Core.inSup_setCtx]

/-! ## Operands that are ready -/

theorem firstEmpty_ready (c : Core) (fe : Bool) (srcs : List SrcRef) (popped : List Nat) (k : Nat)
    (h : SrcsReady c popped srcs) : firstEmpty c fe popped k srcs = none := by
  induction srcs generalizing popped k with
  | nil => rfl
  | cons r rs ih =>
    obtain ⟨h1, -, h3⟩ := h
    simp only [firstEmpty, h1, Bool.false_and, Bool.false_eq_true, if_false]
    exact ih _ _ h3

theorem popFault_ready (c : Core) (srcs : List SrcRef) (popped : List Nat) (h : SrcsReady c popped srcs) :
    popFault c popped srcs = none := by
  induction srcs generalizing popped with
  | nil => rfl
  | cons r rs ih =>
    obtain ⟨-, h2, h3⟩ := h
    unfold popFault
    split
    · next hr =>
      have : popsOf [r] = [] := by
        cases r with
        | reg => rfl
        | line sp n w ad keep =>
          simp only [SrcRef.readPort] at hr
          simp only [popsOf, List.filterMap_cons, List.filterMap_nil]
          cases keep <;> simp [hr]
      rw [this, List.append_nil] at h3
      exact ih _ h3
    · next p hr =>
      have := h2 p hr
      simp only [this.1, this.2, Bool.true_and, decide_true, if_true]
      exact ih _ h3

/-- The tests of R189 pass for an operation whose operands are ready. -/
theorem ready_tests {i : Instr} {h : Hdr} {sem : OpSem} {s : State}
    (hsrc : SrcsReady (seen i h s).c [] sem.srcs) (hdst : ∀ d ∈ sem.dsts, dstEmpty (seen i h s).c d = false)
    (hpush : ∀ p ∈ sem.pushes, pushFault (seen i h s).c [] p = none ∧ pushFull (seen i h s).c [] p = false)
    (hw : sem.wait (seen i h s) = false) (hk : sem.check (seen i h s) = none)
    (hp : slotPrivilege (seen i h s).c h.slot (encodeWord i) = none) :
    findEmptyTrap [(⟨h.slot, encodeWord i, sem⟩, seen i h s)] = none ∧
    opStalls ⟨h.slot, encodeWord i, sem⟩ (seen i h s) = false ∧
    findCheck [(⟨h.slot, encodeWord i, sem⟩, seen i h s)] = none := by
  have e : (seen i h s).popped = [] := rfl
  have e' : (seen i h s).pushed = [] := rfl
  refine ⟨?_, ?_, ?_⟩
  · simp only [findEmptyTrap, e, firstEmpty_ready _ _ _ _ _ hsrc]
  · simp only [opStalls, e, e', firstEmpty_ready _ _ _ _ _ hsrc, hw, Bool.or_false, Option.isSome_none, Bool.false_or,
      Bool.or_eq_false_iff, List.any_eq_false]
    refine ⟨fun d hd => by rw [hdst d hd]; decide, fun p hp => by rw [(hpush p hp).2]; simp⟩
  · simp only [findCheck, hp, opCheck, hk, e, e', popFault_ready _ _ _ hsrc]
    rw [List.findSome?_eq_none_iff.2 (fun p hp => (hpush p hp).1)]

/-- A line result, wherever it goes, is one result in flight and one push counted if it goes to a port. -/
theorem landLines_eq (v : Env) (s : State) (spec : BitVec 13) (en : Line) (data : List Line) (l flags : Nat) :
    v.landLines s spec en data l flags =
      pushPorts v.core (pushesOf spec) (s.landMany v.core [⟨lineEff spec en data, l - 1, v.slot, false, flags, none⟩]) := by
  unfold Env.landLines lineEff pushesOf
  cases h : specTile spec
  · simp only [Bool.false_eq_true, if_false]
    cases g : specWrite spec
    · rfl
    · rfl
  · have : specWrite spec = none := by simp [specWrite, h]
    simp only [if_true, this]
    rfl

/-- Outside the V, X and M slots every mode has the operation. -/
theorem slotPrivilege_low (c : Core) (slot : Fin 9) (w : W64) (h : slot.val < 4 ∨ 7 < slot.val) :
    slotPrivilege c slot w = none := by
  unfold slotPrivilege
  rw [if_neg]
  simp only [Bool.and_eq_true, decide_eq_true_eq, not_and]
  omega

theorem seen_inSup (i : Instr) (h : Hdr) (s : State) : (seen i h s).c.inSup = (s.core s.turn).inSup := by
  show ((begun i s).core s.turn).inSup = _
  simp only [begun, State.core_modCore_same, State.core_modCtx_same, Core.landDue_inSup, Core.inSup_setCtx]

/-- A core that runs a program has every operation. -/
theorem slotPrivilege_program (i : Instr) (h : Hdr) (s : State) (w : W64) (hm : (s.core s.turn).mode = .program) :
    slotPrivilege (seen i h s).c h.slot w = none := by
  have : (seen i h s).c.inSup = false := by rw [seen_inSup, Core.inSup, hm]; rfl
  simp [slotPrivilege, this]

/-- The slot of a well-formed slot operation is of its class. -/
theorem slot_of_class {i : Instr} {h : Hdr} (hw : WellFormed i) (hi : hdrOfInstr i = some h) :
    opClass i = some (slotClass h.slot) := by
  have := hw.2; rw [hi] at this; exact this.1

theorem slot_S {slot : Fin 9} (h : slotClass slot = 'S') : slot.val < 2 := by
  revert slot; decide
theorem slot_L {slot : Fin 9} (h : slotClass slot = 'L') : slot.val = 2 ∨ slot.val = 3 := by
  revert slot; decide
theorem slot_C {slot : Fin 9} (h : slotClass slot = 'C') : slot.val = 8 := by
  revert slot; decide

/-- Whether landings find room does not depend on the bundle under way. -/
theorem landFull_under_way (s : State) (n : Nat) (b : Option Bundle) :
    ((s.modCtx n (fun x => { x with cur := b })).core n).landFull = (s.core n).landFull := by
  rw [State.core_modCtx_same]
  unfold Core.landFull Core.due Core.port
  simp only [Core.ctx_setCtx, Core.setCtx_ports]

/-! ## The issue of an operation that changes more than it puts into flight -/

/-- The loop registers. -/
def loopReg (k : Nat) : Prop := 0x08 ≤ k ∧ k ≤ 0x1E

theorem loopEnd_congr (h : W64) (n : Nat) (x y : Ctx) (hxy : ∀ k, loopReg k → x.spec k = y.spec k) :
    (loopEnd h n x).2 = (loopEnd h n y).2 ∧
    ∀ k, loopReg k → (loopEnd h n x).1.spec k = (loopEnd h n y).1.spec k := by
  induction n generalizing x y with
  | zero => exact ⟨rfl, hxy⟩
  | succ n ih =>
    have hd : x.spec SR.ldepth = y.spec SR.ldepth := hxy _ (by simp [loopReg, SR.ldepth])
    unfold loopEnd
    simp only [hd]
    by_cases h0 : (y.spec SR.ldepth).toNat = 0 ∨ 6 < (y.spec SR.ldepth).toNat
    · simp only [if_pos h0]; exact ⟨by trivial, hxy⟩
    · simp only [if_neg h0]
      have hr : loopReg (SR.le ((y.spec SR.ldepth).toNat - 1)) := by simp only [loopReg, SR.le]; omega
      have hle := hxy _ hr
      have hreg : ∀ (f : Nat → Nat), f = SR.lc ∨ f = SR.ls → x.spec (f ((y.spec SR.ldepth).toNat - 1)) =
          y.spec (f ((y.spec SR.ldepth).toNat - 1)) := by
        rintro f (rfl | rfl) <;> apply hxy <;> simp only [loopReg, SR.le, SR.lc, SR.ls] at * <;> omega
      rw [hle, hreg SR.lc (.inl rfl)]
      split
      · split
        · refine ⟨?_, ?_⟩
          · simp only [Ctx.spec, Ctx.putSpec, FMap.look_put]
            split
            · rfl
            · exact congrArg some (hreg SR.ls (.inr rfl))
          · intro k hk
            simp only [Ctx.spec, Ctx.putSpec, FMap.look_put]
            split
            · rfl
            · exact hxy k hk
        · apply ih
          intro k hk
          simp only [Ctx.spec, Ctx.putSpec, FMap.look_put]
          split
          · rfl
          · split
            · rfl
            · exact hxy k hk
      · exact ⟨by trivial, hxy⟩

theorem copyLoops_fold (ls : List Nat) (x y : Ctx) (hl : ∀ l ∈ ls, l ≤ 5) (hxy : ∀ k, loopReg k → x.spec k = y.spec k)
    (sr : FMap W64) :
    ls.foldl (fun sr l =>
      ((sr.put (SR.lc l) (x.spec (SR.lc l))).put (SR.ls l) (x.spec (SR.ls l))).put (SR.le l) (x.spec (SR.le l))) sr =
    ls.foldl (fun sr l =>
      ((sr.put (SR.lc l) (y.spec (SR.lc l))).put (SR.ls l) (y.spec (SR.ls l))).put (SR.le l) (y.spec (SR.le l))) sr := by
  induction ls generalizing sr with
  | nil => rfl
  | cons l ls ih =>
    have h5 := hl l (by simp)
    rw [List.foldl_cons, List.foldl_cons, hxy (SR.lc l) (by simp only [loopReg, SR.lc]; omega),
      hxy (SR.ls l) (by simp only [loopReg, SR.ls]; omega), hxy (SR.le l) (by simp only [loopReg, SR.le]; omega),
      ih (fun m hm => hl m (by simp [hm]))]

theorem copyLoops_congr (x y : Ctx) (hxy : ∀ k, loopReg k → x.spec k = y.spec k) (sr : FMap W64) :
    copyLoops x sr = copyLoops y sr := by
  rw [copyLoops, copyLoops, hxy SR.ldepth (by simp [loopReg, SR.ldepth]), copyLoops_fold _ _ _ (by simp) hxy]

/-- The count-down of an issue, with the sticky words it leaves. -/
def tick (st : FMap W64) (c : Core) : Core := c.setCtx { c.ctx.countDown with sticky := st }

/-- A change leaves a core's course as it was: its mode, its pc and its loop stack. -/
def SameCourse (c d : Core) : Prop :=
  d.inSup = c.inSup ∧ d.ctx.pc = c.ctx.pc ∧ ∀ k, loopReg k → d.ctx.spec k = c.ctx.spec k

theorem SameCourse.refl (c : Core) : SameCourse c c := ⟨rfl, rfl, fun _ _ => rfl⟩

/-- What the issue of an operation alone does when its operands are ready and its own conditions hold: the operation reads,
writes, changes and puts into flight what an effect says. -/
theorem completes_with {i : Instr} {h : Hdr} {s : State} {e : Effect} {sem : OpSem} (hcan : CanIssue i h s)
    (hx : exec i s = issueSlot h i sem s) (hflow : sem.flow ≠ .exit)
    (hafter : ∀ w, finishFlow s.turn true sem.flow w = e.after w)
    (hstep : sem.flow = .step → ¬((seen i h s).c.preempt = some false ∧ (seen i h s).c.progBank = none ∧
      (seen i h s).c.inSup = false))
    (hdel : sem.delivery = true → (seen i h s).x.spec SR.fpflags &&& (seen i h s).x.spec SR.fpenable = 0)
    (hsrcs : sem.srcs = e.srcs) (hdsts : sem.dsts = e.dsts) (hpushes : sem.pushes = e.pushes)
    (hrun : ∀ st, sem.store (seen i h s) (sem.atom (seen i h s) (sem.act (seen i h s)
        ((begun i s).modCore s.turn (tick st)))) =
      pushPorts s.turn e.pushes (((e.change (begun i s)).modCore s.turn (tick st)).landMany s.turn e.results))
    (hsame : SameCourse ((begun i s).core s.turn) ((e.change (begun i s)).core s.turn))
    (hw : sem.wait (seen i h s) = false) (hk : sem.check (seen i h s) = none)
    (hp : slotPrivilege (seen i h s).c h.slot (encodeWord i) = none)
    (hsrc : SrcsReady (seen i h s).c [] e.srcs) (hdst : DstsReady (seen i h s).c e.dsts e.pushes) :
    ∃ w, Issued s.turn 2 e.results (popsOf e.srcs) e.pushes (e.change (begun i s)) w ∧ exec i s = .next (e.after w) := by
  obtain ⟨he, hs, hc⟩ := ready_tests (i := i) (h := h) (sem := sem) (s := s) (by rw [hsrcs]; exact hsrc)
    (by rw [hdsts]; exact hdst.1) (by rw [hpushes]; exact hdst.2) hw hk hp
  obtain ⟨hrun1, hfull, -, hi, hg⟩ := hcan
  refine ⟨_, ?_, by rw [hx, issueSlot, issueBundle, if_pos hrun1,
    issueOps_one (v := seen i h s) (by simp [seen, begun, State.ctx]) (by rw [landFull_under_way, hfull]) rfl (by
      show guardTrue (seen i h s).x (encodeWord i) = true
      rw [guardTrue_encode i h hi]
      show (((begun i s).ctx s.turn).pred h.pred.toNat != h.neg) = true
      rw [hg]; cases h.neg <;> rfl) hdel he hs hc hflow hstep, hafter]⟩
  generalize hrep : ((s.modCtx s.turn (fun x => { x with cur := some (soloBundle i) })).ctx s.turn).rep = rep
  have ht : (seen i h s).s.modCore s.turn (fun c => c.setCtx { c.ctx.countDown with
      sticky := stickyAt (soloBundle i) rep c.ctx.sticky }) =
      (begun i s).modCore s.turn (tick (stickyAt (soloBundle i) rep ((begun i s).core s.turn).ctx.sticky)) := rfl
  simp only
  rw [ht, hrun, soloBundle_len i h hi, soloEnd_eq, hsrcs]
  generalize stickyAt (soloBundle i) rep ((begun i s).core s.turn).ctx.sticky = st
  have hpc : (seen i h s).pc = ((begun i s).core s.turn).ctx.pc := by
    show (s.ctx s.turn).pc = _
    simp only [begun, State.core_modCore_same, State.core_modCtx_same]
    rw [Core.landDue_pc, Core.ctx_setCtx]; rfl
  have hxx : (seen i h s).x = ((begun i s).core s.turn).ctx := rfl
  rw [hpc, hxx]
  generalize hub : (begun i s).core s.turn = c0 at *
  generalize hu : e.change (begun i s) = u at *
  obtain ⟨-, hpc', hl⟩ := hsame
  obtain ⟨l1, l2⟩ := loopEnd_congr c0.ctx.pc 7 (u.core s.turn).ctx c0.ctx hl
  rw [← l1, ← hpc']
  rw [← hpc'] at l2
  have hend : endCore (((loopEnd (u.core s.turn).ctx.pc 7 (u.core s.turn).ctx).2).getD
        ((u.core s.turn).ctx.pc + BitVec.ofNat 64 (8 * 2))) (loopEnd (u.core s.turn).ctx.pc 7 c0.ctx).1 =
      endCore (((loopEnd (u.core s.turn).ctx.pc 7 (u.core s.turn).ctx).2).getD
        ((u.core s.turn).ctx.pc + BitVec.ofNat 64 (8 * 2))) (loopEnd (u.core s.turn).ctx.pc 7 (u.core s.turn).ctx).1 := by
    funext c
    unfold endCore
    rw [copyLoops_congr _ _ l2]
  rw [hend]
  generalize hs2 : (u.modCore s.turn (tick st)).landMany s.turn e.results = s2
  have hs2c : s2.core s.turn = (u.core s.turn).setCtx { (u.core s.turn).ctx.countDown with
      sticky := st, flight := (u.core s.turn).ctx.countDown.flight ++ e.results } := by
    rw [← hs2, State.landMany, State.core_modCtx_same, State.core_modCore_same, tick, Core.ctx_setCtx, Core.setCtx_setCtx]
  have hs2o : ∀ m, m ≠ s.turn → s2.core m = u.core m := by
    intro m hm
    rw [← hs2, State.landMany, State.core_modCtx_ne _ _ _ _ hm, State.core_modCore_ne _ _ _ _ hm]
  have hs2r : { s2 with cores := u.cores } = u := by rw [← hs2]; rfl
  obtain ⟨h1, h2, h3, h4⟩ := (pushPorts_only s.turn e.pushes s2).trans (popPorts_only s.turn (popsOf e.srcs) _)
  generalize popPorts s.turn (popsOf e.srcs) (pushPorts s.turn e.pushes s2) = s4 at *
  refine ⟨?_, ?_, ?_⟩
  · have := congrArg (fun t : State => { t with cores := u.cores }) h1
    exact this.trans hs2r
  · intro m hm
    rw [State.core_modCore_ne _ _ _ _ hm, h2 m hm, hs2o m hm]
  · rw [State.core_modCore_same]
    have h5 : s4.core s.turn = { s2.core s.turn with ports := (s4.core s.turn).ports } := by
      have := congrArg (fun c : Core => { c with ports := (s4.core s.turn).ports }) h3
      exact this
    have h6 : ∀ p, (s2.core s.turn).port p = (u.core s.turn).port p := by
      intro p; rw [hs2c]; simp [Core.port]
    have := endCore_issued (u.core s.turn) (s4.core s.turn).ports 2 st e.results (popsOf e.srcs) e.pushes (fun p => by
        have := h4 p
        rw [h6] at this
        exact this)
    rw [h5, hs2c]
    exact this

/-- The issue of an operation that only puts results into flight. -/
theorem completes_of {i : Instr} {h : Hdr} {s : State} {e : Effect} {sem : OpSem} (hcan : CanIssue i h s)
    (hx : exec i s = issueSlot h i sem s) (hflow : sem.flow = .plain) (hdel : sem.delivery = false)
    (hsrcs : sem.srcs = e.srcs) (hdsts : sem.dsts = e.dsts) (hpushes : sem.pushes = e.pushes)
    (hchange : e.change = id) (hafter : e.after = id)
    (hact : ∀ (u : State) f, sem.act (seen i h s) (u.modCore s.turn f) =
      pushPorts s.turn e.pushes ((u.modCore s.turn f).landMany s.turn e.results))
    (hat : ∀ t, sem.atom (seen i h s) t = t) (hst : ∀ t, sem.store (seen i h s) t = t)
    (hw : sem.wait (seen i h s) = false) (hk : sem.check (seen i h s) = none)
    (hp : slotPrivilege (seen i h s).c h.slot (encodeWord i) = none)
    (hsrc : SrcsReady (seen i h s).c [] e.srcs) (hdst : DstsReady (seen i h s).c e.dsts e.pushes) :
    ∃ w, Issued s.turn 2 e.results (popsOf e.srcs) e.pushes (e.change (begun i s)) w ∧ exec i s = .next (e.after w) :=
  completes_with hcan hx (by simp [hflow]) (fun w => by simp [hflow, finishFlow, hafter]) (fun h => by simp [hflow] at h)
    (fun h => by simp [hdel] at h) hsrcs hdsts hpushes (fun st => by rw [hst, hat, hact, hchange]; rfl)
    (by rw [hchange]; exact SameCourse.refl _) hw hk hp hsrc hdst

end Sys2Proof.Machine
end

