-- ==== Sys2Proof/Laws/Access.lean ====
section
/-! SUPPORT. What changes beside results commute with an issue's count-down and leave the core's course as it was. -/

namespace Sys2Proof.Machine

open Sys2Proof.Claims

/-- The mode that the core is in has the operation. -/
theorem slotPrivilege_modeHas {i : Instr} {h : Hdr} {s : State} (hm : ModeHas i h s) :
    slotPrivilege (seen i h s).c h.slot (encodeWord i) = none := by
  unfold slotPrivilege
  rw [if_neg]
  rw [seen_inSup]
  simp only [Bool.and_eq_true, decide_eq_true_eq, bne_iff_ne, ne_eq, not_and, not_not]
  intro ⟨⟨a, b⟩, c⟩
  rcases hm a with h | h | h
  · omega
  · omega
  · exact h

/-- The accesses to a location do not depend on what else a context holds. -/
theorem conflictIds_setCtx (c : Core) (x : Ctx) (cells : List RCell) (h : x.racc = c.ctx.racc) :
    (c.setCtx x).conflictIds cells = c.conflictIds cells := by
  unfold Core.conflictIds Ctx.conflictIds
  unfold Core.ctx at h
  unfold Core.setCtx
  cases hs : c.inSup <;> simp_all

theorem localWait_of (x : Core) (t : Target) (rel write : Bool)
    (h : t.bundled = true → (x.waitIds rel write).isEmpty = true) : localWait (.ok t) x rel write = false := by
  unfold localWait
  simp only
  cases hb : t.bundled
  · rfl
  · simp [h hb]

/-- Changes of one core that commute. -/
theorem State.modCore_comm_of (u : State) (n : Nat) (f g : Core → Core) (h : ∀ c, f (g c) = g (f c)) :
    (u.modCore n f).modCore n g = (u.modCore n g).modCore n f := by
  rw [State.modCore_modCore, State.modCore_modCore]
  congr 1; funext c; exact (h c).symm

/-- The group loads that are awaited do not depend on what a core does beside them. -/
theorem groupConflicts_modCore (u : State) (n : Nat) (f : Core → Core) (h : ∀ c, (f c).prog.vars = c.prog.vars)
    (cells : List RCell) : (u.modCore n f).groupConflicts n cells = u.groupConflicts n cells := by
  unfold State.groupConflicts
  rw [State.core_modCore_same, h]
  rfl

theorem addAccess_tick (st : FMap W64) (u : State) (n : Nat) (x : Core) (k : RKind) (acq rel write reads : Bool)
    (cells : List RCell) (dst : RDst) (pc : W64) (hd : Option Nat) :
    (u.modCore n (tick st)).addAccess n x k acq rel write reads cells dst pc hd =
      (u.addAccess n x k acq rel write reads cells dst pc hd).modCore n (tick st) := by
  unfold State.addAccess
  split
  · rfl
  · rw [groupConflicts_modCore _ _ _ (fun c => by cases hs : c.inSup <;> simp [tick, Core.setCtx, Core.ctx, hs, Ctx.countDown]),
      State.modCore_comm_of]
    intro c
    have h : (tick st c).conflictIds cells = c.conflictIds cells :=
      conflictIds_setCtx _ _ _ (by simp [Ctx.countDown])
    simp only [h]
    simp [tick, Ctx.countDown]

theorem emptyDst_tick (st : FMap W64) (u : State) (n : Nat) (dst : RDst) :
    (u.modCore n (tick st)).modCore n (·.emptyDst dst) = (u.modCore n (·.emptyDst dst)).modCore n (tick st) := by
  rw [State.modCore_comm_of]
  intro c
  cases dst with
  | none => rfl
  | sreg r b sx =>
    simp [Core.emptyDst, tick, Ctx.setEmpty, Ctx.countDown]
    split <;> rfl
  | line sp ad ls b sx z =>
    simp only [Core.emptyDst, tick]
    split
    · simp [Core.setCtx, Core.ctx, Core.inSup]
      split <;> rfl
    · rfl

theorem addAccess_course (u : State) (n : Nat) (x : Core) (k : RKind) (acq rel write reads : Bool) (cells : List RCell)
    (dst : RDst) (pc : W64) (hd : Option Nat) :
    SameCourse (u.core n) ((u.addAccess n x k acq rel write reads cells dst pc hd).core n) := by
  unfold State.addAccess
  split
  · exact SameCourse.refl _
  · rw [State.core_modCore_same]
    refine ⟨by simp, by simp, fun k _ => by simp [Ctx.spec]⟩

theorem emptyDst_course (u : State) (n : Nat) (dst : RDst) :
    SameCourse (u.core n) ((u.modCore n (·.emptyDst dst)).core n) := by
  rw [State.core_modCore_same]
  cases dst with
  | none => exact SameCourse.refl _
  | sreg r b sx =>
    refine ⟨by simp [Core.emptyDst], ?_, fun k _ => ?_⟩ <;> simp [Core.emptyDst, Ctx.setEmpty, Ctx.spec] <;> split <;>
      rfl
  | line sp ad ls b sx z =>
    simp only [Core.emptyDst]
    split
    · exact ⟨rfl, rfl, fun _ _ => rfl⟩
    · exact SameCourse.refl _

theorem SameCourse.trans {a b c : Core} (h : SameCourse a b) (g : SameCourse b c) : SameCourse a c :=
  ⟨g.1.trans h.1, g.2.1.trans h.2.1, fun k hk => (g.2.2 k hk).trans (h.2.2 k hk)⟩

theorem landMany_comm_emptyDst (u : State) (n : Nat) (fl : List Flight) (dst : RDst) :
    (u.landMany n fl).modCore n (·.emptyDst dst) = (u.modCore n (·.emptyDst dst)).landMany n fl := by
  unfold State.landMany State.modCtx
  rw [State.modCore_comm_of]
  intro c
  cases dst with
  | none => rfl
  | sreg r b sx =>
    simp [Core.emptyDst, Ctx.setEmpty]
    split <;> rfl
  | line sp ad ls b sx z =>
    simp only [Core.emptyDst]
    split
    · simp [Core.setCtx, Core.ctx, Core.inSup]
      split <;> rfl
    · rfl

theorem landMany_append (u : State) (n : Nat) (a b : List Flight) : (u.landMany n a).landMany n b = u.landMany n (a ++ b) := by
  unfold State.landMany State.modCtx
  rw [State.modCore_modCore]
  congr 1; funext c
  simp

theorem landMany_comm_addAccess (u : State) (n : Nat) (fl : List Flight) (x : Core) (k : RKind)
    (acq rel write reads : Bool) (cells : List RCell) (dst : RDst) (pc : W64) (hd : Option Nat) :
    (u.landMany n fl).addAccess n x k acq rel write reads cells dst pc hd =
      (u.addAccess n x k acq rel write reads cells dst pc hd).landMany n fl := by
  unfold State.addAccess
  split
  · rfl
  · unfold State.landMany State.modCtx
    rw [groupConflicts_modCore _ _ _ (fun c => by cases hs : c.inSup <;> simp [Core.setCtx, Core.ctx, hs]),
      State.modCore_comm_of]
    intro c
    rw [conflictIds_setCtx _ _ _ (by simp)]
    simp

/-- Counting a push commutes with what a destination that empties does. -/
theorem notePush_eq (v : Env) (spec : BitVec 13) (u : State) : notePush v spec u = pushPorts v.core (pushesOf spec) u := by
  unfold notePush pushesOf
  cases h : specTile spec
  · simp only [Bool.false_eq_true, if_false]
    cases g : specWrite spec <;> rfl
  · rfl

theorem pushPorts_comm_emptyDst (u : State) (n : Nat) (ps : List Nat) (dst : RDst) :
    (pushPorts n ps u).modCore n (·.emptyDst dst) = pushPorts n ps (u.modCore n (·.emptyDst dst)) := by
  induction ps generalizing u with
  | nil => rfl
  | cons p ps ih =>
    unfold pushPorts at ih ⊢
    rw [List.foldl_cons, ih, List.foldl_cons, State.modCore_comm_of]
    intro c
    cases dst with
    | none => rfl
    | sreg r b sx =>
      simp [Core.emptyDst, Core.setCtx, Core.setPort, Core.port, Core.ctx, Core.inSup]
      split <;> rfl
    | line sp ad ls b sx z =>
      cases hst : specTile sp <;> simp [Core.emptyDst, hst, Core.setPort, Core.port]

end Sys2Proof.Machine
end

