-- ==== Sys2Proof/Laws/Branch.lean ====
section
/-! SUPPORT. What the issue of one branch word alone does. -/

namespace Sys2Proof.Machine

open Sys2Proof.Claims

/-- The end of an issue with the branch resolution `xl`, whose link register is `link`. -/
def branchEnd (link : Nat) (next : W64) (xl : Ctx) (st : FMap W64) (c : Core) : Core :=
  let c := c.setCtx { c.ctx.countDown with sticky := st }
  let x := c.ctx
  let c := (c.setCtx { x with s := if link = 0 then x.s else x.s.put link (xl.sreg link),
                              sr := copyLoops xl x.sr }).countIssue
  c.setCtx { c.ctx with pc := next, rep := 0, cur := none }

theorem envs_nil (n : Nat) (s : State) (pc : W64) (p q : List Nat) (l : List HandleUse) : envs n s pc [] p q l = [] := rfl

/-- The issue of a bundle without slot operations, whose branch resolves. -/
theorem issueOps_branch {n : Nat} {b : Bundle} {br : BranchSem} {s0 : State} {v : Env} {xl : Ctx} {next : W64}
    (hv : v = { core := n, slot := 9, word := 0, s := s0.modCore n Core.landDue, pc := (s0.ctx n).pc,
                popped := [], pushed := [] })
    (hfull : (s0.core n).landFull = false) (hb : b.rep = 0) (hr : ∀ r, br.reg = some r → v.x.isEmpty r = false)
    (hres : resolve br v v.pc b.len (lengthAt v.s n) v.x = .ok (xl, next)) :
    issueOps n b [] br s0 =
      v.s.modCore n (fun c => branchEnd br.link next xl (stickyAt b (s0.ctx n).rep c.ctx.sticky) c) := by
  subst hv
  have hr' : br.reg.any (((s0.modCore n Core.landDue).core n).ctx.isEmpty) = false := by
    cases h : br.reg with
    | none => rfl
    | some r => exact hr r h
  unfold issueOps
  rw [if_neg (by simp [hfull])]
  simp only [List.filter_nil, envs_nil, List.any_nil, findEmptyTrap, findCheck, Bool.false_or, Bool.not_false, Bool.and_true,
    hb, Nat.zero_le, decide_true, Bool.true_and, hr', Bool.false_eq_true, and_false, if_false, if_true]
  have : resolve br ⟨n, 9, 0, s0.modCore n Core.landDue, (s0.ctx n).pc, [], [], []⟩ (s0.ctx n).pc b.len
      (lengthAt (s0.modCore n Core.landDue) n) ((s0.modCore n Core.landDue).core n).ctx = .ok (xl, next) := hres
  rw [this]
  simp only [runPhase, popPorts, List.flatMap_nil, List.foldl_nil, State.modCtx, State.modCore_modCore, advancePc, hb,
    Nat.not_lt_zero, if_false]
  rfl

/-- The issue of a bundle without slot operations, whose branch traps. -/
theorem issueOps_branch_trap {n : Nat} {b : Bundle} {br : BranchSem} {s0 : State} {v : Env} {t : Trap}
    (hv : v = { core := n, slot := 9, word := 0, s := s0.modCore n Core.landDue, pc := (s0.ctx n).pc,
                popped := [], pushed := [] })
    (hfull : (s0.core n).landFull = false) (hb : b.rep = 0) (hr : ∀ r, br.reg = some r → v.x.isEmpty r = false)
    (hres : resolve br v v.pc b.len (lengthAt v.s n) v.x = .error t) :
    issueOps n b [] br s0 = v.s.trap n t v.pc (s0.ctx n).rep := by
  subst hv
  have hr' : br.reg.any (((s0.modCore n Core.landDue).core n).ctx.isEmpty) = false := by
    cases h : br.reg with
    | none => rfl
    | some r => exact hr r h
  unfold issueOps
  rw [if_neg (by simp [hfull])]
  simp only [List.filter_nil, envs_nil, List.any_nil, findEmptyTrap, findCheck, Bool.false_or, Bool.not_false, Bool.and_true,
    hb, Nat.zero_le, decide_true, Bool.true_and, hr', Bool.false_eq_true, and_false, if_false, if_true]
  have : resolve br ⟨n, 9, 0, s0.modCore n Core.landDue, (s0.ctx n).pc, [], [], []⟩ (s0.ctx n).pc b.len
      (lengthAt (s0.modCore n Core.landDue) n) ((s0.modCore n Core.landDue).core n).ctx = .error t := hres
  rw [this]

/-- What a branch leaves of the context of its core. -/
def branchCtx (link : Nat) (next : W64) (xl : Ctx) (st : FMap W64) (counts : Nat) (x : Ctx) : Ctx :=
  { x.countDown with
      s := if link = 0 then x.s else x.s.put link (xl.sreg link), sticky := st,
      sr := if counts = 0 then copyLoops xl x.sr
            else (copyLoops xl x.sr).put SR.issues ((copyLoops xl x.sr).look 0 SR.issues + 1),
      pc := next, rep := 0, cur := none }

/-- A branch changes nothing of its core but the context and the count of a handler's issues. -/
theorem branchEnd_frame (link : Nat) (next : W64) (xl : Ctx) (st : FMap W64) (c : Core) :
    let d := branchEnd link next xl st c
    { d with prog := c.prog, sup := c.sup, handlerIssues := c.handlerIssues } = c ∧
    (if c.inSup then d.prog = c.prog else d.sup = c.sup) ∧
    d.ctx = branchCtx link next xl st (if c.inSup then 0 else 1) c.ctx := by
  cases hs : c.inSup
  all_goals
    have hm : (c.mode == CoreMode.supervisor) = c.inSup := rfl
    rw [hs] at hm
    refine ⟨?_, ?_, ?_⟩ <;>
      simp [branchEnd, Core.countIssue, Core.setCtx, Core.ctx, Core.inSup, hm, branchCtx, Ctx.putSpec, Ctx.spec,
        Ctx.countDown]

/-- The registers of a branch's context: as resolved, with the issue counted. -/
theorem branchCtx_spec (link : Nat) (next : W64) (xl : Ctx) (st : FMap W64) (counts : Nat) (hc : counts ≤ 1) (x : Ctx)
    (hx : ∀ k, k ∉ loopStackRegs → xl.spec k = x.spec k) (k : Nat) :
    (branchCtx link next xl st counts x).spec k = xl.spec k + if k = SR.issues then BitVec.ofNat 64 counts else 0 := by
  have h := copyLoops_agree xl x.sr (fun k hk => (hx k hk).symm)
  have h1 : (branchCtx link next xl st counts x).sr = if counts = 0 then copyLoops xl x.sr
    else (copyLoops xl x.sr).put SR.issues ((copyLoops xl x.sr).look 0 SR.issues + 1) := rfl
  rw [Ctx.spec, h1]
  rcases Nat.le_one_iff_eq_zero_or_eq_one.1 hc with e | e
  · rw [if_pos e, h, e]; split <;> simp
  · rw [if_neg (by omega), FMap.look_put, h, h, e]
    by_cases hk : k = SR.issues
    · rw [if_pos hk, if_pos hk, hk]; rfl
    · rw [if_neg hk, if_neg hk]; simp

end Sys2Proof.Machine
end

