-- ==== Sys2Proof/Laws/Lines.lean ====
section
/-! SUPPORT. Lines as lists of elements: every list that an operation makes of a line is a map over the numbers of its
elements. -/

namespace Sys2Proof.Machine

theorem splitBits_eq (w n x : Nat) : splitBits w n x = (List.range n).map (fun j => x >>> (w * j) % 2 ^ w) := by
  induction n generalizing x with
  | zero => rfl
  | succ n ih =>
    rw [splitBits, ih, List.range_succ_eq_map, List.map_cons, List.map_map]
    simp only [Nat.mul_zero, Nat.shiftRight_zero]
    congr 1
    apply List.map_congr_left
    intro j _
    rw [Function.comp, ← Nat.shiftRight_add, Nat.mul_succ, Nat.add_comm]

/-- The elements of a line. -/
theorem lineElems_eq (w : Nat) (l : Line) : lineElems w l = (List.range (4096 / w)).map (lineElem w l) :=
  splitBits_eq _ _ _

theorem zipIdx_map_range {α : Type} (n : Nat) (f : Nat → α) :
    ((List.range n).map f).zipIdx = (List.range n).map (fun j => (f j, j)) := by
  apply List.ext_getElem
  · simp
  · intro i h1 h2; simp

theorem zip_map_range {α β : Type} (n : Nat) (f : Nat → α) (g : Nat → β) :
    ((List.range n).map f).zip ((List.range n).map g) = (List.range n).map (fun j => (f j, g j)) := List.zip_map' ..

/-- The active elements of a mask. -/
theorem maskBits_eq (m : Mask) (w : Nat) :
    maskBits m w = (List.range (4096 / w)).map (fun j => m.getLsbD (j * w / 8)) := rfl

theorem replicate_eq_map_range {α : Type} (n : Nat) (x : α) : List.replicate n x = (List.range n).map (fun _ => x) := by
  simp

end Sys2Proof.Machine
end

