-- ==== Sys2Proof/Laws/Memory.lean ====
section
/-! SUPPORT. Memory: reads after writes, and that every operation keeps the canonical form. -/

namespace Sys2Proof.Machine

/-- The first key of a list, if any, lies above `b`. -/
theorem memWf_cons {a : Nat} {v : Byte} {m : List Host.Cell} :
    memWf ((a, v) :: m) = true ↔ v ≠ unlisted ∧ (∀ c ∈ m.head?, a < c.1) ∧ memWf m = true := by
  cases m with
  | nil => simp [memWf]
  | cons c m => obtain ⟨b, w⟩ := c; simp [memWf, and_assoc]

theorem memWf_tail {c : Host.Cell} {m : List Host.Cell} (h : memWf (c :: m) = true) : memWf m = true := by
  obtain ⟨a, v⟩ := c; exact (memWf_cons.1 h).2.2

/-- In a canonical list every key after the first lies above it. -/
theorem memWf_above {a : Nat} {v : Byte} {m : List Host.Cell} (h : memWf ((a, v) :: m) = true) :
    ∀ c ∈ m, a < c.1 := by
  induction m generalizing a v with
  | nil => simp
  | cons d m ih =>
    obtain ⟨b, w⟩ := d
    have h1 := memWf_cons.1 h
    have hb : a < b := h1.2.1 (b, w) (by simp)
    intro c hc
    rcases List.mem_cons.1 hc with rfl | hc
    · exact hb
    · exact lt_trans hb (ih h1.2.2 c hc)

theorem memWf_filter {m : List Host.Cell} (p : Host.Cell → Bool) (h : memWf m = true) : memWf (m.filter p) = true := by
  induction m with
  | nil => rfl
  | cons c m ih =>
    obtain ⟨a, v⟩ := c
    have ht := ih (memWf_tail h)
    simp only [List.filter_cons]
    split
    · refine memWf_cons.2 ⟨(memWf_cons.1 h).1, ?_, ht⟩
      intro d hd
      exact memWf_above h d (List.mem_of_mem_filter (List.mem_of_mem_head? hd))
    · exact ht

theorem memSet_head {m : List Host.Cell} {k : Nat} {v : Byte} {b : Nat} (hk : b < k) (hm : ∀ c ∈ m.head?, b < c.1)
    (hw : memWf m = true) : ∀ c ∈ (memSet m k v).head?, b < c.1 := by
  cases m with
  | nil => simp only [memSet]; split <;> simp_all
  | cons d m =>
    obtain ⟨a, w⟩ := d
    have ha : b < a := hm (a, w) (by simp)
    simp only [memSet]
    split_ifs
    · simpa using ha
    · simpa using hk
    · intro c hc
      exact lt_trans ha (memWf_above hw c (List.mem_of_mem_head? hc))
    · simpa using hk
    · simpa using ha

/-- Writing one byte keeps the canonical form. -/
theorem memSet_wf {m : List Host.Cell} (k : Nat) (v : Byte) (h : memWf m = true) : memWf (memSet m k v) = true := by
  induction m with
  | nil => simp only [memSet]; split <;> simp_all [memWf]
  | cons c m ih =>
    obtain ⟨a, w⟩ := c
    have hc := memWf_cons.1 h
    simp only [memSet]
    split_ifs with h1 h2 h3 h4
    · exact h
    · exact memWf_cons.2 ⟨h2, by simpa using h1, h⟩
    · exact hc.2.2
    · subst h3; exact memWf_cons.2 ⟨h4, hc.2.1, hc.2.2⟩
    · exact memWf_cons.2 ⟨hc.1, memSet_head (by omega) hc.2.1 hc.2.2, ih hc.2.2⟩

/-- Writing a number of bytes keeps the canonical form. -/
theorem memWrite_wf {m : List Host.Cell} (k n v en : Nat) (h : memWf m = true) :
    memWf (memWrite m k n v en) = true := by
  induction n generalizing m k v en with
  | zero => exact h
  | succ n ih =>
    simp only [memWrite]
    apply ih
    split
    · exact memSet_wf _ _ h
    · exact h

theorem State.write_wf {s : State} (k n v : Nat) (h : memWf s.mem = true) : memWf (s.write k n v).mem = true :=
  memWrite_wf _ _ _ _ h

theorem State.writeEn_wf {s : State} (k n v en : Nat) (h : memWf s.mem = true) :
    memWf (s.writeEn k n v en).mem = true := memWrite_wf _ _ _ _ h

theorem memClear_wf {m : List Host.Cell} (k n : Nat) (h : memWf m = true) : memWf (memClear m k n) = true :=
  memWf_filter _ h

/-! ## One byte -/

theorem memByte_of_lt {m : List Host.Cell} {k : Nat} (h : ∀ c ∈ m, k < c.1) : memByte m k = unlisted := by
  cases m with
  | nil => rfl
  | cons c m =>
    obtain ⟨a, v⟩ := c
    have := h (a, v) (by simp)
    simp only at this
    simp only [memByte]
    split_ifs <;> first | rfl | omega

/-- The byte written reads back. -/
theorem memByte_memSet_same {m : List Host.Cell} (k : Nat) (v : Byte) (h : memWf m = true) :
    memByte (memSet m k v) k = v := by
  induction m with
  | nil =>
    simp only [memSet]; split
    · next e => simp [memByte, e]
    · simp [memByte]
  | cons c m ih =>
    obtain ⟨a, w⟩ := c
    simp only [memSet]
    split_ifs with h1 h2 h3 h4
    · have : a ≠ k := by omega
      simp [memByte, h1, this, h2]
    · simp [memByte]
    · subst h3; rw [h4]; exact memByte_of_lt (memWf_above h)
    · simp [memByte]
    · simp only [memByte, h1, h3, if_false]; exact ih (memWf_tail h)

/-- Every other byte reads as before. -/
theorem memByte_memSet_ne {m : List Host.Cell} (k : Nat) (v : Byte) (j : Nat) (hj : j ≠ k) (h : memWf m = true) :
    memByte (memSet m k v) j = memByte m j := by
  induction m with
  | nil =>
    simp only [memSet]; split
    · rfl
    · simp only [memByte]; split_ifs <;> first | rfl | omega
  | cons c m ih =>
    obtain ⟨a, w⟩ := c
    simp only [memSet]
    split_ifs with h1 h2 h3 h4
    · rfl
    · simp only [memByte]; split_ifs <;> first | rfl | omega
    · subst h3
      simp only [memByte]
      split_ifs with h5 h6
      · omega
      · exact memByte_of_lt (fun c hc => lt_trans h6 (memWf_above h c hc))
      · rfl
    · subst h3; simp only [memByte]; split_ifs <;> first | rfl | omega
    · simp only [memByte, ih (memWf_tail h)]

/-- The byte at `j` after a write of `n` bytes under enables: the enabled byte of the value inside, as before outside. -/
theorem memByte_memWrite {m : List Host.Cell} (k n v en j : Nat) (h : memWf m = true) :
    memByte (memWrite m k n v en) j =
      if k ≤ j ∧ j < k + n ∧ en.testBit (j - k) then BitVec.ofNat 8 (v >>> (8 * (j - k))) else memByte m j := by
  induction n generalizing m k v en with
  | zero => rw [if_neg (by omega)]; rfl
  | succ n ih =>
    have hw : memWf (if en % 2 = 1 then memSet m k (BitVec.ofNat 8 v) else m) = true := by
      split
      · exact memSet_wf _ _ h
      · exact h
    simp only [memWrite]
    rw [ih _ _ _ hw]
    rcases Nat.lt_trichotomy j k with hj | hj | hj
    · have e : memByte (if en % 2 = 1 then memSet m k (BitVec.ofNat 8 v) else m) j = memByte m j := by
        split
        · exact memByte_memSet_ne _ _ _ (by omega) h
        · rfl
      rw [e, if_neg (fun c => absurd c.1 (by omega)), if_neg (fun c => absurd c.1 (by omega))]
    · subst hj
      rw [if_neg (fun c => absurd c.1 (by omega))]
      simp only [Nat.sub_self, Nat.testBit_zero, Nat.mul_zero, Nat.shiftRight_zero]
      by_cases he : en % 2 = 1
      · simp [he, memByte_memSet_same _ _ h]
      · simp [he]
    · obtain ⟨d, rfl⟩ : ∃ d, j = k + 1 + d := ⟨j - k - 1, by omega⟩
      have e1 : k + 1 + d - (k + 1) = d := by omega
      have e2 : k + 1 + d - k = d + 1 := by omega
      have e3 : v >>> (8 * (d + 1)) = (v / 256) >>> (8 * d) := by
        rw [show 8 * (d + 1) = 8 + 8 * d by omega, Nat.shiftRight_add, Nat.shiftRight_eq_div_pow v 8]
      rw [e1, e2, Nat.testBit_succ, e3]
      have e4 : memByte (if en % 2 = 1 then memSet m k (BitVec.ofNat 8 v) else m) (k + 1 + d) =
          memByte m (k + 1 + d) := by
        split
        · exact memByte_memSet_ne _ _ _ (by omega) h
        · rfl
      rw [e4]
      congr 1
      simp only [eq_iff_iff]
      constructor <;> rintro ⟨h1, h2, h3⟩ <;> exact ⟨by omega, by omega, h3⟩

/-- A byte outside what a write stores to reads as before. -/
theorem State.write_frame {s : State} (k n v j : Nat) (h : memWf s.mem = true) (hj : j < k ∨ k + n ≤ j) :
    memByte (s.write k n v).mem j = memByte s.mem j := by
  rw [State.write, memByte_memWrite _ _ _ _ _ h, if_neg]; omega

/-- A byte that a write stores to. -/
theorem State.write_byte {s : State} (k n v j : Nat) (h : memWf s.mem = true) (h1 : k ≤ j) (h2 : j < k + n) :
    memByte (s.write k n v).mem j = BitVec.ofNat 8 (v >>> (8 * (j - k))) := by
  rw [State.write, memByte_memWrite _ _ _ _ _ h, if_pos]
  refine ⟨h1, h2, ?_⟩
  rw [allBytes, Nat.testBit_two_pow_sub_one]
  simp; omega

/-! ## Several bytes -/

theorem memRead_acc (m : List Host.Cell) (k n a : Nat) :
    m.foldl (fun acc c => if k ≤ c.1 ∧ c.1 < k + n then acc + c.2.toNat <<< (8 * (c.1 - k)) else acc) a =
      a + memRead m k n := by
  induction m generalizing a with
  | nil => simp [memRead]
  | cons c m ih =>
    simp only [memRead, List.foldl_cons]
    rw [ih, ih (a := if k ≤ c.1 ∧ c.1 < k + n then 0 + c.2.toNat <<< (8 * (c.1 - k)) else 0)]
    split <;> omega

theorem memRead_cons (a : Nat) (v : Byte) (m : List Host.Cell) (k n : Nat) :
    memRead ((a, v) :: m) k n =
      (if k ≤ a ∧ a < k + n then v.toNat <<< (8 * (a - k)) else 0) + memRead m k n := by
  rw [memRead, List.foldl_cons, memRead_acc]
  simp

theorem memRead_above {m : List Host.Cell} {k n : Nat} (h : ∀ c ∈ m, k + n ≤ c.1) : memRead m k n = 0 := by
  induction m with
  | nil => rfl
  | cons c m ih =>
    obtain ⟨a, v⟩ := c
    have ha : k + n ≤ a := h (a, v) (by simp)
    rw [memRead_cons, if_neg (by omega), ih (fun d hd => h d (by simp [hd]))]

/-- Reading `n + 1` bytes: the byte at the key, then the bytes above it. -/
theorem memRead_succ {m : List Host.Cell} (k n : Nat) (h : memWf m = true) :
    memRead m k (n + 1) = (memByte m k).toNat + 256 * memRead m (k + 1) n := by
  induction m with
  | nil => simp [memRead, memByte, unlisted]
  | cons c m ih =>
    obtain ⟨a, v⟩ := c
    have hm := memWf_above h
    rw [memRead_cons, memRead_cons]
    rcases Nat.lt_trichotomy a k with ha | ha | ha
    · rw [if_neg (by omega), if_neg (by omega), ih (memWf_tail h)]
      have h1 : a ≠ k := by omega
      have h2 : ¬ k < a := by omega
      simp [memByte, h1, h2]
    · subst ha
      rw [if_pos (by omega), if_neg (by omega), ih (memWf_tail h), memByte_of_lt hm]
      simp [memByte, unlisted]
    · have h1 : a ≠ k := by omega
      rw [ih (memWf_tail h), memByte_of_lt (fun c hc => lt_trans ha (hm c hc))]
      simp only [memByte, h1, ha, if_false, if_true, unlisted]
      by_cases hb : a < k + 1 + n
      · rw [if_pos (by omega), if_pos (by omega)]
        obtain ⟨d, rfl⟩ : ∃ d, a = k + 1 + d := ⟨a - k - 1, by omega⟩
        have e1 : k + 1 + d - k = d + 1 := by omega
        have e2 : k + 1 + d - (k + 1) = d := by omega
        rw [e1, e2, Nat.shiftLeft_eq, Nat.shiftLeft_eq, show 8 * (d + 1) = 8 * d + 8 by omega, Nat.pow_add]
        norm_num
        ring
      · rw [if_neg (by omega), if_neg (by omega)]
        simp

/-- A read is what its bytes say: equal bytes give equal reads. -/
theorem memRead_congr {m m' : List Host.Cell} (k n : Nat) (h : memWf m = true) (h' : memWf m' = true)
    (e : ∀ j, k ≤ j → j < k + n → memByte m j = memByte m' j) : memRead m k n = memRead m' k n := by
  induction n generalizing k with
  | zero =>
    have z : ∀ l : List Host.Cell, memRead l k 0 = 0 := by
      intro l
      induction l with
      | nil => rfl
      | cons c l ih => obtain ⟨a, v⟩ := c; rw [memRead_cons, ih, if_neg (by omega)]
    rw [z, z]
  | succ n ih =>
    rw [memRead_succ _ _ h, memRead_succ _ _ h', e k (le_refl k) (by omega),
      ih (k + 1) (fun j h1 h2 => e j (by omega) (by omega))]

end Sys2Proof.Machine
end

