-- ==== Sys2Proof/Laws/Package.lean ====
section
/-! SUPPORT. The named updates of the package's own parts: what is read after each, at the place written and elsewhere, and
that nothing else changes. -/

namespace Sys2Proof.Machine

@[simp] theorem State.queue_setQueue_same (s : State) (q : Nat) (v : Queue) : (s.setQueue q v).queue (q) = v :=
  FMap.look_put_same ..
theorem State.queue_setQueue_ne (s : State) (q : Nat) (v : Queue) (j : Nat) (h : j ≠ q) :
    (s.setQueue q v).queue j = s.queue j := FMap.look_put_ne _ _ _ _ _ h
theorem State.setQueue_frame (s : State) (q : Nat) (v : Queue) : { s.setQueue q v with sched := s.sched } = s := rfl
@[simp] theorem State.core_setQueue (s : State) (q : Nat) (v : Queue) (n : Nat) : (s.setQueue q v).core n = s.core n := rfl
@[simp] theorem State.setQueue_mem (s : State) (q : Nat) (v : Queue) : (s.setQueue q v).mem = s.mem := rfl

@[simp] theorem State.board_setBoard_same (s : State) (b : Nat) (v : Board) : (s.setBoard b v).board (b) = v :=
  FMap.look_put_same ..
theorem State.board_setBoard_ne (s : State) (b : Nat) (v : Board) (j : Nat) (h : j ≠ b) :
    (s.setBoard b v).board j = s.board j := FMap.look_put_ne _ _ _ _ _ h
theorem State.setBoard_frame (s : State) (b : Nat) (v : Board) : { s.setBoard b v with coll := s.coll } = s := rfl
@[simp] theorem State.core_setBoard (s : State) (b : Nat) (v : Board) (n : Nat) : (s.setBoard b v).core n = s.core n := rfl
@[simp] theorem State.setBoard_mem (s : State) (b : Nat) (v : Board) : (s.setBoard b v).mem = s.mem := rfl

@[simp] theorem State.pset_setPset_same (s : State) (i : Nat) (v : ParitySet) : (s.setPset i v).pset (i) = v :=
  FMap.look_put_same ..
theorem State.pset_setPset_ne (s : State) (i : Nat) (v : ParitySet) (j : Nat) (h : j ≠ i) :
    (s.setPset i v).pset j = s.pset j := FMap.look_put_ne _ _ _ _ _ h
theorem State.setPset_frame (s : State) (i : Nat) (v : ParitySet) : { s.setPset i v with dm := s.dm } = s := rfl
@[simp] theorem State.core_setPset (s : State) (i : Nat) (v : ParitySet) (n : Nat) : (s.setPset i v).core n = s.core n := rfl
@[simp] theorem State.setPset_mem (s : State) (i : Nat) (v : ParitySet) : (s.setPset i v).mem = s.mem := rfl

@[simp] theorem State.link_setLink_same (s : State) (p : Nat) (v : Link) : (s.setLink p v).link (p) = v :=
  FMap.look_put_same ..
theorem State.link_setLink_ne (s : State) (p : Nat) (v : Link) (j : Nat) (h : j ≠ p) :
    (s.setLink p v).link j = s.link j := FMap.look_put_ne _ _ _ _ _ h
theorem State.setLink_frame (s : State) (p : Nat) (v : Link) : { s.setLink p v with coll := s.coll } = s := rfl
@[simp] theorem State.core_setLink (s : State) (p : Nat) (v : Link) (n : Nat) : (s.setLink p v).core n = s.core n := rfl
@[simp] theorem State.setLink_mem (s : State) (p : Nat) (v : Link) : (s.setLink p v).mem = s.mem := rfl

@[simp] theorem State.noticeTable_setTable_same (s : State) (p : Nat) (v : List Notice) : (s.setTable p v).noticeTable (p) = v :=
  FMap.look_put_same ..
theorem State.noticeTable_setTable_ne (s : State) (p : Nat) (v : List Notice) (j : Nat) (h : j ≠ p) :
    (s.setTable p v).noticeTable j = s.noticeTable j := FMap.look_put_ne _ _ _ _ _ h
theorem State.setTable_frame (s : State) (p : Nat) (v : List Notice) : { s.setTable p v with coll := s.coll } = s := rfl
@[simp] theorem State.core_setTable (s : State) (p : Nat) (v : List Notice) (n : Nat) : (s.setTable p v).core n = s.core n := rfl
@[simp] theorem State.setTable_mem (s : State) (p : Nat) (v : List Notice) : (s.setTable p v).mem = s.mem := rfl

@[simp] theorem State.launch_setLaunch_same (s : State) (v : Launch) : (s.setLaunch v).launch (v.id) = some v :=
  FMap.find_put_same ..
theorem State.launch_setLaunch_ne (s : State) (v : Launch) (j : Nat) (h : j ≠ v.id) :
    (s.setLaunch v).launch j = s.launch j := FMap.find_put_ne _ _ _ _ h
theorem State.setLaunch_frame (s : State) (v : Launch) : { s.setLaunch v with sched := s.sched } = s := rfl
@[simp] theorem State.core_setLaunch (s : State) (v : Launch) (n : Nat) : (s.setLaunch v).core n = s.core n := rfl
@[simp] theorem State.setLaunch_mem (s : State) (v : Launch) : (s.setLaunch v).mem = s.mem := rfl

@[simp] theorem State.run_setRun_same (s : State) (v : Run) : (s.setRun v).run (v.id) = some v :=
  FMap.find_put_same ..
theorem State.run_setRun_ne (s : State) (v : Run) (j : Nat) (h : j ≠ v.id) :
    (s.setRun v).run j = s.run j := FMap.find_put_ne _ _ _ _ h
theorem State.setRun_frame (s : State) (v : Run) : { s.setRun v with coll := s.coll } = s := rfl
@[simp] theorem State.core_setRun (s : State) (v : Run) (n : Nat) : (s.setRun v).core n = s.core n := rfl
@[simp] theorem State.setRun_mem (s : State) (v : Run) : (s.setRun v).mem = s.mem := rfl

@[simp] theorem State.send_out (s : State) (m : Msg) : (s.send m).out = s.out ++ [m] := rfl
theorem State.send_frame (s : State) (m : Msg) : { s.send m with out := s.out } = s := rfl
@[simp] theorem State.core_send (s : State) (m : Msg) (n : Nat) : (s.send m).core n = s.core n := rfl
@[simp] theorem State.send_mem (s : State) (m : Msg) : (s.send m).mem = s.mem := rfl

end Sys2Proof.Machine
end

