-- ==== Sys2Proof/Laws/Stops.lean ====
section
/-! SUPPORT. What keeps one operation alone from issuing: the trap of a check that fails, a wait or an operand that is not
ready, flags that a delivery point traps for. -/

namespace Sys2Proof.Machine

open Sys2Proof.Claims

/-- The issue of an operation alone, before any of its tests. -/
theorem issueOps_tests {n : Nat} {b : Bundle} {a : Active} {s0 : State} {v : Env}
    (hv : v = { core := n, slot := a.slot.val, word := a.word, s := s0.modCore n Core.landDue, pc := (s0.ctx n).pc,
                popped := [], pushed := [] })
    (hfull : (s0.core n).landFull = false) (hg : guardTrue v.x a.word = true) :
    (a.sem.delivery = true → v.x.spec SR.fpflags &&& v.x.spec SR.fpenable ≠ 0 →
      issueOps n b [a] noBranch s0 =
        v.s.trap n ⟨3, 0, false, v.x.spec SR.fpflags &&& v.x.spec SR.fpenable⟩ v.pc (s0.ctx n).rep) ∧
    ((a.sem.delivery = true → v.x.spec SR.fpflags &&& v.x.spec SR.fpenable = 0) → findEmptyTrap [(a, v)] = none →
      (opStalls a v = true → issueOps n b [a] noBranch s0 = s0.modCore n Core.landClears) ∧
      (opStalls a v = false → ∀ t, findCheck [(a, v)] = some t →
        issueOps n b [a] noBranch s0 = v.s.trap n t v.pc (s0.ctx n).rep)) := by
  have hx : v.x = ((s0.modCore n Core.landDue).core n).ctx := by rw [hv]; rfl
  have h1 : v.pc = (s0.ctx n).pc := by rw [hv]
  have h2 : v.s = s0.modCore n Core.landDue := by rw [hv]
  have hr : noBranch.reg = none := rfl
  rw [hx] at hg
  unfold issueOps
  rw [if_neg (by simp [hfull])]
  simp only [List.filter_cons, List.filter_nil, hg, if_true, envs]
  rw [← hv, hx, h1, h2]
  simp only [List.any_cons, List.any_nil, Bool.or_false, hr, Option.any_none, Bool.and_false]
  refine ⟨fun hd hf => by rw [if_pos ⟨hf, hd⟩], fun hd he => ⟨fun hs => ?_, fun hs t hc => ?_⟩⟩ <;>
    rw [if_neg (by rintro ⟨p, q⟩; exact p (hd q))]
  · simp only [he, hs, if_true]
  · simp only [he, hs, hc, Bool.false_eq_true, if_false]

/-- The tests of R189 as the issue of one operation makes them. -/
theorem solo_stops {i : Instr} {h : Hdr} {s : State} {sem : OpSem} (hcan : CanIssue i h s)
    (hx : exec i s = issueSlot h i sem s) :
    let v := seen i h s
    let a : Active := ⟨h.slot, encodeWord i, sem⟩
    (sem.delivery = true → v.x.spec SR.fpflags &&& v.x.spec SR.fpenable ≠ 0 → exec i s = .next ((begun i s).trap s.turn
      ⟨3, 0, false, v.x.spec SR.fpflags &&& v.x.spec SR.fpenable⟩ (s.ctx s.turn).pc (s.ctx s.turn).rep)) ∧
    ((sem.delivery = true → v.x.spec SR.fpflags &&& v.x.spec SR.fpenable = 0) → findEmptyTrap [(a, v)] = none →
      (opStalls a v = true → exec i s =
        .next ((s.modCtx s.turn (fun x => { x with cur := some (soloBundle i) })).modCore s.turn Core.landClears)) ∧
      (opStalls a v = false → ∀ t, findCheck [(a, v)] = some t →
        exec i s = .next ((begun i s).trap s.turn t (s.ctx s.turn).pc (s.ctx s.turn).rep))) := by
  obtain ⟨hrun, hfull, -, hi, hg⟩ := hcan
  have := issueOps_tests (n := s.turn) (b := soloBundle i) (a := ⟨h.slot, encodeWord i, sem⟩) (v := seen i h s)
    (s0 := s.modCtx s.turn (fun x => { x with cur := some (soloBundle i) })) (by simp [seen, begun, State.ctx])
    (by rw [landFull_under_way, hfull]) (by
      rw [guardTrue_encode i h hi]
      show (((begun i s).ctx s.turn).pred h.pred.toNat != h.neg) = true
      rw [hg]; cases h.neg <;> rfl)
  have hc : ((s.modCtx s.turn (fun x => { x with cur := some (soloBundle i) })).ctx s.turn).rep = (s.ctx s.turn).rep := by
    simp [State.ctx]
  rw [hc] at this
  have hp : (seen i h s).pc = (s.ctx s.turn).pc := rfl
  rw [hp] at this
  have hs : (seen i h s).s = begun i s := rfl
  rw [hs] at this
  rw [hx, issueSlot, issueBundle, if_pos hrun]
  obtain ⟨t1, t2⟩ := this
  refine ⟨fun a b => by rw [t1 a b], fun a b => ⟨fun c => by rw [(t2 a b).1 c], fun c t d => by rw [(t2 a b).2 c t d]⟩⟩

/-- An operation that is not privileged in its mode, whose operands are ready and which need not wait, takes the trap of its
failing check. -/
theorem traps_of {i : Instr} {h : Hdr} {s : State} {sem : OpSem} {t : Trap} (hcan : CanIssue i h s)
    (hx : exec i s = issueSlot h i sem s)
    (hdel : sem.delivery = true → (seen i h s).x.spec SR.fpflags &&& (seen i h s).x.spec SR.fpenable = 0)
    (hempty : ∀ fe, firstEmpty (seen i h s).c fe [] 0 sem.srcs = none)
    (hdst : ∀ d ∈ sem.dsts, dstEmpty (seen i h s).c d = false)
    (hpush : ∀ p ∈ sem.pushes, pushFault (seen i h s).c [] p = none → pushFull (seen i h s).c [] p = false)
    (hw : sem.wait (seen i h s) = false) (hp : slotPrivilege (seen i h s).c h.slot (encodeWord i) = none)
    (hk : opCheck ⟨h.slot, encodeWord i, sem⟩ (seen i h s) = some t) :
    exec i s = .next ((begun i s).trap s.turn t (s.ctx s.turn).pc (s.ctx s.turn).rep) := by
  have e : (seen i h s).popped = [] := rfl
  have e' : (seen i h s).pushed = [] := rfl
  refine ((solo_stops hcan hx).2 hdel ?_).2 ?_ t ?_
  · simp only [findEmptyTrap, e, hempty]
  · simp only [opStalls, e, e', hempty, hw, Bool.or_false, Option.isSome_none, Bool.false_or,
      Bool.or_eq_false_iff, List.any_eq_false]
    refine ⟨fun d hd => by rw [hdst d hd]; decide, fun p hp => ?_⟩
    by_cases hf : pushFault (seen i h s).c [] p = none
    · rw [hpush p hp hf]; simp
    · cases hg : pushFault (seen i h s).c [] p with
      | none => exact absurd hg hf
      | some => simp
  · simp only [findCheck, hp, hk]

/-- An operation whose sources are ready and whose wait is not met stalls. -/
theorem stalls_of {i : Instr} {h : Hdr} {s : State} {sem : OpSem} (hcan : CanIssue i h s)
    (hx : exec i s = issueSlot h i sem s)
    (hdel : sem.delivery = true → (seen i h s).x.spec SR.fpflags &&& (seen i h s).x.spec SR.fpenable = 0)
    (hsrc : SrcsReady (seen i h s).c [] sem.srcs) (hw : sem.wait (seen i h s) = true) :
    exec i s =
      .next ((s.modCtx s.turn (fun x => { x with cur := some (soloBundle i) })).modCore s.turn Core.landClears) := by
  have e : (seen i h s).popped = [] := rfl
  refine ((solo_stops hcan hx).2 hdel ?_).1 ?_
  · simp only [findEmptyTrap, e, firstEmpty_ready _ _ _ _ _ hsrc]
  · simp only [opStalls, hw, Bool.or_true]

end Sys2Proof.Machine
end

