-- ==== Sys2Proof/Tests/Slice0.lean ====
section
/-! SUPPORT. Tests: ill-formed terms that the checks refuse; words written out from the encodings of the spec that decode to
their instructions; values that the spec prints; and for every statement for the provers states and operands that meet what
it presumes. -/

namespace Sys2Proof.Tests

set_option Elab.async false

open Sys2Proof.Machine Sys2Proof.Claims

/-! ## States and checks for the tests -/

/-- Core 0 is `c`. -/
def at0 (c : Core) : State := { State.reset with cores := [(0, c)] }

/-- A core in program mode. -/
def prog : Core := { Core.start with mode := .program }
/-- A core in supervisor mode. -/
def sup : Core := { Core.start with mode := .supervisor }

/-- Slots 0, 2, 4, 6, 7 and 8, guarded by p0. -/
def hS : Hdr := ⟨0, false, 0⟩
def hL : Hdr := ⟨2, false, 0⟩
def hV : Hdr := ⟨4, false, 0⟩
def hX : Hdr := ⟨6, false, 0⟩
def hM : Hdr := ⟨7, false, 0⟩
def hC : Hdr := ⟨8, false, 0⟩

theorem wellFormed_sound {i : Instr} (h : wellFormed i = true) : WellFormed i := by
  unfold wellFormed at h
  unfold WellFormed
  split <;> simp_all

/-- What SrcsReady says, as a check. -/
def srcsB (c : Core) : List Nat → List SrcRef → Bool
  | _, [] => true
  | popped, r :: rs =>
    !srcEmpty c popped r &&
    (match r.readPort with
      | some p => (c.port p).conf && decide ((popped.filter (· == p)).length < (c.port p).queue.length)
      | none => true) && srcsB c (popped ++ popsOf [r]) rs

theorem srcsB_sound (c : Core) (rs : List SrcRef) : ∀ popped, srcsB c popped rs = true → SrcsReady c popped rs := by
  induction rs with
  | nil => intro _ _; trivial
  | cons r rs ih =>
    intro popped h
    simp only [srcsB, Bool.and_eq_true, Bool.not_eq_true'] at h
    refine ⟨h.1.1, fun p hp => ?_, ih _ h.2⟩
    have := h.1.2
    rw [hp] at this
    simpa using this

/-- The core issues, and the operation's guard is true. -/
def issuesB (i : Instr) (h : Hdr) (s : State) : Bool :=
  (s.core s.turn).runs && !(s.core s.turn).landFull && wellFormed i && (hdrOfInstr i == some h) && (((begun i s).ctx s.turn).pred h.pred.toNat == !h.neg)

theorem issuesB_sound {i : Instr} {h : Hdr} {s : State} (k : issuesB i h s = true) : CanIssue i h s := by
  simp only [issuesB, Bool.and_eq_true, Bool.not_eq_true', beq_iff_eq] at k
  exact ⟨k.1.1.1.1, k.1.1.1.2, wellFormed_sound k.1.1.2, k.1.2, k.2⟩

/-- The mode has the operation, sources and destinations are ready, and no rounding waits. -/
def readyB (i : Instr) (h : Hdr) (s : State) (e : Effect) : Bool :=
  (!(s.core s.turn).inSup || decide (h.slot.val < 4) || decide (h.slot.val = 8) ||
    decide ((encodeWord i).toNat >>> 57 = 0)) &&
  srcsB (seen i h s).c [] e.srcs && e.dsts.all (fun d => !dstEmpty (seen i h s).c d) &&
  e.pushes.all (fun p => (pushFault (seen i h s).c [] p).isNone && !pushFull (seen i h s).c [] p) &&
  !(seen i h s).x.srStall e.mode

/-- Instruction and state meet what `Completes T` presumes. -/
def Meets (T : Env → Instr → Option Effect) (s : State) (i : Instr) : Prop :=
  ∃ h e, CanIssue i h s ∧ ModeHas i h s ∧ T (seen i h s) i = some e ∧ SrcsReady (seen i h s).c [] e.srcs ∧
    DstsReady (seen i h s).c e.dsts e.pushes ∧ (seen i h s).x.srStall e.mode = false ∧ e.ready

theorem meets_of {T : Env → Instr → Option Effect} {s : State} {i : Instr} (h : Hdr) {e : Effect}
    (te : T (seen i h s) i = some e) (r : e.ready) (a : issuesB i h s = true) (b : readyB i h s e = true) :
    Meets T s i := by
  simp only [readyB, Bool.and_eq_true, Bool.not_eq_true', List.all_eq_true, Option.isNone_iff_eq_none, Bool.or_eq_true,
    decide_eq_true_eq] at b
  obtain ⟨⟨⟨⟨b1, b2⟩, b3⟩, b4⟩, b5⟩ := b
  refine ⟨h, e, issuesB_sound a, fun k => ?_, te, srcsB_sound _ _ _ b2, ⟨b3, b4⟩, b5, r⟩
  rw [k] at b1
  simpa [or_assoc] using b1

/-- What holds of each of a list. -/
def Each (P : Instr → Prop) : List Instr → Prop
  | [] => True
  | i :: is => P i ∧ Each P is

/-- A core in program mode whose scalar registers hold `s`. -/
def progWith (s : FMap W64) : Core := { prog with prog := { Ctx.start with s := s } }
/-- s2 is 8 and s3 is 1. -/
def based : Core := progWith [(2, 8), (3, 1)]
/-- s2 is the lowest address of the scratchpad of the die. -/
def far : Core := progWith [(2, 0x0200000000000000)]
/-- Bit 508 of k7 is set: of 32-bit lanes, lane 127 alone is active. -/
def lane127 : Core := { prog with k := [(7, BitVec.ofNat 512 (2 ^ 508))] }
/-- Group 0 has cores 0 and 1 as members and a size of 4096 bytes; `c` is core 0. -/
def inGroup (c : Core) : State :=
  { at0 c with groups := [(0, { entry := BitVec.ofNat 1280 (3 + 4096 * 2 ^ 1088), launch := 0, arrivals := [], degraded := 0, left := [], absent := [] })] }
/-- A write of the host to the memory of a state, for the records below. -/
def written (s : State) (k n v : Nat) : State := s.write k n v
/-- Core 0 in program mode with a port record of one line at address 0: all counts are 1. -/
def portRecord : State :=
  written (at0 prog) (unitKey 0) 64 (2 ^ 64 + 2 ^ 96 + 2 ^ 128 + 2 ^ 160)

/-- Round to nearest, ties to even; saturating or not. -/
def rneX (sat : Bool) : Num.Rnd := ⟨0, 0, sat⟩

/-! ## Ill-formed terms -/

/-- One for each check: the class of the slot; REASON 6 to 0x0B; orders, scopes, sizes, ranges. -/
theorem test_ill_formed : List.all
    [ .add hL ⟨1, ⟨2, false⟩, ⟨3, false⟩⟩, .vadd hX ⟨4, 0, 0, 1, 2, 0, false, false⟩,
      .vadd hV ⟨15, 0, 0, 1, 2, 0, false, false⟩, .vmulh hV ⟨8, 0, 0, 1, 2, 0, false, false⟩, .mdrn hM ⟨2, 0, false, false, 0, 0, 0, 0⟩,
      .xcvt hX ⟨8, 6, 0, 1, 0, 0, 0⟩, .macc hM ⟨0, 8, false, false, 0, 0, 0, 0⟩,
      .vadd hV ⟨4, 0, 0xC40, 1, 2, 0, false, false⟩, .vadd hV ⟨4, 0, 0x1000, 1, 2, 0, false, false⟩,
      .vadd hV ⟨4, 0, 0, 0xC08, 2, 0, false, false⟩, .ldl hL ⟨0, true, 0, 0, ⟨2, false⟩, 0, 0⟩, .xseed hX ⟨0, 0, 0, 0, 0, 0, 0⟩,
      .fadd hS ⟨1, ⟨2, false⟩, ⟨3, false⟩, 6⟩, .fmin hS ⟨1, ⟨2, false⟩, ⟨3, false⟩, 1⟩, .fcmpeq hS ⟨1, ⟨2, false⟩, ⟨3, false⟩, 1⟩,
      .xscale hX ⟨14, 8, 0, 1, 0, 0, 3⟩, .fence hC ⟨3, 6⟩, .st hL ⟨1, ⟨2, false⟩, 0, false, 2, 7, 0⟩,
      .fcvti hS ⟨1, ⟨2, false⟩, 0, 8, false⟩, .wrsr hS ⟨0xFF, ⟨1, false⟩⟩, .ld hL ⟨1, ⟨2, false⟩, 3, true, 0, 0, 0⟩,
      .ld hL ⟨1, ⟨2, false⟩, 3, false, 2, 5, 0⟩, .st hL ⟨1, ⟨2, false⟩, 0, false, 1, 5, 0⟩, .amo hL ⟨1, ⟨2, false⟩, 1, 0, 0, ⟨3, false⟩, 0⟩,
      .amo hL ⟨1, ⟨2, false⟩, 2, 0, 0, ⟨3, false⟩, 9⟩, .cas hL ⟨1, ⟨2, false⟩, 0, 0, 0, ⟨3, false⟩, ⟨4, false⟩⟩,
      .ldx hL ⟨0, false, 3, 0, 0, 1, ⟨2, false⟩, 0, false, false⟩, .stx hL ⟨0, false, 2, 0, 0, 1, ⟨2, false⟩, 0, true, false⟩,
      .gld hL ⟨0, 7, 0, 0, ⟨2, false⟩, 4, 0, 0⟩, .pcfg hL ⟨12, ⟨2, false⟩, 0⟩, .prst hL ⟨15⟩, .step hC ⟨0⟩, .step hC ⟨58⟩,
      .submit hC ⟨1, 80, 0, 0, ⟨2, false⟩, 0⟩, .svsave hC ⟨⟨2, false⟩, 3, 0, 0, 0⟩, .mwld hM ⟨0, 0, false, false, 16, 0, 0, 0⟩,
      .macc hM ⟨0, 0, false, false, 64, 0, 0, 0⟩, .mzero hM ⟨0, 0, false, false, 64, 0, 0, 0⟩, .kand hV ⟨0, 0, 16, 0, 0, 0, false, false⟩,
      .loop 1 1, .loopImm 0x80000 1, .lpop 0, .lpop 7, .brt ⟨22, 0, 0, 0, 0, 0, 0, 0, 0, 0⟩, .brt ⟨0, 0, 1, 0, 0, 0, 0, 0, 0, 0⟩,
      .brt ⟨0, 0, 0, 0, 0, 0, 0, 1, 0, 0⟩ ]
    (fun i => !wellFormed i) = true := by decide +kernel

/-- Headers and words that the decoder refuses, with their WORD, SLOT and REASON (R48). -/
theorem test_illegal_bundles : [
    decodeBundle [0x0000100000000000] 0, decodeBundle [0x0000000000000201, 0] 0, decodeBundle [0x0000000003000000] 0,
    decodeBundle [0x0000000001000000, 0x4000000000000000] 0, decodeBundle [0x0000000004000001, 0] 0,
    decodeBundle [0x0000000010000000] 0, decodeBundle [0x0000000000000001, 0xFE00000000000000] 0,
    decodeBundle [0x0000000000000001, 0x0200000000000001] 0, decodeBundle [0x0000000001000000, 0xF800000000000000] 0].map
      (fun r => match r with
        | .error e => [e.word, e.slot, e.reason]
        | .ok _ => []) =
    [[0, 15, 1], [0, 15, 2], [0, 15, 3], [0, 15, 3], [0, 15, 4], [0, 15, 4], [1, 0, 5], [1, 0, 9], [1, 15, 5]] := by decide +kernel

/-! ## Words written out from the encodings -/

/-- Class S: OPC 0x01, IMM, GPRED p2, destination 7, source 8, immediate -3, as R58 prints it. -/
theorem test_decode_add : parse 1 0x0221C880FFFFFFFD = some (.addImm ⟨1, false, 2⟩ ⟨7, ⟨8, false⟩, 0xFFFFFFFD⟩) := by decide
/-- Class L, as R90 prints it. -/
theorem test_decode_ld : parse 2 0x0211CC5000000040 = some (.ld ⟨2, false, 1⟩ ⟨7, ⟨12, false⟩, 2, true, 0, 0, 64⟩) := by decide
/-- Class V: VCLASS of f32 elements. -/
theorem test_decode_vclass : (parse 4 0x380A000204247020).isSome = true ∧
    ((parse 4 0x380A000204247020).map encodeWord) = some 0x380A000204247020 := by decide
/-- Class X, as R141 prints it: XQNT e4m3 from f32, t4.row0, t0.row0, t6.row1. -/
theorem test_decode_xqnt : parse 6 0x180B810000006020 = some (.xqnt ⟨6, false, 0⟩ ⟨11, 8, 0x200, 0, 0x301, 0, 0⟩) := by decide
/-- Class M. -/
theorem test_decode_macc : (parse 7 0x080BB02840D00000).map encodeWord = some 0x080BB02840D00000 ∧
    ((parse 7 0x080BB02840D00000).map opClass) = some (some 'M') := by decide
/-- Class C: a trap, a return, an exit, each of OPC alone. -/
theorem test_decode_system : parse 8 0x3000000000000000 = some (.trap ⟨8, false, 0⟩ ⟨0⟩) ∧
    parse 8 0x3200000000000000 = some (.reti ⟨8, false, 0⟩) ∧ parse 8 0x2400000000000000 = some (.exit ⟨8, false, 0⟩) := by decide
/-- A branch: BRC, BPRED 2, TGT -5. -/
theorem test_decode_brc : parseBranch 0x00BFFFEC00000000 0 = some (.brc false 2 0xFFFFB) := by decide

/-! ## Values that the spec prints -/

/-- The words that R225 prints for steps 1 and 2. -/
theorem test_stipple : Num.stipple 0 1 0 0 0 = 0xE220A8397B1DCDAF ∧ Num.stipple 0 2 0 0 0 = 0x6E789E6AA1B965F4 := by decide +kernel

/-- Rows of "Worked conversions": values and flags (NV 1, DZ 2, OF 4, UF 8, NX 16, NF 32). -/
theorem test_conversions :
    Num.convert 9 8 (rneX false) 0x4788B800 = (0x4789, 16) ∧ Num.convert 10 8 (rneX false) 0x4788B800 = (0x7C00, 52) ∧
    Num.convert 11 8 (rneX false) 0x4788B800 = (0x7E, 20) ∧ Num.convert 12 8 (rneX false) 0x4788B800 = (0x7C, 52) ∧
    Num.convert 12 8 (rneX true) 0x4788B800 = (0x7B, 20) ∧ Num.convert 13 8 (rneX false) 0x4788B800 = (7, 20) ∧
    Num.convert 10 8 (rneX false) 0xBDCCCCCD = (0xAE66, 16) ∧ Num.convert 13 8 (rneX false) 0xBDCCCCCD = (8, 24) ∧
    Num.convert 11 8 (rneX false) 0x7FA00000 = (0x7F, 33) ∧ Num.convert 13 8 (rneX false) 0x7FA00000 = (0, 1) := by decide +kernel

/-- The block of R141: its scale code, two quantised elements and what they dequantise to. -/
theorem test_block : scaleCode 8 0x41DF3333 = 0x7B ∧ (Num.convert 8 8 (rneX false) 0).1 = 0 ∧
    (quantise 11 8 (rneX false) 0x7B 0x3E99999A).1 = 0x4A ∧ (quantise 11 8 (rneX false) 0x7B 0xC1DF3333).1 = 0xFE ∧
    (dequantise 8 11 (rneX false) 0x7B 0x4A).1 = 0x3EA00000 ∧ (dequantise 8 11 (rneX false) 0x7B 0xFE).1 = 0xC1E00000 := by
  decide +kernel

/-- The line of R334: set 9, data line 1 of stripe 576,720, from its set-local number. -/
theorem test_line_address : lineAddr 9 8650801 = 0x420010C40 ∧ State.reset.setOf 0x420010C40 = 9 ∧ 8650801 / 15 = 576720 := by
  decide +kernel

/-- Reset values of R356 and the worked entry of R302 that a base table completes. -/
theorem test_reset_registers : State.reset.regRead 0x900000 = 2400 ∧ State.reset.regRead 0x600010 = 100000 ∧
    State.reset.regRead 0x100010 = 256 ∧ State.reset.regRead 0x200000 = 1000 := by decide +kernel

/-- Division corners of R60. -/
theorem test_division : intResult (.div hS ⟨1, ⟨2, false⟩, ⟨3, false⟩⟩) 0x8000000000000000 (-1) = some (12, 0x8000000000000000) ∧
    intResult (.rem hS ⟨1, ⟨2, false⟩, ⟨3, false⟩⟩) 0x8000000000000000 (-1) = some (12, 0) ∧
    intResult (.divz hS ⟨1, ⟨2, false⟩, ⟨3, false⟩⟩) 7 0 = some (12, BitVec.allOnes 64) ∧
    intResult (.rem hS ⟨1, ⟨2, false⟩, ⟨3, false⟩⟩) 7 0 = some (12, 7) := by decide +kernel
set_option exponentiation.threshold 2000 in
set_option maxRecDepth 20000 in
/-- IntegerResults. -/
theorem test_meets_ints : Each (Meets intEffect (at0 prog)) [
    .add hS ⟨1, ⟨2,false⟩, ⟨4,true⟩⟩, .sub hS ⟨1, ⟨2,false⟩, ⟨4,true⟩⟩, .mul hS ⟨1, ⟨2,false⟩, ⟨4,true⟩⟩,
    .mulh hS ⟨1, ⟨2,false⟩, ⟨4,true⟩⟩, .mulhz hS ⟨1, ⟨2,false⟩, ⟨4,true⟩⟩, .div hS ⟨1, ⟨2,false⟩, ⟨4,true⟩⟩,
    .divz hS ⟨1, ⟨2,false⟩, ⟨4,true⟩⟩, .rem hS ⟨1, ⟨2,false⟩, ⟨4,true⟩⟩, .remz hS ⟨1, ⟨2,false⟩, ⟨4,true⟩⟩,
    .and hS ⟨1, ⟨2,false⟩, ⟨4,true⟩⟩, .or hS ⟨1, ⟨2,false⟩, ⟨4,true⟩⟩, .xor hS ⟨1, ⟨2,false⟩, ⟨4,true⟩⟩,
    .andn hS ⟨1, ⟨2,false⟩, ⟨4,true⟩⟩, .shl hS ⟨1, ⟨2,false⟩, ⟨4,true⟩⟩, .shr hS ⟨1, ⟨2,false⟩, ⟨4,true⟩⟩,
    .sar hS ⟨1, ⟨2,false⟩, ⟨4,true⟩⟩, .rol hS ⟨1, ⟨2,false⟩, ⟨4,true⟩⟩, .min hS ⟨1, ⟨2,false⟩, ⟨4,true⟩⟩,
    .max hS ⟨1, ⟨2,false⟩, ⟨4,true⟩⟩, .minz hS ⟨1, ⟨2,false⟩, ⟨4,true⟩⟩, .maxz hS ⟨1, ⟨2,false⟩, ⟨4,true⟩⟩,
    .addImm hS ⟨1, ⟨2,false⟩, 0xFFFFFFFD⟩, .subImm hS ⟨1, ⟨2,false⟩, 0xFFFFFFFD⟩, .mulImm hS ⟨1, ⟨2,false⟩, 0xFFFFFFFD⟩,
    .mulhImm hS ⟨1, ⟨2,false⟩, 0xFFFFFFFD⟩, .mulhzImm hS ⟨1, ⟨2,false⟩, 0xFFFFFFFD⟩, .divImm hS ⟨1, ⟨2,false⟩, 0xFFFFFFFD⟩,
    .divzImm hS ⟨1, ⟨2,false⟩, 0xFFFFFFFD⟩, .remImm hS ⟨1, ⟨2,false⟩, 0xFFFFFFFD⟩, .remzImm hS ⟨1, ⟨2,false⟩, 0xFFFFFFFD⟩,
    .andImm hS ⟨1, ⟨2,false⟩, 0xFFFFFFFD⟩, .orImm hS ⟨1, ⟨2,false⟩, 0xFFFFFFFD⟩, .xorImm hS ⟨1, ⟨2,false⟩, 0xFFFFFFFD⟩,
    .andnImm hS ⟨1, ⟨2,false⟩, 0xFFFFFFFD⟩, .shlImm hS ⟨1, ⟨2,false⟩, 0xFFFFFFFD⟩, .shrImm hS ⟨1, ⟨2,false⟩, 0xFFFFFFFD⟩,
    .sarImm hS ⟨1, ⟨2,false⟩, 0xFFFFFFFD⟩, .rolImm hS ⟨1, ⟨2,false⟩, 0xFFFFFFFD⟩, .minImm hS ⟨1, ⟨2,false⟩, 0xFFFFFFFD⟩,
    .maxImm hS ⟨1, ⟨2,false⟩, 0xFFFFFFFD⟩, .minzImm hS ⟨1, ⟨2,false⟩, 0xFFFFFFFD⟩, .maxzImm hS ⟨1, ⟨2,false⟩, 0xFFFFFFFD⟩] := by
  repeat' first | exact trivial | refine And.intro (meets_of hS rfl trivial rfl rfl) ?_

set_option exponentiation.threshold 2000 in
set_option maxRecDepth 20000 in
/-- MovesAndPredicates: moves. -/
theorem test_meets_moves : Each (Meets moveEffect (at0 prog)) [
    .clz hS ⟨1, ⟨2,false⟩⟩, .ctz hS ⟨1, ⟨2,false⟩⟩, .popc hS ⟨1, ⟨2,false⟩⟩,
    .bfx hS ⟨1, ⟨2,false⟩, 60, 63⟩, .bfxz hS ⟨1, ⟨2,false⟩, 60, 63⟩, .bfi hS ⟨1, ⟨2,false⟩, ⟨3,false⟩, 60, 63⟩,
    .fshl hS ⟨1, ⟨2,false⟩, ⟨3,false⟩, ⟨4,true⟩⟩, .fshr hS ⟨1, ⟨2,false⟩, ⟨3,false⟩, ⟨4,true⟩⟩, .sel hS ⟨1, ⟨2,false⟩, ⟨3,false⟩, 3⟩,
    .selImm hS ⟨1, ⟨2,false⟩, 3, 0x80000000⟩, .movi hS ⟨0, 5⟩, .movhi hS ⟨1, ⟨2,false⟩, 0xFFFFFFFD⟩,
    .rdsr hS ⟨1, 0x00⟩] := by
  repeat' first | exact trivial | refine And.intro (meets_of hS rfl trivial rfl rfl) ?_

set_option exponentiation.threshold 2000 in
set_option maxRecDepth 20000 in
/-- MovesAndPredicates: predicates. -/
theorem test_meets_preds : Each (Meets predEffect (at0 prog)) [
    .cmpeq hS ⟨5, ⟨2,false⟩, ⟨3,false⟩⟩, .cmpne hS ⟨5, ⟨2,false⟩, ⟨3,false⟩⟩, .cmplt hS ⟨5, ⟨2,false⟩, ⟨3,false⟩⟩,
    .cmple hS ⟨5, ⟨2,false⟩, ⟨3,false⟩⟩, .cmpltz hS ⟨5, ⟨2,false⟩, ⟨3,false⟩⟩, .cmplez hS ⟨5, ⟨2,false⟩, ⟨3,false⟩⟩,
    .cmpeqImm hS ⟨0, ⟨2,false⟩, 7⟩, .cmpneImm hS ⟨0, ⟨2,false⟩, 7⟩, .cmpltImm hS ⟨0, ⟨2,false⟩, 7⟩,
    .cmpleImm hS ⟨0, ⟨2,false⟩, 7⟩, .cmpltzImm hS ⟨0, ⟨2,false⟩, 7⟩, .cmplezImm hS ⟨0, ⟨2,false⟩, 7⟩,
    .pand hS ⟨5, 0, 6, true, false⟩, .por hS ⟨5, 0, 6, true, false⟩, .pxor hS ⟨5, 0, 6, true, false⟩,
    .pandn hS ⟨5, 0, 6, true, false⟩, .pset hS ⟨0x80008000⟩] := by
  repeat' first | exact trivial | refine And.intro (meets_of hS rfl trivial rfl rfl) ?_


set_option exponentiation.threshold 2000 in
set_option maxRecDepth 20000 in
/-- ScalarFloatResults. -/
theorem test_meets_floats : Each (Meets fpEffect (at0 prog)) [
    .fadd hS ⟨1, ⟨2,false⟩, ⟨3,false⟩, 7⟩, .faddImm hS ⟨1, ⟨2,false⟩, 7, 0x3F800000⟩, .fsub hS ⟨1, ⟨2,false⟩, ⟨3,false⟩, 7⟩,
    .fsubImm hS ⟨1, ⟨2,false⟩, 7, 0x3F800000⟩, .fmul hS ⟨1, ⟨2,false⟩, ⟨3,false⟩, 7⟩, .fmulImm hS ⟨1, ⟨2,false⟩, 7, 0x3F800000⟩,
    .fmin hS ⟨1, ⟨2,false⟩, ⟨3,false⟩, 0⟩, .fminImm hS ⟨1, ⟨2,false⟩, 0, 0x3F800000⟩, .fmax hS ⟨1, ⟨2,false⟩, ⟨3,false⟩, 0⟩,
    .fmaxImm hS ⟨1, ⟨2,false⟩, 0, 0x3F800000⟩, .fma hS ⟨1, ⟨2,false⟩, ⟨3,false⟩, ⟨4,true⟩, 5⟩, .fcmpeq hS ⟨5, ⟨2,false⟩, ⟨3,false⟩, 0⟩,
    .fcmplt hS ⟨5, ⟨2,false⟩, ⟨3,false⟩, 0⟩, .fcmple hS ⟨5, ⟨2,false⟩, ⟨3,false⟩, 0⟩, .fcmpeqImm hS ⟨5, ⟨2,false⟩, 0, 0x7F800001⟩,
    .fcmpltImm hS ⟨5, ⟨2,false⟩, 0, 0x7F800001⟩, .fcmpleImm hS ⟨5, ⟨2,false⟩, 0, 0x7F800001⟩, .fcvti hS ⟨1, ⟨2,false⟩, 1, 4, true⟩,
    .fcvtf hS ⟨1, ⟨2,false⟩, 1, 4, true⟩, .fcvti hS ⟨1, ⟨2,false⟩, 1, 5, false⟩, .fcvtf hS ⟨1, ⟨2,false⟩, 1, 5, false⟩] := by
  repeat' first | exact trivial | refine And.intro (meets_of hS rfl trivial rfl rfl) ?_

set_option exponentiation.threshold 2000 in
set_option maxRecDepth 20000 in
/-- SpecialRegisterWrites. -/
theorem test_meets_wrsr : Each (Meets wrsrEffect (at0 prog)) [
    .wrsr hS ⟨0x1E, ⟨2,false⟩⟩, .wrsr hS ⟨0x29, ⟨2,false⟩⟩] := by
  exact ⟨meets_of hS rfl (by decide) rfl rfl, meets_of hS rfl (by decide) rfl rfl, trivial⟩

set_option exponentiation.threshold 2000 in
set_option maxRecDepth 20000 in
/-- SpecialRegisterWrites, a register that supervisor mode ignores. -/
theorem test_meets_wrsr_readonly : Each (Meets wrsrEffect (at0 sup)) [
    .wrsr hS ⟨0x00, ⟨2,false⟩⟩] := by
  exact ⟨meets_of hS rfl trivial rfl rfl, trivial⟩

set_option exponentiation.threshold 2000 in
set_option maxRecDepth 20000 in
/-- NopsIssue. -/
theorem test_meets_idle_snop : Each (Meets idleEffect (at0 prog)) [
    .snop hS] := by
  exact ⟨meets_of hS rfl trivial rfl rfl, trivial⟩

set_option exponentiation.threshold 2000 in
set_option maxRecDepth 20000 in
/-- NopsIssue. -/
theorem test_meets_idle_lnop : Each (Meets idleEffect (at0 prog)) [
    .lnop hL] := by
  exact ⟨meets_of hL rfl trivial rfl rfl, trivial⟩

set_option exponentiation.threshold 2000 in
set_option maxRecDepth 20000 in
/-- NopsIssue. -/
theorem test_meets_idle_vnop : Each (Meets idleEffect (at0 prog)) [
    .vnop hV] := by
  exact ⟨meets_of hV rfl trivial rfl rfl, trivial⟩

set_option exponentiation.threshold 2000 in
set_option maxRecDepth 20000 in
/-- NopsIssue. -/
theorem test_meets_idle_xnop : Each (Meets idleEffect (at0 prog)) [
    .xnop hX] := by
  exact ⟨meets_of hX rfl trivial rfl rfl, trivial⟩

set_option exponentiation.threshold 2000 in
set_option maxRecDepth 20000 in
/-- NopsIssue. -/
theorem test_meets_idle_mnop : Each (Meets idleEffect (at0 prog)) [
    .mnop hM] := by
  exact ⟨meets_of hM rfl trivial rfl rfl, trivial⟩

set_option exponentiation.threshold 2000 in
set_option maxRecDepth 20000 in
/-- NopsIssue. -/
theorem test_meets_idle_cnop : Each (Meets idleEffect (at0 prog)) [
    .cnop hC] := by
  exact ⟨meets_of hC rfl trivial rfl rfl, trivial⟩

set_option exponentiation.threshold 2000 in
set_option maxRecDepth 20000 in
/-- VectorElements. -/
theorem test_meets_elements : Each (Meets elementEffect (at0 prog)) [
    .vadd hV ⟨4, 0, 0, 0x81, 0x102, 0, false, false⟩, .vsub hV ⟨4, 0, 0, 0x81, 0x102, 0, false, false⟩, .vmul hV ⟨4, 0, 0, 0x81, 0x102, 0, false, false⟩,
    .vfma hV ⟨4, 0, 0, 0x81, 0x102, 0, false, false⟩, .vmin hV ⟨4, 0, 0, 0x81, 0x102, 0, false, false⟩, .vmax hV ⟨4, 0, 0, 0x81, 0x102, 0, false, false⟩,
    .vadds hV ⟨4, 0, 0, 0x81, 0x102, 0, false, false⟩, .vsubs hV ⟨4, 0, 0, 0x81, 0x102, 0, false, false⟩, .vmulh hV ⟨4, 0, 0, 0x81, 0x102, 0, false, false⟩,
    .vand hV ⟨4, 0, 0, 0x81, 0x102, 0, false, false⟩, .vor hV ⟨4, 0, 0, 0x81, 0x102, 0, false, false⟩, .vxor hV ⟨4, 0, 0, 0x81, 0x102, 0, false, false⟩,
    .vshl hV ⟨4, 0, 0, 0x81, 0x102, 0, false, false⟩, .vshr hV ⟨4, 0, 0, 0x81, 0x102, 0, false, false⟩, .vsar hV ⟨4, 0, 0, 0x81, 0x102, 0, false, false⟩,
    .vbfx hV ⟨2, 0, 0, 0x81, 0x102, 0, false, false⟩, .vbfxz hV ⟨2, 0, 0, 0x81, 0x102, 0, false, false⟩, .vfshr hV ⟨2, 0, 0, 0x81, 0x102, 0, false, false⟩,
    .vabs hV ⟨0, 0, 0, 0x81, 0, 0, false, false⟩, .vneg hV ⟨0, 0, 0, 0x81, 0, 0, false, false⟩, .vclz hV ⟨0, 0, 0, 0x81, 0, 0, false, false⟩,
    .vpopc hV ⟨0, 0, 0, 0x81, 0, 0, false, false⟩, .vmov hV ⟨0, 0, 0, 0x81, 0, 0, false, false⟩, .vadd hV ⟨8, 7, 0, 0x81, 0x102, 0, false, true⟩,
    .vsub hV ⟨8, 7, 0, 0x81, 0x102, 0, false, true⟩, .vmul hV ⟨8, 7, 0, 0x81, 0x102, 0, false, true⟩, .vfma hV ⟨8, 7, 0, 0x81, 0x102, 0, false, true⟩,
    .vmin hV ⟨8, 7, 0, 0x81, 0x102, 0, false, true⟩, .vmax hV ⟨8, 7, 0, 0x81, 0x102, 0, false, true⟩, .vadds hV ⟨8, 7, 0, 0x81, 0x102, 0, false, true⟩,
    .vsubs hV ⟨8, 7, 0, 0x81, 0x102, 0, false, true⟩] := by
  repeat' first | exact trivial | refine And.intro (meets_of hV rfl trivial rfl rfl) ?_

set_option exponentiation.threshold 2000 in
set_option maxRecDepth 20000 in
/-- VectorPermutes. -/
theorem test_meets_permutes : Each (Meets permuteEffect (at0 prog)) [
    .vsel hV ⟨4, 0, 0, 0x81, 0x102, 0, false, false⟩, .vbcast hV ⟨4, 0, 0, 0x81, 127, 0, false, false⟩, .vrot hV ⟨4, 0, 0, 0x81, 127, 0, false, false⟩,
    .vins hV ⟨4, 0, 0, 0x81, 127, 0, false, false⟩, .vextr hV ⟨4, 0, 0, 0x81, 127, 0, false, false⟩, .vperm hV ⟨4, 0, 0, 0x81, 0x102, 0, false, false⟩,
    .viota hV ⟨4, 0, 0, 0x81, 0, 0, false, false⟩, .vrsum hV ⟨4, 0, 0, 0x81, 0, 0, false, false⟩, .vrmax hV ⟨4, 0, 0, 0x81, 0, 0, false, false⟩,
    .vrmin hV ⟨4, 0, 0, 0x81, 0, 0, false, false⟩, .vror hV ⟨4, 0, 0, 0x81, 0, 0, false, false⟩, .vscan hV ⟨4, 0, 0, 0x81, 0, 0, false, false⟩,
    .vrsum hV ⟨8, 0, 0, 0x81, 0, 0, false, false⟩, .vscan hV ⟨8, 0, 0, 0x81, 0, 0, false, false⟩] := by
  repeat' first | exact trivial | refine And.intro (meets_of hV rfl trivial rfl rfl) ?_

set_option exponentiation.threshold 2000 in
set_option maxRecDepth 20000 in
/-- VectorWidths. -/
theorem test_meets_widths : Each (Meets widthEffect (at0 prog)) [
    .vwiden hV ⟨0, 0, 0, 0x81, 6, 0, false, false⟩, .vnarrow hV ⟨0, 0, 0, 0x81, 2, 0, false, false⟩, .vdot4 hV ⟨0, 0, 0, 0x81, 0x102, 0, false, false⟩] := by
  exact ⟨meets_of hV rfl trivial rfl rfl, meets_of hV rfl trivial rfl rfl, meets_of hV rfl trivial rfl rfl, trivial⟩

set_option exponentiation.threshold 2000 in
set_option maxRecDepth 20000 in
/-- LaneMasks. -/
theorem test_meets_masks : Each (Meets maskEffect (at0 prog)) [
    .vcmpeq hV ⟨4, 0, 3, 0x81, 0x102, 0, false, false⟩, .vcmpne hV ⟨4, 0, 3, 0x81, 0x102, 0, false, false⟩, .vcmplt hV ⟨4, 0, 3, 0x81, 0x102, 0, false, false⟩,
    .vcmple hV ⟨4, 0, 3, 0x81, 0x102, 0, false, false⟩, .vclass hV ⟨8, 0, 3, 0x81, 0x20, 0, false, false⟩, .kand hV ⟨0, 0, 1, 2, 3, 0, false, false⟩,
    .kor hV ⟨0, 0, 1, 2, 3, 0, false, false⟩, .kxor hV ⟨0, 0, 1, 2, 3, 0, false, false⟩, .knot hV ⟨0, 0, 1, 2, 0, 0, false, false⟩,
    .kpopc hV ⟨0, 0, 1, 2, 0, 0, false, false⟩, .kany hV ⟨0, 0, 1, 2, 0, 0, false, false⟩] := by
  repeat' first | exact trivial | refine And.intro (meets_of hV rfl trivial rfl rfl) ?_

set_option exponentiation.threshold 2000 in
set_option maxRecDepth 20000 in
/-- SpecialFunctions. -/
theorem test_meets_functions : Each (Meets functionEffect (at0 prog)) [
    .xrcp hX ⟨8, 8, 0, 0x80, 0, 0, 0⟩, .xrsq hX ⟨8, 8, 0, 0x80, 0, 0, 0⟩, .xsqrt hX ⟨8, 8, 0, 0x80, 0, 0, 0⟩,
    .xexp2 hX ⟨8, 8, 0, 0x80, 0, 0, 0⟩, .xlog2 hX ⟨8, 8, 0, 0x80, 0, 0, 0⟩, .xtanh hX ⟨8, 8, 0, 0x80, 0, 0, 0⟩,
    .xsig hX ⟨8, 8, 0, 0x80, 0, 0, 0⟩, .xdiv hX ⟨9, 9, 0, 0x80, 0x100, 0, 0⟩, .xcvt hX ⟨8, 4, 0, 0x80, 0, 0, 0⟩,
    .xcvt hX ⟨9, 8, 0, 0x80, 0, 0, 0⟩, .xcvt hX ⟨4, 0, 0, 0x80, 0, 0, 0⟩] := by
  repeat' first | exact trivial | refine And.intro (meets_of hX rfl trivial rfl rfl) ?_

set_option exponentiation.threshold 2000 in
set_option maxRecDepth 20000 in
/-- BlockFormats. -/
theorem test_meets_blocks : Each (Meets blockEffect (at0 prog)) [
    .xamax hX ⟨8, 9, 0, 0x80, 0, 0, 0⟩, .xscale hX ⟨14, 8, 0, 0x80, 0, 0, 2⟩, .xqnt hX ⟨11, 8, 0, 0x80, 0x100, 0, 0⟩,
    .xdqnt hX ⟨8, 11, 0, 0x80, 0x100, 0, 0⟩, .xseed hX ⟨0, 0, 0, 0xC41, 0, 0, 1⟩, .xrand hX ⟨8, 0, 0, 0, 0, 0, 0⟩] := by
  repeat' first | exact trivial | refine And.intro (meets_of hX rfl trivial rfl rfl) ?_

set_option exponentiation.threshold 2000 in
set_option maxRecDepth 20000 in
/-- BeatsIssue. -/
theorem test_meets_beats : Each (Meets beatEffect (at0 prog)) [
    .mwld hM ⟨0, 0, false, false, 15, 0x81, 0, 0⟩, .mshf hM ⟨0, 0, false, false, 0, 0x81, 7, 0⟩, .mscl hM ⟨0, 0, false, false, 0, 0x81, 7, 0⟩,
    .mxsc hM ⟨0, 0, false, false, 0, 0x81, 7, 0⟩, .macc hM ⟨0, 0, true, true, 63, 0x81, 7, 0x20000⟩, .maccz hM ⟨0, 0, true, true, 63, 0x81, 7, 0x20000⟩,
    .mdrn hM ⟨4, 0, false, true, 63, 0x81, 7, 0x8000⟩, .mswap hM ⟨0, 0, false, false, 0, 0, 0, 0⟩, .mzero hM ⟨0, 0, false, true, 63, 0, 0, 0⟩,
    .manch hM ⟨0, 0, false, true, 0, 0, 0, 0⟩] := by
  repeat' first | exact trivial | refine And.intro (meets_of hM rfl trivial rfl rfl) ?_
set_option exponentiation.threshold 2000 in
set_option maxRecDepth 20000 in
/-- ScalarLoads. -/
theorem test_meets_loads : Each (Meets loadEffect (at0 based)) [
    .ld hL ⟨1, ⟨2, true⟩, 3, false, 0, 0, 0xFFFFF8⟩, .ldIndexed hL ⟨1, ⟨2, false⟩, 3, false, 0, 0, ⟨3, false⟩⟩, .ldPostinc hL ⟨1, ⟨2, false⟩, 0, true, 0, 0, 1⟩] := by
  exact ⟨meets_of hL rfl (fun _ => rfl) rfl rfl, meets_of hL rfl (fun _ => rfl) rfl rfl, meets_of hL rfl (fun _ => rfl) rfl rfl, trivial⟩

set_option exponentiation.threshold 2000 in
set_option maxRecDepth 20000 in
/-- ScalarStores. -/
theorem test_meets_stores : Each (Meets storeEffect (at0 based)) [
    .st hL ⟨1, ⟨2, true⟩, 3, true, 0, 0, 0xFFFFF8⟩, .stIndexed hL ⟨1, ⟨2, false⟩, 3, false, 0, 0, ⟨3, false⟩⟩, .stPostinc hL ⟨1, ⟨2, false⟩, 0, true, 0, 0, 1⟩] := by
  exact ⟨meets_of hL rfl (fun _ => rfl) rfl rfl, meets_of hL rfl (fun _ => rfl) rfl rfl, meets_of hL rfl (fun _ => rfl) rfl rfl, trivial⟩

set_option exponentiation.threshold 2000 in
set_option maxRecDepth 20000 in
/-- ScalarLoads, of the die scratchpad. -/
theorem test_meets_loads_far : Each (Meets loadEffect (at0 far)) [
    .ld hL ⟨1, ⟨2, true⟩, 3, false, 0, 0, 0⟩] := by
  exact ⟨meets_of hL rfl (fun h => Bool.noConfusion (show false = true from h)) rfl rfl, trivial⟩

set_option exponentiation.threshold 2000 in
set_option maxRecDepth 20000 in
/-- ScalarStores, to the die scratchpad. -/
theorem test_meets_stores_far : Each (Meets storeEffect (at0 far)) [
    .st hL ⟨1, ⟨2, true⟩, 3, true, 0, 0, 0⟩] := by
  exact ⟨meets_of hL rfl (fun h => Bool.noConfusion (show false = true from h)) rfl rfl, trivial⟩

set_option exponentiation.threshold 2000 in
set_option maxRecDepth 20000 in
/-- LineLoadsAndStores. -/
theorem test_meets_lines : Each (Meets lineMemEffect (at0 prog)) [
    .ldl hL ⟨0x809, true, 0, 0, ⟨2, true⟩, 0, 512⟩, .ldlPostinc hL ⟨0, false, 0, 0, ⟨2, true⟩, 0, 512⟩, .stl hL ⟨0x809, true, 0, 0, ⟨2, true⟩, 0, 512⟩,
    .stlPostinc hL ⟨0, false, 0, 0, ⟨2, true⟩, 0, 512⟩] := by
  exact ⟨meets_of hL rfl ⟨rfl, fun _ => rfl⟩ rfl rfl, meets_of hL rfl ⟨rfl, fun _ => rfl⟩ rfl rfl, meets_of hL rfl ⟨rfl, fun _ => rfl⟩ rfl rfl, meets_of hL rfl ⟨rfl, fun _ => rfl⟩ rfl rfl, trivial⟩

set_option exponentiation.threshold 2000 in
set_option maxRecDepth 20000 in
/-- Atomics. -/
theorem test_meets_atomics : Each (Meets atomicEffect (at0 prog)) [
    .amo hL ⟨1, ⟨2, true⟩, 3, 0, 0, ⟨3, false⟩, 8⟩, .cas hL ⟨1, ⟨2, true⟩, 2, 0, 0, ⟨3, false⟩, ⟨4, false⟩⟩] := by
  exact ⟨meets_of hL rfl (fun _ => rfl) rfl rfl, meets_of hL rfl (fun _ => rfl) rfl rfl, trivial⟩

set_option exponentiation.threshold 2000 in
set_option maxRecDepth 20000 in
/-- Atomics, of lines. -/
theorem test_meets_atomic_lines : Each (Meets atomicEffect (at0 prog)) [
    .amol hL ⟨0x81, 0, 0, 0, ⟨2, true⟩, 4, 0, 512⟩] := by
  exact ⟨meets_of hL rfl ⟨rfl, fun _ => rfl⟩ rfl rfl, trivial⟩

/-- An active lane of the gathers below passes its checks. -/
theorem lanes_ok (o : Gather) (v : Env) (store : Bool)
    (h : (List.range 128).all (fun i => !(v.c.mask o.mask.toNat).getLsbD (4 * i) ||
      (match (gatherLane o v (gatherIndexLine o v store) i).2 with | .ok _ => true | .error _ => false)) = true) (i : Nat)
    (hi : i < 128) (hm : (v.c.mask o.mask.toNat).getLsbD (4 * i) = true) :
    ∃ t, (gatherLane o v (gatherIndexLine o v store) i).2 = .ok t := by
  have := List.all_eq_true.1 h i (List.mem_range.2 hi)
  rw [hm] at this
  simp only [Bool.not_true, Bool.false_or] at this
  split at this
  · rename_i t e; exact ⟨t, e⟩
  · simp at this

set_option exponentiation.threshold 5000 in
set_option maxRecDepth 20000 in
/-- GathersAndScatters, with lane 127 alone active. -/
theorem test_meets_gathers : Each (Meets gatherEffect (at0 lane127)) [
    .ldx hL ⟨0, true, 1, 0, 0, 0x81, ⟨2, true⟩, 7, true, false⟩, .stx hL ⟨0, false, 2, 0, 0, 0x81, ⟨2, true⟩, 7, false, true⟩] := by
  exact ⟨meets_of hL rfl ⟨rfl, lanes_ok _ _ _ rfl, fun _ => rfl⟩ rfl rfl, meets_of hL rfl ⟨rfl, lanes_ok _ _ _ rfl, fun _ => rfl⟩ rfl rfl, trivial⟩

set_option exponentiation.threshold 2000 in
set_option maxRecDepth 20000 in
/-- GroupLoads. -/
theorem test_meets_group_loads : Each (Meets groupLoadEffect (inGroup (progWith [(2, 0x0400000000000000)]))) [
    .gld hL ⟨0, 0, 0, 0, ⟨2, true⟩, 4, 3, 0⟩, .glds hL ⟨1, 0, 1, 0, ⟨2, true⟩, 4, 3, 0⟩] := by
  exact ⟨meets_of hL rfl ⟨rfl, rfl, rfl⟩ rfl rfl, meets_of hL rfl ⟨rfl, rfl, rfl⟩ rfl rfl, trivial⟩

set_option exponentiation.threshold 2000 in
set_option maxRecDepth 20000 in
/-- PortSetup: PRST. -/
theorem test_meets_ports : Each (Meets portEffect (at0 prog)) [
    .prst hL ⟨11⟩] := by
  exact ⟨meets_of hL rfl ⟨rfl, fun _ => rfl⟩ rfl rfl, trivial⟩

set_option exponentiation.threshold 2000 in
set_option maxRecDepth 20000 in
/-- PortSetup: PCFG. -/
theorem test_meets_port_config : Each (Meets portEffect portRecord) [
    .pcfg hL ⟨0, ⟨2, true⟩, 0⟩] := by
  exact ⟨meets_of hL rfl ⟨rfl, by decide +kernel, rfl⟩ rfl rfl, trivial⟩

set_option exponentiation.threshold 2000 in
set_option maxRecDepth 20000 in
/-- BufferHandles: HGIVE. -/
theorem test_meets_hgive : Each (Meets handleEffect (at0 (progWith [(3, 0x101)]))) [
    .hgive hL ⟨1, ⟨2, false⟩, ⟨3, false⟩⟩] := by
  exact ⟨meets_of hL rfl ⟨rfl, rfl, rfl, by decide⟩ rfl rfl, trivial⟩

set_option exponentiation.threshold 2000 in
set_option maxRecDepth 20000 in
/-- BufferHandles: HTAKE. -/
theorem test_meets_htake : Each (Meets handleEffect (at0 prog)) [
    .htake hL ⟨1, 15⟩] := by
  exact ⟨meets_of hL rfl ⟨rfl, rfl⟩ rfl rfl, trivial⟩

set_option exponentiation.threshold 2000 in
set_option maxRecDepth 20000 in
/-- BufferHandles: HBACK. -/
theorem test_meets_hback : Each (Meets handleEffect (at0 { prog with held := [(15, ⟨false, 0, 1, 1, 1⟩)] })) [
    .hback hL ⟨15⟩] := by
  exact ⟨meets_of hL rfl ⟨rfl, rfl, _, rfl, rfl⟩ rfl rfl, trivial⟩

set_option exponentiation.threshold 2000 in
set_option maxRecDepth 20000 in
/-- CopiesAndTags: COPY. -/
theorem test_meets_copy : Each (Meets copyEffect (at0 prog)) [
    .copy hC ⟨⟨2, true⟩, 64⟩] := by
  exact ⟨meets_of hC rfl ⟨rfl, rfl, rfl⟩ rfl rfl, trivial⟩

set_option exponentiation.threshold 2000 in
set_option maxRecDepth 20000 in
/-- CopiesAndTags: COPYNB. -/
theorem test_meets_copynb : Each (Meets copyEffect (at0 prog)) [
    .copynb hC ⟨1, ⟨2, true⟩, 64⟩] := by
  exact ⟨meets_of hC rfl rfl rfl rfl, trivial⟩

set_option exponentiation.threshold 2000 in
set_option maxRecDepth 20000 in
/-- CopiesAndTags: the waits, with a tag that is set. -/
theorem test_meets_tag_waits : Each (Meets copyEffect (at0 { prog with prog := { Ctx.start with s := [(2, 1)], sr := [(0x20, 3)] } })) [
    .twany hC ⟨⟨2, true⟩⟩, .twall hC ⟨⟨2, true⟩⟩] := by
  exact ⟨meets_of hC rfl (fun _ => ⟨rfl, by decide⟩) rfl rfl, meets_of hC rfl (fun _ => ⟨rfl, by decide⟩) rfl rfl, trivial⟩

set_option exponentiation.threshold 2000 in
set_option maxRecDepth 20000 in
/-- CopiesAndTags: TFIND, TCLR. -/
theorem test_meets_tags : Each (Meets copyEffect (at0 { prog with prog := { Ctx.start with s := [(2, 1)], sr := [(0x20, 3)] } })) [
    .tfind hC ⟨1, ⟨2, true⟩⟩, .tclr hC ⟨⟨2, true⟩⟩] := by
  exact ⟨meets_of hC rfl trivial rfl rfl, meets_of hC rfl trivial rfl rfl, trivial⟩

set_option exponentiation.threshold 2000 in
set_option maxRecDepth 20000 in
/-- FencesBarriersAndSteps: FENCE. -/
theorem test_meets_fence : Each (Meets fenceEffect (at0 prog)) [
    .fence hC ⟨3, 5⟩, .fenceInstr hC] := by
  exact ⟨meets_of hC rfl rfl rfl rfl, meets_of hC rfl rfl rfl rfl, trivial⟩

set_option exponentiation.threshold 2000 in
set_option maxRecDepth 20000 in
/-- FencesBarriersAndSteps: DRAIN. -/
theorem test_meets_drain : Each (Meets fenceEffect (at0 prog)) [
    .drain hC ⟨true, true, 3, 5⟩] := by
  exact ⟨meets_of hC rfl ⟨rfl, rfl, rfl, rfl, fun _ c (h : c ∈ []) _ => (nomatch h), fun _ w (h : w ∈ []) _ => (nomatch h)⟩ rfl rfl, trivial⟩

set_option exponentiation.threshold 2000 in
set_option maxRecDepth 20000 in
/-- FencesBarriersAndSteps: BARRIVE. -/
theorem test_meets_barrive : Each (Meets barrierEffect (inGroup prog)) [
    .barrive hC ⟨0⟩] := by
  exact ⟨meets_of hC rfl ⟨rfl, rfl, by decide +kernel⟩ rfl rfl, trivial⟩

set_option exponentiation.threshold 2000 in
set_option maxRecDepth 20000 in
/-- FencesBarriersAndSteps: BWAIT. -/
theorem test_meets_bwait : Each (Meets barrierEffect (inGroup prog)) [
    .bwait hC ⟨0⟩] := by
  exact ⟨meets_of hC rfl ⟨rfl, rfl, by decide +kernel⟩ rfl rfl, trivial⟩

set_option exponentiation.threshold 2000 in
set_option maxRecDepth 20000 in
/-- FencesBarriersAndSteps: BTEST. -/
theorem test_meets_btest : Each (Meets barrierEffect (inGroup prog)) [
    .btest hC ⟨0, 5⟩] := by
  exact ⟨meets_of hC rfl rfl rfl rfl, trivial⟩

set_option exponentiation.threshold 2000 in
set_option maxRecDepth 20000 in
/-- FencesBarriersAndSteps: STEP. -/
theorem test_meets_step : Each (Meets stepEffect (at0 { prog with launch := some 0, claim := some (0, false) })) [
    .step hC ⟨57⟩] := by
  exact ⟨meets_of hC rfl ⟨rfl, fun h => nomatch h⟩ rfl rfl, trivial⟩

set_option exponentiation.threshold 2000 in
set_option maxRecDepth 20000 in
/-- FencesBarriersAndSteps: TRIGGER. -/
theorem test_meets_trigger : Each (Meets stepEffect (at0 { prog with launch := some 0, claim := some (0, false) })) [
    .trigger hC ⟨2, 5⟩] := by
  exact ⟨meets_of hC rfl ⟨rfl, rfl⟩ rfl rfl, trivial⟩

set_option exponentiation.threshold 2000 in
set_option maxRecDepth 20000 in
/-- CommandsAndEvents: SUBMIT, SKIM. -/
theorem test_meets_submits : Each (Meets commandEffect (at0 prog)) [
    .submit hC ⟨1, 79, 2, 5, ⟨2, true⟩, 64⟩, .skim hC ⟨1, 2, 5, ⟨2, true⟩, 128⟩] := by
  exact ⟨meets_of hC rfl ⟨by decide, rfl⟩ rfl rfl, meets_of hC rfl ⟨by decide, rfl⟩ rfl rfl, trivial⟩

set_option exponentiation.threshold 2000 in
set_option maxRecDepth 20000 in
/-- CommandsAndEvents: EVADD. -/
theorem test_meets_evadd : Each (Meets commandEffect (at0 (progWith [(2, 4095), (3, 1)]))) [
    .evadd hC ⟨2, 5, ⟨2, true⟩, ⟨3, true⟩⟩] := by
  exact ⟨meets_of hC rfl (by decide) rfl rfl, trivial⟩

set_option exponentiation.threshold 2000 in
set_option maxRecDepth 20000 in
/-- CommandsAndEvents: EVWAIT. -/
theorem test_meets_evwait : Each (Meets commandEffect ({ at0 (progWith [(2, 4095), (3, 1)]) with counters := [(4095, 1)] })) [
    .evwait hC ⟨1, 5, ⟨2, true⟩, ⟨3, true⟩⟩] := by
  exact ⟨meets_of hC rfl ⟨by decide, by decide, rfl, rfl, rfl⟩ rfl rfl, trivial⟩

set_option exponentiation.threshold 2000 in
set_option maxRecDepth 20000 in
/-- LoopImages: LSAVE. -/
theorem test_meets_lsave : Each (Meets loopEffect (at0 prog)) [
    .lsave hC ⟨⟨2, true⟩, 64⟩] := by
  exact ⟨meets_of hC rfl rfl rfl rfl, trivial⟩

set_option exponentiation.threshold 2000 in
set_option maxRecDepth 20000 in
/-- LoopImages: LLOAD. -/
theorem test_meets_lload : Each (Meets loopEffect (at0 prog)) [
    .lload hC ⟨⟨2, true⟩, 64⟩] := by
  exact ⟨meets_of hC rfl ⟨rfl, by decide⟩ rfl rfl, trivial⟩

set_option exponentiation.threshold 2000 in
set_option maxRecDepth 20000 in
/-- SystemInstructions: TRAP. -/
theorem test_meets_trap : Each (Meets systemEffect (at0 prog)) [
    .trap hC ⟨255⟩] := by
  exact ⟨meets_of hC rfl trivial rfl rfl, trivial⟩

set_option exponentiation.threshold 2000 in
set_option maxRecDepth 20000 in
/-- SystemInstructions: RETI of a handler. -/
theorem test_meets_reti : Each (Meets systemEffect (at0 { prog with progBank := some ⟨[], []⟩ })) [
    .reti hC] := by
  exact ⟨meets_of hC rfl trivial rfl rfl, trivial⟩

set_option exponentiation.threshold 2000 in
set_option maxRecDepth 20000 in
/-- SystemInstructions: RETI of the supervisor. -/
theorem test_meets_reti_supervisor : Each (Meets systemEffect (at0 sup)) [
    .reti hC] := by
  exact ⟨meets_of hC rfl (fun _ h => nomatch h) rfl rfl, trivial⟩

set_option exponentiation.threshold 2000 in
set_option maxRecDepth 20000 in
/-- SystemInstructions: SVSAVE, SVLOAD. -/
theorem test_meets_context_commands : Each (Meets systemEffect (at0 sup)) [
    .svsave hC ⟨⟨2, true⟩, 0, 63, 2, 5⟩, .svload hC ⟨⟨2, true⟩, 1, 63, 1, 5⟩] := by
  exact ⟨meets_of hC rfl ⟨rfl, fun _ _ _ h => nomatch h⟩ rfl rfl, meets_of hC rfl ⟨rfl, fun h => nomatch h⟩ rfl rfl, trivial⟩
/-! ## Branches, EXIT -/

theorem test_meets_exit : CanIssue (.exit hC) hC (at0 prog) ∧ ((at0 prog).core 0).inSup = false ∧
    flagsDue (seen (.exit hC) hC (at0 prog)) = 0 := ⟨issuesB_sound rfl, rfl, rfl⟩

/-- What BranchesGo presumes. -/
def Goes (s : State) (i : Instr) : Prop :=
  CanBranch i s ∧ ∃ j, jumpOf (branchSeen i s) i = some j ∧
    ∀ r, j.reg = some r → (branchSeen i s).x.isEmpty r.toNat = false

/-- Taken and not taken, with the offset that names no bundle, and each way of a tree. -/
theorem test_meets_branches : Each (Goes (at0 prog))
    [.brc false 0 0x7FFFF, .brc true 0 0x7FFFF, .brc false 0 0x80000, .jmp 0x80001, .call 2 63, .ret 63, .jmpi 0 1,
     .calli 0x7FFFF 0 63, .brt ⟨21, 0, 1, 2, 3, 1, 2, 3, 4, 5⟩, .brt ⟨0, 0, 0, 0, 0, 1, 2, 0, 0, 0⟩] := by
  refine ⟨?_, ?_, ?_, ?_, ?_, ?_, ?_, ?_, ?_, ?_, trivial⟩ <;>
    exact ⟨⟨rfl, rfl, wellFormed_sound rfl, rfl⟩, _, rfl, fun r h => by cases h <;> rfl⟩

/-- Core 0 with a loop level of `n` trips whose end is address `e`, below `d` levels in all. -/
def looping (d : Nat) (n e : W64) : State :=
  at0 { progWith [(2, 1)] with prog := { (progWith [(2, 1)]).prog with
    pc := 0x100, sr := [(SR.lc 0, n), (SR.le 0, e), (SR.ldepth, BitVec.ofNat 64 d)] } }

/-- Core 0 at a bundle in memory. -/
def atCode : State := (at0 prog).withFetchWord 64 1

theorem test_meets_loop_starts : Each (fun i => CanBranch i (looping 5 0 8) ∧
    ∃ r count fin, loopOf (branchSeen i (looping 5 0 8)) i = some (r, count, fin) ∧
      (∀ k, r = some k → (branchSeen i (looping 5 0 8)).x.isEmpty k.toNat = false) ∧ count ≠ 0 ∧
      ((branchSeen i (looping 5 0 8)).x.spec SR.ldepth).toNat < 6 ∧ NoLoopEnd (branchSeen i (looping 5 0 8)).x)
    [.loop 4 2, .loopImm 4 0xFFFF] := by
  refine ⟨?_, ?_, trivial⟩ <;>
    exact ⟨⟨rfl, rfl, wellFormed_sound rfl, rfl⟩, _, _, _, rfl, fun k h => by cases h <;> rfl, by decide, by decide,
      .inr (by decide)⟩

theorem test_meets_loop_overflows : CanBranch (.loop 4 2) (looping 6 0 8) ∧
    ∃ r count fin, loopOf (branchSeen (.loop 4 2) (looping 6 0 8)) (.loop 4 2) = some (r, count, fin) ∧ count ≠ 0 ∧
      6 ≤ ((branchSeen (.loop 4 2) (looping 6 0 8)).x.spec SR.ldepth).toNat ∧
      NoLoopEnd (branchSeen (.loop 4 2) (looping 6 0 8)).x :=
  ⟨⟨rfl, rfl, wellFormed_sound rfl, rfl⟩, _, _, _, rfl, by decide, by decide, .inr (by decide)⟩

theorem test_meets_levels_pop : CanBranch (.lpop 6) (looping 6 0 8) ∧ NoLoopEnd (branchSeen (.lpop 6) (looping 6 0 8)).x ∧
    6 ≤ ((branchSeen (.lpop 6) (looping 6 0 8)).x.spec SR.ldepth).toNat :=
  ⟨⟨rfl, rfl, wellFormed_sound rfl, rfl⟩, .inr (by decide), by decide⟩

theorem test_meets_no_levels_pop : CanBranch (.lpop 6) (looping 5 0 8) ∧ NoLoopEnd (branchSeen (.lpop 6) (looping 5 0 8)).x ∧
    ((branchSeen (.lpop 6) (looping 5 0 8)).x.spec SR.ldepth).toNat < 6 :=
  ⟨⟨rfl, rfl, wellFormed_sound rfl, rfl⟩, .inr (by decide), by decide⟩

theorem test_meets_loop_end (n : W64) (h : n = 1 ∨ n = 2) : CanIssue (.snop hS) hS (looping 1 n 0x100) ∧
    (seen (.snop hS) hS (looping 1 n 0x100)).x.spec SR.ldepth = 1 ∧ (seen (.snop hS) hS (looping 1 n 0x100)).x.spec (SR.le 0) = 0x100 ∧
    ((looping 1 n 0x100).ctx 0).pc = 0x100 ∧ (seen (.snop hS) hS (looping 1 n 0x100)).x.spec (SR.lc 0) = n := by
  rcases h with rfl | rfl <;> exact ⟨issuesB_sound rfl, rfl, rfl, rfl, rfl⟩

/-- s1 is empty. -/
def s1Empty : Core := { prog with prog := { Ctx.start with empty := 2 } }

theorem test_meets_branch_stalls : Each (fun i => CanBranch i (at0 s1Empty) ∧
    ∃ r, branchReads i = some r ∧ (branchSeen i (at0 s1Empty)).x.isEmpty r.toNat = true)
    [.ret 1, .jmpi 0 1, .calli 0 2 1, .loop 4 1] := by
  refine ⟨?_, ?_, ?_, ?_, trivial⟩ <;> exact ⟨⟨rfl, rfl, wellFormed_sound rfl, rfl⟩, _, rfl, rfl⟩

/-! ## Operands, landing, traps -/

/-- An empty source with FE, an empty source without it, an empty destination. -/
theorem test_meets_empty_operands :
    (∃ e k r, operandsOf (seen (.add hS ⟨2, ⟨0, true⟩, ⟨1, true⟩⟩) hS (at0 s1Empty)) (.add hS ⟨2, ⟨0, true⟩, ⟨1, true⟩⟩) = some e ∧
      firstEmpty s1Empty true [] 0 e.srcs = some (k, r)) ∧
    (∃ e, operandsOf (seen (.add hS ⟨2, ⟨0, true⟩, ⟨1, false⟩⟩) hS (at0 s1Empty)) (.add hS ⟨2, ⟨0, true⟩, ⟨1, false⟩⟩) = some e ∧
      firstEmpty s1Empty true [] 0 e.srcs = none ∧ firstEmpty s1Empty false [] 0 e.srcs ≠ none) ∧
    (∃ e, operandsOf (seen (.add hS ⟨1, ⟨0, true⟩, ⟨2, true⟩⟩) hS (at0 s1Empty)) (.add hS ⟨1, ⟨0, true⟩, ⟨2, true⟩⟩) = some e ∧
      firstEmpty s1Empty true [] 0 e.srcs = none ∧ ∃ d ∈ e.dsts, dstEmpty s1Empty d = true) ∧
    CanIssue (.add hS ⟨2, ⟨0, true⟩, ⟨1, true⟩⟩) hS (at0 s1Empty) ∧ CanIssue (.add hS ⟨2, ⟨0, true⟩, ⟨1, false⟩⟩) hS (at0 s1Empty) ∧
    CanIssue (.add hS ⟨1, ⟨0, true⟩, ⟨2, true⟩⟩) hS (at0 s1Empty) :=
  ⟨⟨_, _, _, rfl, rfl⟩, ⟨_, rfl, rfl, by decide⟩, ⟨_, rfl, rfl, _, .head _, rfl⟩, issuesB_sound rfl, issuesB_sound rfl,
    issuesB_sound rfl⟩

theorem test_meets_false_guard : ((at0 prog).core 0).runs = true ∧ ((at0 prog).core 0).landFull = false ∧ WellFormed (.add ⟨1, true, 0⟩ ⟨1, ⟨2, false⟩, ⟨3, true⟩⟩) ∧
    ((begun (.add ⟨1, true, 0⟩ ⟨1, ⟨2, false⟩, ⟨3, true⟩⟩) (at0 prog)).ctx 0).pred 0 = true :=
  ⟨rfl, rfl, wellFormed_sound rfl, rfl⟩

/-- Results due for s1 and s3 from slots 0 and 1, and one for s2 put back from a bank. -/
def dueCore : Core :=
  { prog with prog := { Ctx.start with flight :=
    [⟨.sreg 1 10, 0, 0, false, 0, none⟩, ⟨.sreg 1 11, 0, 1, false, 16, none⟩, ⟨.sreg 2 12, 0, 0, true, 0, none⟩, ⟨.sreg 3 13, 1, 0, false, 0, none⟩] } }

theorem test_meets_results_land :
    (∀ f ∈ dueResults dueCore, writesReg 3 f = false) ∧
    (⟨.sreg 1 11, 0, 1, false, 16, none⟩ ∈ dueResults dueCore ∧
      ∀ g ∈ dueResults dueCore, writesReg 1 g = true → g = ⟨.sreg 1 11, 0, 1, false, 16, none⟩ ∨ (g.slot < 1 ∧ g.late = false)) ∧
    (⟨.sreg 2 12, 0, 0, true, 0, none⟩ ∈ dueResults dueCore ∧
      ∀ g ∈ dueResults dueCore, writesReg 2 g = true → g.late = true → g = ⟨.sreg 2 12, 0, 0, true, 0, none⟩) := by
  decide +kernel

theorem test_meets_program_trap : prog.progBank = none ∧ (lovf 0).sys = false ∧ Trap.Fits (lovf 0) 63 := by
  refine ⟨rfl, rfl, ?_⟩
  unfold Trap.Fits
  decide

/-- A program trap in a handler, and a system trap. -/
theorem test_meets_system_traps : Trap.Fits (lovf 0) 63 ∧ ({ prog with progBank := some ⟨[], []⟩ } : Core).progBank.isSome = true ∧
    Trap.Fits (addrFault 1 0) 63 ∧ (addrFault 1 0).sys = true := by
  unfold Trap.Fits
  decide

theorem test_meets_program_privilege :
    (CanIssue (.wrsr hS ⟨0x3D, ⟨1, false⟩⟩) hS (at0 prog) ∧
      SrcsReady (seen (.wrsr hS ⟨0x3D, ⟨1, false⟩⟩) hS (at0 prog)).c [] [srcRef ⟨1, false⟩] ∧ specReadOnly 0x3D = true) ∧
    (CanIssue (.svsave hC ⟨⟨1, false⟩, 0, 0, 0, 0⟩) hC (at0 prog) ∧
      SrcsReady (seen (.svsave hC ⟨⟨1, false⟩, 0, 0, 0, 0⟩) hC (at0 prog)).c [] [srcRef ⟨1, false⟩]) ∧
    (CanIssue (.svload hC ⟨⟨1, false⟩, 0, 0, 0, 0⟩) hC (at0 prog) ∧
      SrcsReady (seen (.svload hC ⟨⟨1, false⟩, 0, 0, 0, 0⟩) hC (at0 prog)).c [] [srcRef ⟨1, false⟩]) ∧
    (CanIssue (.reti hC) hC (at0 prog) ∧ ((at0 prog).ctx 0).rep = 0 ∧ (seen (.reti hC) hC (at0 prog)).c.progBank = none) :=
  ⟨⟨issuesB_sound rfl, srcsB_sound _ _ _ rfl, rfl⟩, ⟨issuesB_sound rfl, srcsB_sound _ _ _ rfl⟩,
    ⟨issuesB_sound rfl, srcsB_sound _ _ _ rfl⟩, issuesB_sound rfl, rfl, rfl⟩

theorem test_meets_supervisor_privilege :
    (CanIssue (.vadd hV ⟨4, 0, 0, 1, 2, 0, false, false⟩) hV (at0 sup) ∧
      ∃ e, [elementEffect, permuteEffect, widthEffect, maskEffect, functionEffect, blockEffect, beatEffect].findSome?
          (fun f => f (seen (.vadd hV ⟨4, 0, 0, 1, 2, 0, false, false⟩) hV (at0 sup)) (.vadd hV ⟨4, 0, 0, 1, 2, 0, false, false⟩)) = some e ∧
        srcsB (seen (.vadd hV ⟨4, 0, 0, 1, 2, 0, false, false⟩) hV (at0 sup)).c [] e.srcs = true ∧
        e.dsts.all (fun d => !dstEmpty (seen (.vadd hV ⟨4, 0, 0, 1, 2, 0, false, false⟩) hV (at0 sup)).c d) = true ∧
        e.pushes = []) ∧
    Each (fun i => CanIssue i hC (at0 sup)) [.barrive hC ⟨0⟩, .btest hC ⟨0, 1⟩, .trigger hC ⟨0, 0⟩, .bwait hC ⟨0⟩, .exit hC] ∧
    flagsDue (seen (.bwait hC ⟨0⟩) hC (at0 sup)) = 0 ∧ flagsDue (seen (.exit hC) hC (at0 sup)) = 0 ∧
    (seen (.btest hC ⟨0, 1⟩) hC (at0 sup)).x.predPending 1 = false :=
  ⟨⟨issuesB_sound rfl, _, rfl, rfl, rfl, rfl⟩,
    ⟨issuesB_sound rfl, issuesB_sound rfl, issuesB_sound rfl, issuesB_sound rfl, issuesB_sound rfl, trivial⟩, rfl, rfl, rfl⟩

/-- A beat of a matrix word. -/
def beatOf (i : Instr) : Beat := { word := encodeWord i, sc := 0, plane := 0, src := 0, buf := 0 }

/-- The five operations of OperandBeatsLand's clauses and the others of AccumulatorBeatsLand's. -/
theorem test_landing_beats :
    (beatOf (.mwld hM ⟨0, 0, false, false, 15, 0, 0, 0⟩)).word.toNat >>> 57 = 0x01 ∧
    (beatOf (.mshf hM ⟨0, 0, false, false, 0, 0, 7, 0⟩)).word.toNat >>> 57 = 0x03 ∧
    (beatOf (.mxsc hM ⟨0, 0, false, false, 0, 0, 7, 0⟩)).word.toNat >>> 57 = 0x0A ∧
    (beatOf (.mscl hM ⟨0, 0, false, false, 0, 0, 7, 0⟩)).word.toNat >>> 57 = 0x09 ∧
    (beatOf (.macc hM ⟨0, 0, true, true, 63, 0, 7, 0x20000⟩)).word.toNat >>> 57 = 0x04 ∧
    (MF.dec (beatOf (.macc hM ⟨0, 0, true, true, 63, 0, 7, 0x20000⟩)).word).low.toNat / 2 ^ 17 = 1 ∧
    (beatOf (.maccz hM ⟨0, 0, true, true, 63, 0, 7, 0⟩)).word.toNat >>> 57 = 0x05 ∧
    (beatOf (.mzero hM ⟨0, 0, false, true, 63, 0, 0, 0⟩)).word.toNat >>> 57 = 0x07 ∧
    (beatOf (.manch hM ⟨0, 0, false, true, 0, 0, 0, 0⟩)).word.toNat >>> 57 = 0x08 ∧
    ArrayState.start.anchor true ≤ 64 ∧ ArrayState.start.acc.Pairwise (fun p q => p.1 < q.1) := by decide +kernel

/-! ## Memory, decoding, the step -/

theorem test_meets_memory : memWf State.reset.mem = true ∧ memWf ((at0 prog).write 7 2 0x1234).mem = true := by decide +kernel

/-- A store of one byte at the highest address of the scratchpad of the unit, and what it stored. -/
theorem test_stored_bytes :
    isStore (.st hL ⟨2, ⟨3, false⟩, 0, false, 0, 0, 0⟩) = true ∧ WellFormed (.st hL ⟨2, ⟨3, false⟩, 0, false, 0, 0, 0⟩) ∧
    storedAt (seen (.st hL ⟨2, ⟨3, false⟩, 0, false, 0, 0, 0⟩) hL (at0 (progWith [(2, 0x5A), (3, 0x1FFFFF)])))
      (.st hL ⟨2, ⟨3, false⟩, 0, false, 0, 0, 0⟩) = [(unitKey 0 + 0x1FFFFF, 1)] ∧
    (match exec (.st hL ⟨2, ⟨3, false⟩, 0, false, 0, 0, 0⟩) (at0 (progWith [(2, 0x5A), (3, 0x1FFFFF)])) with
      | .next t => memByte t.mem (unitKey 0 + 0x1FFFFF) = 0x5A
      | _ => False) := by
  refine ⟨rfl, wellFormed_sound rfl, by decide +kernel, ?_⟩
  have h : (match exec (.st hL ⟨2, ⟨3, false⟩, 0, false, 0, 0, 0⟩) (at0 (progWith [(2, 0x5A), (3, 0x1FFFFF)])) with
      | .next t => decide (memByte t.mem (unitKey 0 + 0x1FFFFF) = 0x5A)
      | _ => false) = true := by decide +kernel
  split at h
  · simpa using h
  · simp at h

/-- A step of the state after reset, and of a core with code. -/
theorem test_meets_steps : (match step State.reset with | .next _ => true | _ => false) = true ∧
    (match step atCode with | .next _ => true | _ => false) = true := by decide +kernel

theorem test_meets_step_runs :
    let i : Instr := .addImm hS ⟨7, ⟨8, false⟩, 0xFFFFFFFD⟩
    let s := (at0 prog).withFetchWord 128 (((encode i).getD 0 0).toNat + ((encode i).getD 1 0).toNat * 2 ^ 64)
    wellFormed i = true ∧ (hdrOfInstr i).isSome = true ∧ s.agenda = [] ∧ (s.core s.turn).runs = true ∧
    ((s.modCore s.turn Core.countCycle).core s.turn).dueTrap = none ∧ (s.ctx s.turn).cur = none ∧ (s.ctx s.turn).rep = 0 ∧
    (s.ctx s.turn).pc.toNat % 8 = 0 ∧
    (fetchWords (s.modCore s.turn Core.countCycle) s.turn (s.ctx s.turn).pc (encode i).length).2 = .ok (encode i) := by
  decide +kernel

/-- A bundle of an operation with a false guard. -/
theorem test_meets_nullifier : (at0 prog).ctx 0 = Ctx.start ∧
    (soloBundle (.add ⟨0, true, 0⟩ ⟨1, ⟨2, false⟩, ⟨3, true⟩⟩)).rep = 0 ∧
    Ctx.start.nullified (soloBundle (.add ⟨0, true, 0⟩ ⟨1, ⟨2, false⟩, ⟨3, true⟩⟩)) = true := by decide +kernel

theorem test_meets_halted : answeredWhenHalted (.coreCtlStop 0) = false ∧ moveInstr (.coreCtlStop 0) = some .coreCtlStop :=
  ⟨rfl, rfl⟩

/-! ## Events -/

/-- An event of the table is due at a state of a running package, and its instruction changes the state. -/
def eventB (T : Move → State → Option (State → Prop)) (e : Move × State) : Bool :=
  !e.2.sec.halted && (T e.1 e.2).isSome &&
  (match moveInstr e.1 with
    | some i => (match exec i { e.2 with agenda := e.1 :: e.2.agenda } with
      | .next t => decide (t ≠ e.2)
      | _ => false)
    | none => false)

/-- What such a check shows: the premises of `Happens T` are met. -/
theorem event_sound {T : Move → State → Option (State → Prop)} {m : Move} {u : State} (h : eventB T (m, u) = true) :
    ∃ i P, u.sec.halted = false ∧ moveInstr m = some i ∧ T m u = some P := by
  simp only [eventB, Bool.and_eq_true, Bool.not_eq_true'] at h
  obtain ⟨⟨h1, h2⟩, h3⟩ := h
  obtain ⟨P, hp⟩ := Option.isSome_iff_exists.1 h2
  split at h3
  · rename_i i hi; exact ⟨i, P, h1, hi, hp⟩
  · simp at h3

/-- A booted package, core 0 of which is `c`. -/
def booted (c : Core) : State := { at0 c with sec := { Security.start with phase := .ready } }
/-- A booted package. -/
def ready : State := { State.reset with sec := { Security.start with phase := .ready } }
/-- A booted package whose first 1 GiB of addresses is mapped. -/
def mapped : State :=
  let s := State.reset.withFetchWord 64 1
  { s with cores := [], sec := { Security.start with phase := .ready } }
/-- A core in program mode that awaits a result of number 5. -/
def awaits (k : VarKind) : Core := { prog with prog := { Ctx.start with empty := 2, vars := [⟨5, k, 0, false⟩] } }
/-- A ring of 16 records with one to read. -/
def oneRecord : Ring := { Ring.start with head := 1 }
/-- The queues 63 and 79 take entries. -/
def withQueues (s : State) : State :=
  { s with sched := { Sched.start with queues := [(63, { Queue.start with disabled := false }), (79, { Queue.start with disabled := false })] } }
def openQueues : State := withQueues ready
/-- A slate of 2 steps for cluster 0. -/
def slate : BitVec 2048 := BitVec.ofNat 2048 (2 * 2 ^ 192 + 2 ^ 384 + 2 ^ 400 + 2 ^ 448 + 2 ^ 512)
/-- The slate stands in memory. -/
def withSlate : State := written (withQueues mapped) 0x300000 256 slate.toNat
/-- A storyboard entry that signals counter 1: KIND 5, DCTR 1, DINC 1. -/
def signal : BitVec 256 := BitVec.ofNat 256 (5 * 2 ^ 61 + 2 ^ 29 + 1)
/-- Board 63 is loaded with `es`. -/
def withBoard (s : State) (es : List (BitVec 256)) : State :=
  { s with coll := { s.coll with boards := [(63, { Board.start with loaded := true, entries := es })] } }
/-- The storyboard image stands in memory. -/
def withImage : State := written (withQueues mapped) 0x300000 32 signal.toNat
set_option maxRecDepth 20000 in
theorem test_events_window :
    List.all [(.counterAddWrite 4095 5, ready), (.counterSetWrite 4095 5, ready), (.evtIrqWrite 1023 false 0x8000000000000000, ready),
     (.evtIrqWrite 0 true 7, ready), (.fabricPkgidWrite 0xFFF, ready), (.fabricDimsWrite 0xFFF, ready), (.dmConfigWrite 360, ready),
     (.dmConfigWrite 361, ready), (.xlRootWrite 0xFFFFFFFFFFFF, ready), (.xlInvalWrite 0x3000000000010000, ready),
     (.ringConfigWrite .error true 16, ready), (.ringConfigWrite (.queue 79) false 64, ready),
     (.ringTailWrite .translation 1, { ready with xl := { Xlat.start with ring := oneRecord } }),
     (.secPolicyWrite 0x80000000000000FF, ready), (.registerWrite 0x10FFC8 8 8, ready), (.registerWrite 0x10FFD0 8 0x4000, ready),
     (.registerWrite 0x200000 8 0xFFFF, ready), (.registerWrite 0x2014C0 8 0x1000, ready), (.registerWrite 0x500000 8 0x1F00, ready),
     (.registerWrite 0x600010 8 0, ready), (.registerWrite 0x900000 8 800, ready), (.coreCtlStop 0, booted prog),
     (.coreCtlEnd 0, booted prog), (.coreCtlFence 0, booted prog)] (eventB windowTable) = true := by decide +kernel


set_option maxRecDepth 20000 in
theorem test_events_queues :
    List.all [(.queueReset 0 (controlEntry 0), { ready with sched := { Sched.start with queues := [(0, { Queue.start with kept := 1 })] } }),
     (.queueReset 64 (controlEntry 0), ready), (.queueSetInOrder 63 (controlEntry 1), ready),
     (.queueSetConcurrent 79 (controlEntry 2), ready), (.queueDisable 0 (controlEntry 3), ready),
     (.queueEnable 79 (controlEntry 4), ready), (.launchByDelta 0 0, ready), (.launchByDelta 63 0, openQueues),
     (.launchByReference 63 (BitVec.ofNat 512 (2 ^ 32 + 0x1000 * 2 ^ 64)), openQueues),
     (.launchByReference 63 (BitVec.ofNat 512 (2 ^ 32 + 0x300000 * 2 ^ 64)), withSlate),
     (.storyboardLoad 79 (BitVec.ofNat 512 (3 * 2 ^ 32 + (63 + 2 ^ 16) * 2 ^ 64 + 0x1000000000300000 * 2 ^ 128)), withImage),
     (.storyboardRun 79 (BitVec.ofNat 512 (2 * 2 ^ 32 + 63 * 2 ^ 64 + 0x1000000000300000 * 2 ^ 128)), withBoard openQueues [signal]),
     (.submissionStrayWrite 79, ready), (.submissionStrayWrite 127, ready)] (eventB queueTable) = true := by decide +kernel
/-- A package with a mailbox command under way. -/
def withCmd (k len : Nat) : State :=
  { ready with sec := { Security.start with phase := .awaiting, cmd := k, running := k, done := false, len := len, verified := true } }
/-- A package whose sideband address is 9. -/
def addressed : State := { ready with pow := { Power.start with address := some 9 } }
/-- A package whose port 0 is down. -/
def portDown : State := { ready with coll := { Coll.start with links := [(0, { Link.start with down := true })] } }
/-- Set 0 is in make-good, without its channel 1. -/
def makingGood : State :=
  { ready with dm := { DevMem.start with sets := [(0, { ParitySet.start with mode := .makeGood, retired := 1 })] } }

set_option maxRecDepth 20000 in
theorem test_events_service :
    List.all [(.mboxImageChunk, withCmd 2 4), (.mboxImageEnd [] true, withCmd 3 0), (.mboxImageReset, withCmd 4 0),
     (.mboxUnknownCommand, withCmd 5 0), (.mboxAttest, withCmd 1 31), (.resetRelease ⟨[], false, true⟩, ready),
     (.resetRelease ⟨[], true, true⟩, ready), (.powerCycle, ready), (.sensorAlarm 1, ready), (.sensorAlarm 15, booted prog),
     (.powerManagerTick 2401, ready), (.powerManagerTick 2000, { ready with pow := { Power.start with step := 3, lowTicks := 9 } }),
     (.thermalStepTick 100, ready), (.thermalStepTick 94, { ready with pow := { Power.start with hot := true } }),
     (.thermalTrip 110, ready), (.i3cTelemetryRead 9, addressed), (.i3cCapWrite 9 800, addressed), (.i3cStatusRead 9, addressed),
     (.i3cFenceMapRead 9, addressed), (.i3cUnknownCommand 9 5, addressed), (.entdaa 9, ready)] (eventB serviceTable) = true := by
  decide +kernel

theorem test_attest : (serviceTable .mboxAttest (withCmd 1 32)).isSome = true ∧ moveInstr .mboxAttest = some .mboxAttest := by
  decide +kernel

/-- All of device memory is protected. -/
def allProtected : State := { ready with dm := { DevMem.start with pgran := 360, locked := true } }

set_option maxRecDepth 20000 in
theorem test_events_hardware :
    List.all [(.hwErrorEvent 0x10 .pseudoChannel 0 0 .none none, ready), (.hwErrorEvent 0x12 .pseudoChannel 511 64 .none none, ready),
     (.hwErrorEvent 0x1C .pseudoChannel 0 65536 .none none, ready), (.hwErrorEvent 0x21 .core 0 0 (.array 0) none, booted prog),
     (.hwErrorEvent 0x26 .alu 8 0 .none none, ready), (.hwErrorEvent 0x22 .ucie 3 0 .none none, ready),
     (.hwErrorEvent 0x12 .pseudoChannel 0 0 .none (some 14), allProtected), (.hwErrorEvent 0x12 .pseudoChannel 0 0 .none (some 15), allProtected),
     (.hwErrorEvent 0x12 .pseudoChannel 0 0 .none (some 16), allProtected), (.hwErrorEvent 0x12 .pseudoChannel 0 0 .none (some 0), allProtected), (.makeGoodRebuild 0 none, makingGood), (.makeGoodRebuild 0 (some 15), makingGood),
     (.hbmRetrain 511 false, ready), (.hbmRetrain 0 false, makingGood), (.selfRefreshEntry 511, { ready with time := 100000 }),
     (.portRetrainingComplete 0 true, portDown), (.portRetrainingComplete 0 false, portDown), (.flitReceive 5 [], ready)]
    (eventB hardwareTable) = true := by decide +kernel
/-- Registers s1 to s7 await a step of launch 0, whose slate has two steps. -/
def stepping (a : Option (Option Nat)) : Core :=
  let x := { (awaits (.step 1 a)).prog with empty := 254 }
  { prog with launch := some 0, claim := some (0, false), prog := x }
/-- A launch that runs on cores 0 and 1 of cluster 0. -/
def running : Launch :=
  let l := newLaunch 0 63 slate
  { l with phase := .running, clusters := [0, 1], held := [0], walkers := [⟨0, true, 0, 2⟩], started := [0, 1] }
/-- A package with launches. -/
def withLaunch (s : State) (l : Launch) : State :=
  let q := { Queue.start with disabled := false, launches := [l.id] }
  { s with sched := { s.sched with launches := [(l.id, l)], nextLaunch := l.id + 1, queues := [(63, q)] } }
/-- An access that has performed. -/
def performed (k : RKind) (dst : RDst) (got : Nat) : Racc :=
  { id := 6, waits := [], acq := false, reads := true, kind := k,
    cells := [{ key := 0, bytes := 4, data := 0, en := 0, exp := 0, got := some got, done := true }], dst := dst, pc := 0,
    handler := false, handle := none }
/-- A port of one line. -/
def oneLine : Port := { Port.start with conf := true, record := BitVec.ofNat 512 (2 ^ 64 + 2 ^ 96 + 2 ^ 128 + 2 ^ 160) }
/-- Core 0 has given a region to core 1, and core 1 has the offer. -/
def lending : State :=
  let giver : Core := { prog with lent := [⟨0, 0, 1, 1, false, 0, 1, none, false⟩], nextLent := 1 }
  let taker : Core := { awaits (.htake 1 3) with offers := [⟨0, 0, 0, 1⟩], held := [(3, ⟨true, 0, 0, 0, 1⟩)] }
  { ready with cores := [(0, giver), (1, taker)] }
/-- The submission of an entry to queue 0 from a core. -/
def submitting (a : Option Nat) : Core := awaits (.submit 1 0 0 false [] a)
/-- The members of a group load of cores 0 and 1. -/
def reading (got : FMap W32) : VarKind := .gload 0 0 4 0 none 1 3 [(0, some got), (1, some got)] false false []

set_option exponentiation.threshold 2000 in
set_option maxRecDepth 20000 in
theorem test_events_cores :
    List.all [(.bundleIssue 0, booted prog), (.bundleIssue 0, { mapped with cores := [(0, prog)] }),
     (.bundleIssue 0, booted { prog with machineErr := some 1 }),
     (.bundleIssue 0, { mapped with cores := [(0, { prog with prog := { Ctx.start with rep := 1 } })] }),
     (.nullifierSkip 0, { mapped with cores := [(0, { prog with prog := { Ctx.start with pc := 0x300000 } })] }),
     (.resultLanding 0, booted { dueCore with mode := .exiting }),
     (.variableResultArrival 0 6, booted { prog with prog := { Ctx.start with empty := 2, racc := [performed .load (.sreg 1 32 true) 0x80000000] } }),
     (.variableResultArrival 0 6, booted { prog with prog := { Ctx.start with racc := [performed .store .none 0] } }),
     (.variableResultArrival 0 5, booted (awaits (.tfind 1 3 0 0))),
     (.deferredLoadErrorTrap 0, booted { prog with loadErrors := [⟨8, false⟩] }),
     (.machineErrorTrap 0, booted { prog with machineErr := some 1 }), (.preemptionStop 0, booted { prog with preempt := some true }),
     (.preemptHeldTimeout 0, booted { prog with preempt := some true, progBank := some ⟨[], []⟩, handlerIssues := 65536 }),
     (.systemTrapEntry 0, booted { prog with mode := .trapping, sysBank := some ⟨[], []⟩ }),
     (.stepDelivery 0, withLaunch (booted (stepping (some (some 1)))) running),
     (.stepDelivery 0, withLaunch (booted (stepping (some none))) running),
     (.copynbStatus 0 5, booted (awaits (.copynb 1 0 [] []))), (.submitStatus 0 5, booted (submitting (some 1))),
     (.submitStatus 0 5, booted (submitting none)), (.skimStatus 0 5, booted (awaits (.skim 1 2))),
     (.readPortFill 0 7, booted { prog with ports := [(7, oneLine)] }),
     (.writePortWrite 0 11, booted { prog with ports := [(11, { oneLine with queue := [5], pushed := 1 })] }),
     (.groupLoadMemberRead 0 5 1 1, { inGroup (awaits (reading [])) with sec := ready.sec }),
     (.groupLoadComplete 0 5, { inGroup (awaits (reading [(0, 7)])) with sec := ready.sec }),
     (.htakeOfferAccept 1, lending),
     (.handleReturnComplete 0 0, booted { prog with prog := { Ctx.start with empty := 2 }, lent := [⟨0, 0, 1, 1, false, 0, 1, some 0, false⟩] }),
     (.exitComplete 0, withLaunch (booted { prog with mode := .exiting, launch := some 0 }) running),
     (.svCommandComplete 0 9, booted { sup with svCmds := [⟨9, true, 0, 5, 0, [], [(0, 8, 1)], [], false⟩] })]
    (eventB coreTable) = true := by decide +kernel
/-- A copy of core 0 that fills one word of device memory at 0x300000. -/
def copyOf (p : CopyPhase) (failed : Bool) (progress : Nat) : Copy :=
  { id := 0, core := 0, sup := false, record := BitVec.ofNat 512 (0x1000000000300000 * 2 ^ 64 + 2 ^ 209 + 2 ^ 224), phase := p,
    readWaits := [], writeWaits := [], earlier := [], failed := failed, progress := progress, data := [], done := [], due := none,
    orphan := false, sent := [], lifted := false }
/-- A package with a copy, a count of one of tag 0, and a request parked as 3. -/
def copying (p : CopyPhase) (failed : Bool) (progress : Nat) : State :=
  let c := { prog with prog := { Ctx.start with oc := [(0, 1)] } }
  { booted c with copies := [copyOf p failed progress] }
/-- A copy's request is parked as 3. -/
def parkedCopy : State :=
  { copying (.parked 3 1 0x10 0x300000 true) false 0 with
    xl := { Xlat.start with parked := [(3, ⟨.copy, 0, 1, 0x10, 0x300000, true, 0, 0⟩)] } }

set_option exponentiation.threshold 2000 in
set_option maxRecDepth 20000 in
theorem test_events_engines :
    List.all [(.copyStart 0, copying .queued false 0), (.copyComplete 0, copying .started false 1),
     (.copyComplete 0, copying .started true 0),
     (.xlInvalComplete, { ready with xl := { Xlat.start with invals := [⟨true, 0, 65536, some 4095, 0⟩] } }),
     (.xlResolveResume 3, parkedCopy), (.xlResolveAbort 3, parkedCopy), (.hostDevmemAccess 0 4 (some [1, 2, 3, 4]), ready),
     (.hostDevmemAccess 0 4 none, ready), (.hostDevmemAccess (2 ^ 40) 1 none, ready)] (eventB engineTable) = true := by
  decide +kernel

/-- The request of a copy that does not translate: its PARKID is free. -/
theorem test_parks : (copying .started false 0).sec.halted = false ∧
    (engineTable (.translationFaultPark ⟨.copy, 0, 0, 0x10, 0x300000, true, 0, 0⟩) (copying .started false 0)).isSome = true ∧
    ((copying .started false 0).translate 0x300000 true).2.isOk = false := by decide +kernel

/-- The launch with its walkers done. -/
def walked (phase : LaunchPhase) (deadline : Option Nat) : Launch :=
  { running with phase := phase, triggered := 2, retired := 2, walkers := [⟨0, true, 2, 2⟩], finished := [0, 1], early := true,
                 deadline := deadline }
/-- A launch that waits in its queue, and one with a group list at 0x300000. -/
def waiting : Launch := newLaunch 0 63 slate
def withGroups : Launch := newLaunch 0 63 (slate ||| BitVec.ofNat 2048 (0x300000 * 2 ^ 128 + 2 ^ 176))

set_option exponentiation.threshold 2000 in
set_option maxRecDepth 20000 in
theorem test_events_launches :
    List.all [(.groupListRead 0, withLaunch mapped withGroups), (.launchAdmission 0, withLaunch ready waiting),
     (.clusterJoin 0 1, withLaunch ready running), (.stepService 0, withLaunch (booted (stepping none)) running),
     (.earlyTriggerAdd 0, withLaunch ready { walked .running none with early := false }),
     (.launchCompletion 0, withLaunch ready (walked .running none)),
     (.preemptionDeadlineExpiry 0, withLaunch (booted prog) (walked (.stopping false) (some 0))),
     (.launchPreempted 0, withLaunch mapped { walked (.stopping true) none with started := [], finished := [] }),
     (.launchResume 0, withLaunch mapped { waiting with phase := .preempted, savedHeld := [0] })] (eventB launchTable) = true := by
  decide +kernel

theorem test_ageing : (launchTable (.priorityAgeing 0) ready).isSome = true ∧ moveInstr (.priorityAgeing 0) = some .priorityAgeing := by
  decide +kernel
/-- Entries of KIND 0 and 1 of 256 bytes, with package 1 and address 0x300000 of device memory. -/
def noticeEntry : BitVec 256 := BitVec.ofNat 256 (2 ^ 16 + 2 ^ 80 + 0x1000000000300000 * 2 ^ 128)
def pullEntry : BitVec 256 := BitVec.ofNat 256 (2 ^ 61 + 2 ^ 16 + 2 ^ 80 + 0x1000000000300000 * 2 ^ 192)
/-- Package 1's notice of that length for run 1 of board 63. -/
def noticeOf : NoticeRec := ⟨63, 1, 0, 1, 1, 0, 0x1000000000300000, 0, 0⟩
/-- Run 0 of board 63 has one entry, and holds the notice of package 1. The fabric has two packages. -/
def runningBoard (p : RunPhase) (e : BitVec 256) (q : EntryPhase) : State :=
  let r : Run := { id := 0, board := 63, queue := 79, base := 0x1000000000400000, seq := if p = .waiting then 0 else 1, phase := p,
                   entries := if p = .waiting then [] else [⟨e, q, 1⟩] }
  let b := { Board.start with loaded := true, entries := [e], members := [(0, 0), (1, 1)], runseq := if p = .waiting then 0 else 1 }
  { withQueues mapped with
    sched := { Sched.start with queues := [(79, { Queue.start with disabled := false, items := [.run 0] })] },
    coll := { Coll.start with boards := [(63, b)], runs := [(0, r)], nextRun := 1, tables := [(0, [⟨noticeOf, false⟩])], dims := 1 } }

set_option exponentiation.threshold 2000 in
set_option maxRecDepth 20000 in
theorem test_events_collectives :
    List.all [(.runArming 0, runningBoard .waiting signal .armed), (.entryFire 0 0, runningBoard .armed signal .due),
     (.entryFire 0 0, runningBoard .armed noticeEntry .due), (.entryFire 0 0, runningBoard .armed pullEntry .due),
     (.noticeReceive 5 noticeOf, ready), (.noticeRepost 0 0, runningBoard .armed noticeEntry (.backoff 1 0)),
     (.pullNoticeMatch 0 0, runningBoard .armed pullEntry .matching),
     (.roomAcquire 0 0, runningBoard .armed pullEntry (.waiting (some noticeOf))),
     (.pullDataArrival 0 0 [1, 2] [], runningBoard .armed pullEntry (.reading noticeOf false false)),
     (.noticeComplete 0 0, runningBoard .armed noticeEntry (.posted 0)), (.entryComplete 0 0, runningBoard .armed signal .moved)]
    (eventB collectiveTable) = true := by decide +kernel

/-- A skim record of SGD on `count` f32 elements at 0x300000, with its gradient and moment above. -/
def skimRecord (low cols count : Nat) : BitVec 1024 :=
  BitVec.ofNat 1024 (low + 0x880 + cols * 2 ^ 288 + count * 2 ^ 320 + 0x1000000000300000 * 2 ^ 384 + 0x1000000000310000 * 2 ^ 448 +
    0x1000000000320000 * 2 ^ 704)
/-- The engines' part of a job. -/
def job (r : BitVec 1024) (engines : FMap EngineState) : State :=
  { mapped with skim := { Skim.start with jobs :=
    [{ id := 0, record := r, range := none, waits := [], core := 0, engines := engines, blocks := [], stuck := [], owners := [] }] } }
/-- The engines have found that engine 17 owns the page of the masters. -/
def owned (u : State) : State :=
  { u with skim := { u.skim with jobs := u.skim.jobs.map (fun j => { j with owners := [(0x30, 17)] }) } }
/-- Every engine has done its part. -/
def allUpdated : FMap EngineState := (List.range 32).map (fun e => (e, .updated))

set_option exponentiation.threshold 2000 in
set_option maxRecDepth 20000 in
theorem test_events_skims :
    List.all [(.skimEngineStart 31, job (skimRecord 0 0 1) []), (.skimEngineStart 0, job (skimRecord 0 0 1) []),
     (.skimBlockQuantise 0 0, owned (job (skimRecord 0x2000 16 256 ||| BitVec.ofNat 1024 (0x1000000000330000 * 2 ^ 576)) allUpdated)),
     (.skimRecordComplete 0, job (skimRecord (2 ^ 32 + 2 ^ 20 + 2 ^ 40) 0 1) allUpdated)] (eventB skimTable) = true := by decide +kernel

/-- Two walkers of a launch; a partition of 2 steps. -/
def shared (a b : Nat) : Launch := { waiting with walkers := [⟨0, true, a, 1⟩, ⟨1, true, b, 2⟩] }

theorem test_indices_once :
    0 < slGrain slate ∧ ((shared 0 1).walkers.map (·.cluster)).Nodup ∧ slOrdered (shared 0 1).slate = false ∧
    ((partition slate [0, 1] [0, 1]).map (fun w => (w.next, w.stop))) = [(0, 1), (1, 2)] ∧
    ((shared 0 1).serve 0).2 = some (0, false) ∧ ((shared 1 2).serve 0).2 = none := by decide +kernel

/-! ## Further premises: supervisor mode, returns, landing, pairs -/

/-- What SupervisorModePrivilege presumes of the operations outside V, X and M. -/
def Forbidden (s : State) (i : Instr) : Prop :=
  ∃ h e, CanIssue i h s ∧ (s.core s.turn).inSup = true ∧ programOnlyForm (seen i h s) i = some e ∧ SrcsReady (seen i h s).c [] e.srcs ∧
    DstsReady (seen i h s).c e.dsts e.pushes ∧ e.ready

theorem forbidden_of {s : State} {i : Instr} (h : Hdr) {e : Effect} (sup : (s.core s.turn).inSup = true)
    (te : programOnlyForm (seen i h s) i = some e) (r : e.ready) (a : issuesB i h s = true)
    (b : srcsB (seen i h s).c [] e.srcs && e.dsts.all (fun d => !dstEmpty (seen i h s).c d) &&
      e.pushes.all (fun p => (pushFault (seen i h s).c [] p).isNone && !pushFull (seen i h s).c [] p) = true) :
    Forbidden s i := by
  simp only [Bool.and_eq_true, Bool.not_eq_true', List.all_eq_true, Option.isNone_iff_eq_none, decide_eq_true_eq] at b
  exact ⟨h, e, issuesB_sound a, sup, te, srcsB_sound _ _ _ b.1.1, ⟨b.1.2, b.2⟩, r⟩

set_option exponentiation.threshold 5000 in
set_option maxRecDepth 20000 in
/-- The line forms and the port operations (NUM 4). -/
theorem test_forbidden_lines : Each (Forbidden (at0 sup)) [
    .ldl hL ⟨0x809, true, 0, 0, ⟨2, true⟩, 0, 512⟩, .ldlPostinc hL ⟨0, false, 0, 0, ⟨2, true⟩, 0, 512⟩,
    .stl hL ⟨0x809, true, 0, 0, ⟨2, true⟩, 0, 512⟩, .stlPostinc hL ⟨0, false, 0, 0, ⟨2, true⟩, 0, 512⟩,
    .ldx hL ⟨0, true, 1, 0, 0, 0x81, ⟨2, true⟩, 7, true, false⟩, .stx hL ⟨0, false, 2, 0, 0, 0x81, ⟨2, true⟩, 7, false, true⟩,
    .amol hL ⟨0x81, 0, 0, 0, ⟨2, true⟩, 4, 0, 512⟩, .pcfg hL ⟨0, ⟨2, true⟩, 0⟩] := by
  repeat' first | exact trivial | refine And.intro (forbidden_of hL rfl rfl (fun _ _ => rfl) rfl rfl) ?_

set_option exponentiation.threshold 5000 in
set_option maxRecDepth 20000 in
/-- Group loads, PRST, HTAKE, and the step and barrier operations (NUM 4 and 5). -/
theorem test_forbidden_others : Each (Forbidden (at0 sup))
    [.gld hL ⟨0, 0, 0, 0, ⟨2, true⟩, 4, 3, 0⟩, .glds hL ⟨1, 0, 1, 0, ⟨2, true⟩, 4, 3, 0⟩, .htake hL ⟨1, 15⟩, .prst hL ⟨11⟩] ∧
    Each (Forbidden (at0 sup)) [.hback hL ⟨15⟩, .hgive hL ⟨1, ⟨2, false⟩, ⟨3, false⟩⟩] ∧
    Each (Forbidden (at0 sup)) [.step hC ⟨57⟩, .trigger hC ⟨0, 0⟩, .barrive hC ⟨0⟩, .btest hC ⟨0, 1⟩, .bwait hC ⟨0⟩, .exit hC] := by
  refine ⟨⟨?_, ?_, ?_, ?_, trivial⟩, ⟨?_, ?_, trivial⟩, ?_, ?_, ?_, ?_, ?_, ?_, trivial⟩
  · exact forbidden_of hL rfl rfl trivial rfl rfl
  · exact forbidden_of hL rfl rfl trivial rfl rfl
  · exact forbidden_of hL rfl rfl trivial rfl rfl
  · exact forbidden_of hL rfl rfl (fun _ => rfl) rfl rfl
  · exact forbidden_of hL rfl rfl rfl rfl rfl
  · exact forbidden_of hL rfl rfl ⟨rfl, by decide⟩ rfl rfl
  · exact forbidden_of hC rfl rfl trivial rfl rfl
  · exact forbidden_of hC rfl rfl trivial rfl rfl
  · exact forbidden_of hC rfl rfl trivial rfl rfl
  · exact forbidden_of hC rfl rfl trivial rfl rfl
  · exact forbidden_of hC rfl rfl rfl rfl rfl
  · exact forbidden_of hC rfl rfl rfl rfl rfl

/-- A core in its handler that returns. -/
theorem test_meets_handler_return : CanIssue (.reti hC) hC (at0 { prog with progBank := some ⟨[], []⟩ }) ∧
    ((begun (.reti hC) (at0 { prog with progBank := some ⟨[], []⟩ })).core 0).progBank = some ⟨[], []⟩ ∧
    ((at0 { prog with progBank := some ⟨[], []⟩ }).ctx 0).rep = 0 := ⟨issuesB_sound rfl, rfl, rfl⟩

/-- Levels 0 and 1 end at the bundle; the upper one is at its last trip, the lower has `n` trips left. -/
def sharing (n : W64) : State :=
  at0 { prog with prog := { Ctx.start with
    pc := 0x100, sr := [(SR.lc 0, n), (SR.lc 1, 1), (SR.le 0, 0x100), (SR.le 1, 0x100), (SR.ldepth, 2)] } }

/-- LoopEndTest's third clause at its lowest level, and where every level ends. -/
theorem test_meets_shared_end (n : W64) (h : n = 1 ∨ n = 2) : CanIssue (.snop hS) hS (sharing n) ∧
    (seen (.snop hS) hS (sharing n)).x.spec SR.ldepth = BitVec.ofNat 64 (1 + 1) ∧
    (∀ l, l ≤ 1 → 0 < l → (seen (.snop hS) hS (sharing n)).x.spec (SR.lc l) = 1) ∧
    (∀ l, l ≤ 1 → 0 ≤ l → (seen (.snop hS) hS (sharing n)).x.spec (SR.le l) = ((sharing n).ctx 0).pc) ∧
    ((seen (.snop hS) hS (sharing n)).x.spec (SR.lc 0) ≠ 1 ↔ n = 2) := by
  rcases h with rfl | rfl <;> refine ⟨issuesB_sound rfl, rfl, ?_, ?_, ?_⟩ <;> decide +kernel

/-- Results of every kind that are due: two for one predicate, one of them put back; a mask, a line and a special register
under a second one of a higher slot; a clear of tags; a pushed line. -/
def dueOthers : Core :=
  { prog with ports := [(8, { Port.start with conf := true })], prog := { Ctx.start with flight :=
    [⟨.pred 5 true, 0, 5, false, 0, none⟩, ⟨.pred 5 false, 0, 4, true, 0, none⟩, ⟨.mask 3 1 1, 0, 4, false, 0, none⟩, ⟨.mask 3 0 3, 0, 5, false, 0, none⟩,
     ⟨.lines 0 1 [1, 1], 0, 4, false, 4, none⟩, ⟨.lines 1 3 [2], 0, 5, false, 0, none⟩, ⟨.special SR.fpctl 7, 0, 0, false, 0, none⟩,
     ⟨.special SR.fpctl 0xFD, 0, 1, false, 0, none⟩, ⟨.tclr 3, 0, 8, false, 0, none⟩, ⟨.push 0 5, 0, 4, false, 0, none⟩] } }

theorem test_meets_others_land :
    LandsLast dueOthers (fun f => match f.eff with | .pred 5 _ => true | _ => false) ⟨.pred 5 false, 0, 4, true, 0, none⟩ ∧
    LandsLast dueOthers (fun f => match f.eff with | .mask 3 _ en => en.getLsbD 0 | _ => false) ⟨.mask 3 0 3, 0, 5, false, 0, none⟩ ∧
    LandsLast dueOthers (fun f => (cellBit 0 1 0 0 f).isSome) ⟨.lines 1 3 [2], 0, 5, false, 0, none⟩ ∧
    cellBit 0 1 0 0 ⟨.lines 1 3 [2], 0, 5, false, 0, none⟩ = some false ∧ cellBit 0 1 0 0 ⟨.lines 0 1 [1, 1], 0, 4, false, 4, none⟩ = some true ∧
    cellBit 0 127 127 31 ⟨.antidiag 0x17E 0xFFFFFFFF 0, 0, 2, true, 0, none⟩ = none ∧
    LandsLast dueOthers (fun f => (specWritten SR.fpctl f).isSome) ⟨.special SR.fpctl 0xFD, 0, 1, false, 0, none⟩ ∧
    specWritten SR.fpctl ⟨.special SR.fpctl 0xFD, 0, 1, false, 0, none⟩ = some 5 ∧
    specWritten SR.fpctl ⟨.special SR.fpctl 7, 0, 0, false, 0, none⟩ = some 0 ∧
    (dueResults dueOthers).all (fun f => !isBeat f) = true ∧ (dueResults dueOthers).filterMap (pushedLine 0) = [5] ∧
    (dueResults dueOthers).any (clearsTag 1) = true := by
  unfold LandsLast
  decide +kernel

/-- One word of every class of beat: signed bytes, FP8, MX, 16-bit and 4-bit operands at the last column group. -/
theorem test_meets_contributions :
    [(0, 0, 1), (11, 11, 1), (12, 0, 1), (9, 10, 3), (13, 13, 0), (6, 13, 0)].map (fun (w, s, g) =>
      let o := MF.dec (beatOf (.macc hM ⟨BitVec.ofNat 4 w, BitVec.ofNat 4 s, true, true, 63, 0, 7, BitVec.ofNat _ (g * 2 ^ 17)⟩)).word
      (macClass o.wty o.sty, decide ((macClass o.wty o.sty).getD 0 * (o.low.toNat / 2 ^ 17) + (macClass o.wty o.sty).getD 0 ≤ 128))) =
    [(some 64, true), (some 64, true), (some 64, true), (some 32, true), (some 128, true), (some 128, true)] := by decide +kernel

/-- Slot 1. -/
def hS1 : Hdr := ⟨1, false, 0⟩
/-- A booted package at whose core 0 the bundle of two operations is under way. -/
def pairing (c : Core) (i j : Instr) : State := booted { c with prog := { c.prog with cur := some (pairBundle i j) } }

/-- Two operations that issue together, and a pair of which one reads an empty register. -/
theorem test_meets_pairs :
    (PairUnderWay (.add hS ⟨1, ⟨2, false⟩, ⟨3, true⟩⟩) (.fadd hS1 ⟨4, ⟨2, false⟩, ⟨3, true⟩, 5⟩) hS hS1 0
        (pairing prog (.add hS ⟨1, ⟨2, false⟩, ⟨3, true⟩⟩) (.fadd hS1 ⟨4, ⟨2, false⟩, ⟨3, true⟩, 5⟩)) ∧
      ∃ e f, scalarEffect (bundleSeen 0 0 (.add hS ⟨1, ⟨2, false⟩, ⟨3, true⟩⟩)
            (pairing prog (.add hS ⟨1, ⟨2, false⟩, ⟨3, true⟩⟩) (.fadd hS1 ⟨4, ⟨2, false⟩, ⟨3, true⟩, 5⟩)))
          (.add hS ⟨1, ⟨2, false⟩, ⟨3, true⟩⟩) = some e ∧
        scalarEffect (bundleSeen 0 1 (.fadd hS1 ⟨4, ⟨2, false⟩, ⟨3, true⟩, 5⟩)
            (pairing prog (.add hS ⟨1, ⟨2, false⟩, ⟨3, true⟩⟩) (.fadd hS1 ⟨4, ⟨2, false⟩, ⟨3, true⟩, 5⟩)))
          (.fadd hS1 ⟨4, ⟨2, false⟩, ⟨3, true⟩, 5⟩) = some f ∧
        srcsB prog [] e.srcs = true ∧ srcsB prog [] f.srcs = true ∧ (e.dsts ++ f.dsts).all (fun d => !dstEmpty prog d) = true) ∧
    PairUnderWay (.add hS ⟨4, ⟨2, false⟩, ⟨3, true⟩⟩) (.sub hS1 ⟨5, ⟨1, false⟩, ⟨3, true⟩⟩) hS hS1 0
        (pairing s1Empty (.add hS ⟨4, ⟨2, false⟩, ⟨3, true⟩⟩) (.sub hS1 ⟨5, ⟨1, false⟩, ⟨3, true⟩⟩)) ∧
    firstEmpty s1Empty true [] 0 [srcRef ⟨1, false⟩, srcRef ⟨3, true⟩] = none ∧
    firstEmpty s1Empty false [] 0 [srcRef ⟨1, false⟩, srcRef ⟨3, true⟩] ≠ none :=
  ⟨⟨⟨rfl, rfl, rfl, rfl, rfl, rfl, wellFormed_sound rfl, wellFormed_sound rfl, rfl, rfl, rfl, rfl, rfl, rfl⟩,
      _, _, rfl, rfl, rfl, rfl, rfl⟩,
    ⟨rfl, rfl, rfl, rfl, rfl, rfl, wellFormed_sound rfl, wellFormed_sound rfl, rfl, rfl, rfl, rfl, rfl, rfl⟩, rfl, by decide⟩

set_option exponentiation.threshold 5000 in
/-- The bytes that a scatter, an atomic, a compare-and-swap and an atomic of a line may write. -/
theorem test_stored_ranges :
    storedAt (seen (.stx hL ⟨0, false, 2, 0, 0, 0x81, ⟨2, true⟩, 7, false, true⟩) hL (at0 lane127))
      (.stx hL ⟨0, false, 2, 0, 0, 0x81, ⟨2, true⟩, 7, false, true⟩) = [(unitKey 0, 4)] ∧
    storedAt (seen (.amo hL ⟨1, ⟨2, true⟩, 3, 0, 0, ⟨3, false⟩, 8⟩) hL (at0 (progWith [(2, 0x1FFFF8)])))
      (.amo hL ⟨1, ⟨2, true⟩, 3, 0, 0, ⟨3, false⟩, 8⟩) = [(unitKey 0 + 0x1FFFF8, 8)] ∧
    storedAt (seen (.cas hL ⟨1, ⟨2, true⟩, 2, 0, 0, ⟨3, false⟩, ⟨4, false⟩⟩) hL (at0 prog))
      (.cas hL ⟨1, ⟨2, true⟩, 2, 0, 0, ⟨3, false⟩, ⟨4, false⟩⟩) = [(unitKey 0, 4)] ∧
    storedAt (seen (.amol hL ⟨0x81, 0, 0, 0, ⟨2, true⟩, 4, 0, 512⟩) hL (at0 prog))
      (.amol hL ⟨0x81, 0, 0, 0, ⟨2, true⟩, 4, 0, 512⟩) = [(unitKey 0 + 512, 512)] := by decide +kernel

/-! ## Premises of what events do -/

/-- The state after an event, where it is a next state. -/
def afterEvent (m : Move) (u : State) : Option State :=
  match moveInstr m with
  | some i => (match exec i { u with agenda := m :: u.agenda } with
    | .next t => some t
    | _ => none)
  | none => none

/-- A package with a copy whose side is on package 1. -/
def remoteCopy : State :=
  let s := copying .queued false 0
  { s with copies := [{ copyOf .queued false 0 with record := BitVec.ofNat 512 (2 ^ 238 + 2 ^ 225) }] }

/-- R15: a write of FABRIC_PKGID is discarded while a launch is admitted, a run is armed, or a copy with a remote side is in
flight; it takes effect with a launch that waits, a run that waits, or a local copy. -/
theorem test_pkgid_writes :
    [withLaunch ready running, runningBoard .armed signal .armed, remoteCopy].all
      (fun u => decide (afterEvent (.fabricPkgidWrite 5) u = some u)) = true ∧
    [withLaunch ready waiting, runningBoard .waiting signal .armed, copying .queued false 0].all
      (fun u => (afterEvent (.fabricPkgidWrite 5) u).any (fun t => t.coll.pkgid == 5)) = true := by decide +kernel

/-- The job of such a package. -/
def jobOf (u : State) : SkimJob :=
  u.skim.jobs.headD { id := 0, record := 0, range := none, waits := [], core := 0, engines := [], blocks := [], stuck := [], owners := [] }
/-- A record of SGD on one element with a guard at 0x340000 and a reciprocal at 0x350000; the guard holds `g`. -/
def guarded (g : Nat) : State :=
  written (job (skimRecord 0 0 1 ||| BitVec.ofNat 1024 (0x1000000000350000 * 2 ^ 768 + 0x1000000000340000 * 2 ^ 832)) []) 0x340000 4 g
/-- Engine 17, whose parity set holds the page 0x300000, begins the element of such a job. -/
def beginsB (u : State) : Bool :=
  !u.sec.halted && u.nextJob 17 u.skim.jobs == some (jobOf u) && (jobOf u).engines.find 17 == none && (jobOf u).span == (0, 1) &&
  u.ownerOf (skMaster (jobOf u).record % 2 ^ 48) == some 17 && (u.pset 17).mode != .fenced
/-- A read gives this value. -/
def reads (r : State × Except XFail Nat) (v : Nat) : Bool :=
  match r.2 with
  | .ok x => x == v
  | .error _ => false

set_option exponentiation.threshold 2000 in
set_option maxRecDepth 20000 in
/-- GuardsSkip, SingleElementIsUpdated with guard and reciprocal, ElementsUpdate. -/
theorem test_meets_elements_update :
    (beginsB (guarded 7) && skGuard (jobOf (guarded 7)).record != 0 &&
      reads ((ownerKnown (guarded 7) (jobOf (guarded 7)) 0 17).vaRead 0x340000 4) 7) = true ∧
    (let u := guarded 0
     let a := ((ownerKnown u (jobOf u) 0 17).vaRead 0x340000 4).1
     let b := (a.vaRead 0x350000 4).1
     beginsB u && reads ((ownerKnown u (jobOf u) 0 17).vaRead 0x340000 4) 0 && reads (a.vaRead 0x350000 4) 0 &&
     (match operandsRead b (jobOf u) 0 with
      | (v, some (g, x, m, n)) => (match v.skWrites (elementWrites (jobOf u).record (some 0) 0 g x m n).1 with
        | (_, .ok ()) => true
        | _ => false)
      | _ => false)) = true := by decide +kernel

set_option exponentiation.threshold 2000 in
set_option maxRecDepth 20000 in
/-- The loss-scale reciprocal 0.5 and the gradient 3 with a learning rate of 1 and the moment's weight 0 move the master
from 4 to 2.5 by SGD, and its moment becomes 1.5: the sums of R349 by hand. -/
theorem test_sgd_step :
    elementUpdate (BitVec.ofNat 1024 (0x3F800000 * 2 ^ 128)) (some 0x3F000000) 0x40400000 0x40800000 0x3F800000 0 =
      (0x40200000, 0x3FC00000, 0, 0) := by decide +kernel

set_option exponentiation.threshold 2000 in
set_option maxRecDepth 20000 in
/-- OthersElementsAreLeft, of engine 31. -/
theorem test_meets_others_left :
    (let u := job (skimRecord 0 0 1) []
     u.nextJob 31 u.skim.jobs == some (jobOf u) && (jobOf u).engines.find 31 == none && (jobOf u).span == (0, 1) &&
     u.ownerOf (skMaster (jobOf u).record % 2 ^ 48) == some 17) = true := by decide +kernel

set_option exponentiation.threshold 2000 in
set_option maxRecDepth 20000 in
/-- BlocksQuantise, with a place for the codes. -/
theorem test_meets_blocks_quantise :
    (let u := job (skimRecord 0x2000 16 256 ||| BitVec.ofNat 1024 (0x1000000000330000 * 2 ^ 576 + 0x1000000000350000 * 2 ^ 640)) allUpdated
     skCols (jobOf u).record == 16 && skWscale (jobOf u).record != 0 &&
     match u.blockMasters (jobOf u).record 0 (List.range 16) with
      | (v, .ok xs) => xs.length == 256 && (match v.skWrites [(skWork (jobOf u).record, 16, 0), (skWscale (jobOf u).record, 1, 0)] with
        | (_, .ok ()) => true
        | _ => false)
      | _ => false) = true := by decide +kernel

/-- Run 0 has these two entries. -/
def twoEntries (a b : EntryState) : State :=
  let u := runningBoard .armed signal .due
  let r := (u.run 0).getD { id := 0, board := 0, queue := 0, base := 0, seq := 0, phase := .waiting, entries := [] }
  { u with coll := { u.coll with runs := [(0, { r with entries := [a, b] })] } }

/-- RunsFail: the entry that fails beside one whose transfer is under way, and beside one that waits. -/
theorem test_meets_failures :
    (twoEntries ⟨signal, .due, 1⟩ ⟨pullEntry, .moved, 2⟩).run 0 ≠ none ∧
    (((twoEntries ⟨signal, .due, 1⟩ ⟨pullEntry, .moved, 2⟩).run 0).map (fun r => (r.id, r.phase, (entriesAtFailure r 0).any underTransfer))) =
      some (0, .armed, true) ∧
    (((twoEntries ⟨signal, .due, 1⟩ ⟨pullEntry, .matching, 2⟩).run 0).map (fun r => (r.id, r.phase, (entriesAtFailure r 0).any underTransfer))) =
      some (0, .armed, false) := by decide +kernel

/-- An entry of KIND `k` of 256 bytes with its formats and operation, source and destination. -/
def entryOf (k dfmt op src dst : Nat) : BitVec 256 :=
  BitVec.ofNat 256 (k * 2 ^ 61 + 2 ^ 16 + dfmt * 2 ^ 12 + op * 2 ^ 66 + 8 * 2 ^ 68 + src * 2 ^ 128 + dst * 2 ^ 192)
/-- Such a due entry of a board with two members, with chunk-buffer regions. -/
def moving (e : BitVec 256) (regions : List Region) : State :=
  let u := runningBoard .armed e .due
  { u with coll := { u.coll with regions := regions } }

set_option exponentiation.threshold 2000 in
set_option maxRecDepth 20000 in
/-- LocalCopiesMove: between addresses of device memory and of the chunk buffers, and out of them with the whole tree's span
and without it. -/
theorem test_meets_local_copies :
    [((0x1000000000300000, 0x1000000000320000), (false, false)), ((0x1000000000300000, 0x1800000000004000), (false, true)),
     ((0x1800000000001000, 0x1800000000004000), (true, true)), ((0x1800000000001000, 0x1000000000320000), (true, false))].all
      (fun (a, k) => (inChunk a.1, inChunk a.2) == k) = true ∧
    (match (moving (entryOf 4 8 0 0x1000000000300000 0x1000000000320000) []).vaRead 0x300000 256 with
      | (v, .ok d) => (match v.vaWrite 0x320000 256 d with
        | (_, .ok ()) => true
        | _ => false)
      | _ => false) = true ∧
    ((moving (entryOf 4 9 0 0x1800000000001000 0x1000000000320000) [⟨0x1000, 256, 0, 2⟩]).spanAt 0x1000 256,
      ((moving (entryOf 4 9 0 0x1800000000001000 0x1000000000320000) []).board 63).members.length) = ((0, 2), 2) ∧
    (moving (entryOf 4 9 0 0x1800000000001000 0x1000000000320000) [⟨0x1000, 256, 0, 1⟩]).spanAt 0x1000 256 = (0, 1) ∧
    (match (moving (entryOf 4 9 0 0x1800000000001000 0x1000000000320000) []).vaWrite 0x320000 128 5 with
      | (_, .ok ()) => true
      | _ => false) = true := by decide +kernel

/-- A whole tree's region, whose record stands at 0x300000. -/
def delivering (x : BitVec 1024) : State :=
  written (moving (entryOf 3 0 0 0x1800000000001000 0x1000000000300000) [⟨0x1000, 256, 0, 2⟩]) 0x300000 128 x.toNat

set_option exponentiation.threshold 2000 in
set_option maxRecDepth 20000 in
/-- DeliveriesJoin: a record of 64 elements with STREAM, and one without. -/
theorem test_meets_deliveries :
    [BitVec.ofNat 1024 (0x888 + 64 * 2 ^ 320 + 0x1000000000300000 * 2 ^ 384 + 0x1000000000310000 * 2 ^ 448), skimRecord 0 0 64].map
      (fun x => match (delivering x).vaRead 0x300000 128 with
      | (_, .ok d) => (skimMalformed (BitVec.ofNat 1024 d), skStream (BitVec.ofNat 1024 d), skCount (BitVec.ofNat 1024 d))
      | _ => (true, false, 0)) = [(false, true, 64), (false, false, 64)] := by decide +kernel

set_option exponentiation.threshold 2000 in
set_option maxRecDepth 20000 in
/-- ReductionsCombine: the two leaves of a board's root; a span that is no subtree; no working ALU. -/
theorem test_meets_reductions :
    (let u := moving (entryOf 2 0 0 0x1800000000001000 0x1800000000008000) [⟨0x1000, 256, 0, 1⟩]
     (u.spanAt 0x1000 256, u.recordSpan noticeOf, leafOf (u.board 63).members 0)) = ((0, 1), (1, 2), some 0) ∧
    (0, 1, 2) ∈ treeNodes [(0, 0), (1, 1)] ∧ (0, 2, 2) ∉ treeNodes [(0, 0), (1, 1)] ∧
    ((List.range 8).all (fun a => (0xFF : BitVec 9).getLsbD a)) = true := by decide +kernel

/-- A package of a 4 by 3 by 2 torus at (1, 2, 0) with these ports fenced and port 3 down. -/
def onTorus (ports : BitVec 6) : State :=
  { ready with coll := { Coll.start with pkgid := 0x021, dims := 0x123, links := [(3, { Link.start with down := true })] },
               err := { Errors.start with ports := ports } }

/-- R316 by hand: +x to x = 3, half the ring; -x where +x is fenced; -y over the wrap from y = 2 to 0 is +y; no port where both
of z are fenced; and the wrap links of y. -/
theorem test_packet_ports :
    portTowards (onTorus 0) 0x023 = some 0 ∧ portTowards (onTorus 1) 0x023 = some 1 ∧ portTowards (onTorus 0) 0x001 = some 2 ∧
    portTowards (onTorus 0) 0x011 = some 3 ∧ portTowards (onTorus 0x30) 0x121 = none ∧ wrapLink (onTorus 0) 2 ∧
    ¬wrapLink (onTorus 0) 3 ∧ ((onTorus 0).link 3).down = true ∧ (onTorus 0).outside 0x023 = false ∧
    (onTorus 0).outside 0x021 = false := by
  unfold wrapLink
  decide +kernel

/-- A launch that was pre-empted, with positions 3 and 5 saved, the first ended. -/
def cutOff : State :=
  withLaunch mapped { waiting with
    phase := .preempted, savedHeld := [0], savedAt := 0x100000, saved := [⟨3, true, false, true, []⟩, ⟨5, false, false, true, []⟩] }

set_option exponentiation.threshold 2000 in
set_option maxRecDepth 20000 in
/-- LaunchesResume. -/
theorem test_meets_resumption :
    (match cutOff.chosen with
      | some l =>
        let held := (cutOff.takable l).take l.savedHeld.length
        decide (l.phase = .preempted ∧ held = [0]) && l.saved.all (fun p => p.pos < 16) &&
        (match cutOff.pieces l.savedAt (saveCores + (l.saved.map SavedPos.size).foldl (· + ·) 0) false with
          | (v, .ok _) => (List.range 16).all (fun j => !v.coreFenced j)
          | _ => false)
      | none => false) = true := by decide +kernel

/-- SHAKE256 of the empty message begins so (FIPS 202, computed outside the model). -/
theorem test_shake256 : shake256 [] 8 = [0x46, 0xB9, 0xDD, 0x2B, 0x0B, 0xA8, 0x8D, 0x13] := by decide +kernel

/-! ## Premises of the faults and waits of an issue -/

/-- The operation issues, and these operands of it are ready. -/
def operandsB (i : Instr) (h : Hdr) (s : State) (srcs : List SrcRef) (dsts : List DstRef) (pushes : List Nat) : Bool :=
  issuesB i h s && srcsB (seen i h s).c [] srcs && dsts.all (fun d => !dstEmpty (seen i h s).c d) &&
  pushes.all (fun p => (pushFault (seen i h s).c [] p).isNone && !pushFull (seen i h s).c [] p)

theorem operandsB_sound {i : Instr} {h : Hdr} {s : State} {srcs : List SrcRef} {dsts : List DstRef} {pushes : List Nat}
    (b : operandsB i h s srcs dsts pushes = true) :
    CanIssue i h s ∧ SrcsReady (seen i h s).c [] srcs ∧ DstsReady (seen i h s).c dsts pushes := by
  simp only [operandsB, Bool.and_eq_true, Bool.not_eq_true', List.all_eq_true, Option.isNone_iff_eq_none] at b
  exact ⟨issuesB_sound b.1.1.1, srcsB_sound _ _ _ b.1.1.2, b.1.2, b.2⟩

/-- No access of local memory has another to follow. -/
def freeB (c : Core) : Bool := [(false, false), (false, true), (true, false), (true, true)].all (fun p => (c.waitIds p.1 p.2).isEmpty)

theorem freeB_sound {c : Core} (b : freeB c = true) : ∀ r w, (c.waitIds r w).isEmpty = true := by
  simp only [freeB, List.all_cons, List.all_nil, Bool.and_true, Bool.and_eq_true] at b
  intro r w; cases r <;> cases w
  · exact b.1
  · exact b.2.1
  · exact b.2.2.1
  · exact b.2.2.2

/-- What AccessesFault presumes, with the number of the check. -/
def Faults (s : State) (p : Instr × Nat) : Prop :=
  ∃ h f, CanIssue p.1 h s ∧ ((s.core s.turn).inSup = true → programOnlyForm (seen p.1 h s) p.1 = none) ∧
    accessForm (seen p.1 h s) p.1 = some f ∧ SrcsReady (seen p.1 h s).c [] f.srcs ∧ DstsReady (seen p.1 h s).c f.dsts f.pushes ∧
    Unwaited (seen p.1 h s) p.1 ∧ accessFault (seen p.1 h s).c f = some p.2

theorem faults_of {s : State} {i : Instr} {k : Nat} (h : Hdr) {f : AccessForm} (af : accessForm (seen i h s) i = some f)
    (m : (s.core s.turn).inSup = true → programOnlyForm (seen i h s) i = none) (u : Unwaited (seen i h s) i)
    (b : operandsB i h s f.srcs f.dsts f.pushes = true) (a : accessFault (seen i h s).c f = some k) : Faults s (i, k) :=
  let ⟨b1, b2, b3⟩ := operandsB_sound b
  ⟨h, f, b1, m, af, b2, b3, u, a⟩

/-- Core 0 whose s2 is this address. -/
def pointing (a : W64) : State := at0 (progWith [(2, a)])
/-- Core 0 has lent the first 4 KiB of its scratchpad. -/
def lentOut : State := at0 { prog with lent := [⟨0, 0, 1, 1, false, 0, 1, none, false⟩], nextLent := 1 }
/-- Core 0 in supervisor mode whose s2 is this address. -/
def superPointing (a : W64) : State := at0 { sup with sup := { Ctx.start with s := [(2, a)] } }

set_option exponentiation.threshold 2000 in
set_option maxRecDepth 20000 in
/-- AccessesFault: each number: a space that is not there, the last byte of the scratchpad passed, misaligned, lent bytes and a
handle that is not held; an engine's record outside the scratchpad; both in supervisor mode. -/
theorem test_meets_access_faults :
    Faults (pointing 0x0600000000000000) (.ld hL ⟨1, ⟨2, false⟩, 3, false, 0, 0, 0⟩, 1) ∧
    Faults (pointing 0x1FFFFF) (.st hL ⟨1, ⟨2, false⟩, 1, false, 0, 0, 0⟩, 2) ∧
    Faults (pointing 4) (.amo hL ⟨1, ⟨2, true⟩, 3, 0, 0, ⟨3, false⟩, 8⟩, 3) ∧
    Faults lentOut (.ldl hL ⟨0, false, 0, 0, ⟨2, true⟩, 0, 0⟩, 4) ∧
    Faults (pointing 0x0500000000000000) (.ld hL ⟨1, ⟨2, false⟩, 0, false, 0, 0, 0⟩, 4) ∧
    Faults (pointing 0x0100000000000000) (.copy hC ⟨⟨2, true⟩, 0⟩, 1) ∧
    Faults (superPointing 1) (.ld hL ⟨1, ⟨2, false⟩, 3, false, 0, 0, 0⟩, 3) ∧
    Faults (superPointing 64) (.svsave hC ⟨⟨2, true⟩, 0, 63, 2, 5⟩, 3) := by
  refine ⟨?_, ?_, ?_, ?_, ?_, ?_, ?_, ?_⟩
  · exact faults_of hL rfl (fun h => nomatch h) ⟨freeB_sound rfl, trivial⟩ rfl rfl
  · exact faults_of hL rfl (fun h => nomatch h) ⟨freeB_sound rfl, trivial⟩ rfl rfl
  · exact faults_of hL rfl (fun h => nomatch h) ⟨freeB_sound rfl, trivial⟩ rfl rfl
  · exact faults_of hL rfl (fun h => nomatch h) ⟨freeB_sound rfl, trivial⟩ rfl rfl
  · exact faults_of hL rfl (fun h => nomatch h) ⟨freeB_sound rfl, trivial⟩ rfl rfl
  · exact faults_of hC rfl (fun h => nomatch h) ⟨freeB_sound rfl, rfl, rfl⟩ rfl rfl
  · exact faults_of hL rfl (fun _ => rfl) ⟨freeB_sound rfl, trivial⟩ rfl rfl
  · exact faults_of hC rfl (fun _ => rfl) ⟨freeB_sound rfl, rfl, fun _ => rfl⟩ rfl rfl

/-- Core 0 with the address `a` in s2 and lane 127 alone active under k7; its index in row 1 of tile 1 is 1. -/
def indexed (a : W64) : State :=
  at0 { lane127 with prog := { Ctx.start with s := [(2, a)] }, tiles := putTileLine [] 0x81 false fullLine (BitVec.ofNat 4096 (2 ^ 4064)) }

set_option exponentiation.threshold 5000 in
set_option maxRecDepth 20000 in
/-- GathersFault: lane 127 is the first active one, and is misaligned; its offset carries out of its space. -/
theorem test_meets_gather_faults :
    [((Instr.ldx hL ⟨0, false, 1, 0, 0, 0x81, ⟨2, true⟩, 7, false, false⟩, 0), (⟨0, false, 1, 0, 0, 0x81, ⟨2, true⟩, 7, false, false⟩ : Gather), false, 3),
     ((.stx hL ⟨0, false, 2, 0, 0, 0x81, ⟨2, true⟩, 7, false, true⟩, 2), ⟨0, false, 2, 0, 0, 0x81, ⟨2, true⟩, 7, false, true⟩, true, 3),
     ((.ldx hL ⟨0, false, 0, 0, 0, 0x81, ⟨2, true⟩, 7, false, false⟩, 0x00FFFFFFFFFFFFFF), ⟨0, false, 0, 0, 0, 0x81, ⟨2, true⟩, 7, false, false⟩, false, 2)].all
      (fun ((i, a), o, store, k) =>
        let s := indexed a
        let v := seen i hL s
        operandsB i hL s ((if store then [lineRef o.line 32] else []) ++ [lineRef o.index 32, srcRef o.base])
          (if store then [] else [.line o.line 1 false]) (if store then [] else pushesOf o.line) && freeB v.c && laneActive o v 127 &&
        (laneFault o v (if store then v.line2 o.line o.index 32 else v.line o.index 32 0) 127).2 == some k &&
        (List.range 127).all (fun l => !laneActive o v l)) = true := by decide +kernel

set_option exponentiation.threshold 2000 in
set_option maxRecDepth 20000 in
/-- GroupsFault: a group load of no group address, a misaligned one, one past the group's size, and of a group that is not
there; the barrier operations of such a group. -/
theorem test_meets_group_faults :
    [(pointing 0, 1), (inGroup (progWith [(2, 0x0400000000200000)]), 2), (inGroup (progWith [(2, 0x0400000000000020)]), 3),
     (inGroup (progWith [(2, 0x0400000000000E40)]), 5), (pointing 0x0400000000000000, 5)].all (fun (s, k) =>
      let i := Instr.gld hL ⟨0, 0, 0, 0, ⟨2, true⟩, 4, 3, 0⟩
      operandsB i hL s [srcRef ⟨2, true⟩] [.line 0 1 false, .pred 3] (pushesOf 0) && freeB (seen i hL s).c &&
      groupFault (seen i hL s) (((seen i hL s).src ⟨2, true⟩).toNat) 512 64 == some k) = true ∧
    (let i := Instr.glds hL ⟨1, 0, 1, 0, ⟨2, true⟩, 9, 3, 0⟩
     let s := inGroup (progWith [(2, 0x0400000000000001)])
     operandsB i hL s [srcRef ⟨2, true⟩] [.reg 1, .pred 3] [] && freeB (seen i hL s).c &&
     groupFault (seen i hL s) (((seen i hL s).src ⟨2, true⟩).toNat) 2 2 == some 3) = true ∧
    [Instr.barrive hC ⟨255⟩, .bwait hC ⟨255⟩, .btest hC ⟨255, 1⟩].all (fun i => operandsB i hC (at0 prog) [] [.pred 1] [] &&
      flagsDue (seen i hC (at0 prog)) == 0 && (barrierGroup (seen i hC (at0 prog)) 255).isNone) = true := by decide +kernel

/-- Port 7 reads, and port 11 writes, one line at this address, and their walks are here. -/
def porting (a taken pushed : Nat) : State :=
  let p : Port := { Port.start with conf := true, record := BitVec.ofNat 512 (a + 2 ^ 64 + 2 ^ 96 + 2 ^ 128 + 2 ^ 160), taken := taken, pushed := pushed }
  at0 { prog with ports := [(7, p), (11, p)] }

set_option exponentiation.threshold 5000 in
set_option maxRecDepth 20000 in
/-- PortsFault: pops and pushes of a port that is not configured, whose walk is over, and whose line is misaligned. -/
theorem test_meets_port_faults :
    [(at0 prog, 6), (porting 0 1 0, 6), (porting 1 0 0, 7)].all (fun (s, k) =>
      let i := Instr.vadd hV ⟨4, 0, 0, 1, 0xC07, 0, false, false⟩
      let v := seen i hV s
      match operandsOf v i with
      | some e => issuesB i hV s && e.srcs == [lineRef 1 32] ++ lineRef 0xC07 32 :: [] && (lineRef 0xC07 32).readPort == some 7 &&
        srcsB v.c [] [lineRef 1 32] && [true, false].all (fun fe => (firstEmpty v.c fe [] 0 e.srcs).isNone) &&
        e.dsts.all (fun d => !dstEmpty v.c d) && e.pushes.isEmpty && !v.x.srStall e.mode && popStop v.c (popsOf [lineRef 1 32]) 7 == some k
      | none => false) = true ∧
    [(at0 prog, 6), (porting 0 0 1, 6), (porting 1 0 0, 7)].all (fun (s, k) =>
      let i := Instr.vadd hV ⟨4, 0, 0xC03, 1, 2, 0, false, false⟩
      let v := seen i hV s
      match operandsOf v i with
      | some e => issuesB i hV s && e.pushes == [11] && srcsB v.c [] e.srcs && e.dsts.all (fun d => !dstEmpty v.c d) &&
        !v.x.srStall e.mode && pushStop v.c 11 == some k
      | none => false) = true ∧
    (let i := Instr.pcfg hL ⟨11, ⟨2, true⟩, 0⟩
     let v := seen i hL (at0 prog)
     operandsB i hL (at0 prog) [srcRef ⟨2, true⟩] [] [] && freeB v.c && recordAt v (recordAddr v ⟨2, true⟩ 0) 64 == some 0 &&
     recordBad 0 11) = true := by decide +kernel

set_option maxRecDepth 20000 in
/-- HandlesFault: HGIVE of another space, past the scratchpad, misaligned, with no size and with 65 pages; HTAKE of a slot that
is held; HBACK of one that is not, and of one that is reserved. -/
theorem test_meets_handle_faults :
    [(0x0100000000000000, 0x101, 1), (0x200000, 0x101, 2), (64, 0x101, 3), (0, 1, 8), (0, 0x4101, 8), (0, 0x8101, 8)].all
      (fun ((a, d, k) : W64 × W64 × Nat) =>
        let i := Instr.hgive hL ⟨1, ⟨2, false⟩, ⟨3, false⟩⟩
        let s := at0 (progWith [(2, a), (3, d)])
        let v := seen i hL s
        operandsB i hL s [srcRef ⟨2, false⟩, srcRef ⟨3, false⟩] [.reg 1] [] && v.c.pendingIds == [] &&
        decide ((v.s.core (peerOf v.core ((v.src ⟨3, false⟩).toNat % 16))).offers.length < 16) &&
        giveFault v (v.src ⟨2, false⟩).toNat (v.src ⟨3, false⟩).toNat == some k) = true ∧
    (let i := Instr.htake hL ⟨1, 15⟩
     let s := at0 { prog with held := [(15, ⟨false, 0, 0, 0, 1⟩)] }
     operandsB i hL s [] [.reg 1] [] && ((seen i hL s).c.held.find 15).isSome) = true ∧
    [at0 prog, at0 { prog with held := [(15, ⟨true, 0, 0, 0, 1⟩)] }].all (fun s =>
      operandsB (.hback hL ⟨15⟩) hL s [] [] [] && (seen (.hback hL ⟨15⟩) hL s).c.pendingIds == [] &&
      (((seen (.hback hL ⟨15⟩) hL s).c.held.find 15).all (·.reserved))) = true := by decide +kernel

set_option exponentiation.threshold 2000 in
set_option maxRecDepth 20000 in
/-- NumbersFault: counter 4,096; ldepth 7; an image of seven levels. -/
theorem test_meets_number_faults :
    [Instr.evadd hC ⟨2, 5, ⟨2, true⟩, ⟨3, true⟩⟩, .evwait hC ⟨1, 5, ⟨2, true⟩, ⟨3, true⟩⟩].all (fun i =>
      operandsB i hC (pointing 4096) [srcRef ⟨2, true⟩, srcRef ⟨3, true⟩] [] [] && decide (4095 < ((seen i hC (pointing 4096)).src ⟨2, true⟩).toNat)) = true ∧
    (operandsB (.wrsr hS ⟨0x1E, ⟨2, false⟩⟩) hS (pointing 7) [srcRef ⟨2, false⟩] [] [] && (0x1E == SR.ldepth) &&
      decide (6 < ((seen (.wrsr hS ⟨0x1E, ⟨2, false⟩⟩) hS (pointing 7)).src ⟨2, false⟩).toNat)) = true ∧
    (let i := Instr.lload hC ⟨⟨2, true⟩, 64⟩
     let s := written (at0 prog) (unitKey 0 + 64 + 144) 8 7
     let v := seen i hC s
     operandsB i hC s [srcRef ⟨2, true⟩] [] [] && freeB v.c && match resolveAccess v.c v.core true 64 160 8 with
      | .ok t => decide (6 < v.s.read (t.key + 144) 8)
      | .error _ => false) = true := by decide +kernel

/-- What the first part of WaitsStall presumes. -/
def Waits (p : State × Hdr × Instr) : Prop :=
  ∃ srcs dsts q, CanIssue p.2.2 p.2.1 p.1 ∧ waitUnmet (seen p.2.2 p.2.1 p.1) p.2.2 = some (srcs, dsts, q) ∧
    SrcsReady (seen p.2.2 p.2.1 p.1).c [] srcs ∧ DstsReady (seen p.2.2 p.2.1 p.1).c dsts [] ∧ q

theorem waits_of {s : State} {h : Hdr} {i : Instr} {srcs : List SrcRef} {dsts : List DstRef} {q : Prop}
    (w : waitUnmet (seen i h s) i = some (srcs, dsts, q)) (r : q) (b : operandsB i h s srcs dsts [] = true) : Waits (s, h, i) :=
  let ⟨b1, b2, b3⟩ := operandsB_sound b
  ⟨srcs, dsts, q, b1, w, b2, b3, r⟩

/-- A store of core 0 that has not performed. -/
def storing : Racc :=
  { id := 6, waits := [], acq := false, reads := false, kind := .store, cells := [newCell 0 4 0 15 0], dst := .none, pc := 0,
    handler := false, handle := none }
/-- Core 0 with that store outstanding and with s2 = 1. -/
def pendingCore : Core := { progWith [(2, 1)] with prog := { (progWith [(2, 1)]).prog with racc := [storing] } }
/-- Core 0 with eight submissions of which no status has come. -/
def eightOut : Core :=
  { prog with prog := { Ctx.start with vars := (List.range 8).map (fun k => ⟨k, .submit 9 0 0 false [] none, 0, false⟩) } }

set_option exponentiation.threshold 2000 in
set_option maxRecDepth 20000 in
/-- WaitsStall: tags that are not complete, a full queue of submissions, pending writes, a counter below its value, a barrier at
which another core has not arrived. -/
theorem test_meets_waits :
    Waits (pointing 1, hC, .twany hC ⟨⟨2, true⟩⟩) ∧ Waits (pointing 3, hC, .twall hC ⟨⟨2, true⟩⟩) ∧
    Waits (at0 eightOut, hC, .submit hC ⟨1, 79, 2, 5, ⟨2, true⟩, 64⟩) ∧
    Waits (at0 pendingCore, hC, .drain hC ⟨false, false, 3, 5⟩) ∧ Waits (at0 pendingCore, hL, .hback hL ⟨15⟩) ∧
    Waits (at0 pendingCore, hL, .hgive hL ⟨1, ⟨4, false⟩, ⟨3, false⟩⟩) ∧
    Waits ({ at0 (progWith [(2, 4095), (3, 2)]) with counters := [(4095, 1)] }, hC, .evwait hC ⟨1, 5, ⟨2, true⟩, ⟨3, true⟩⟩) ∧
    Waits ({ inGroup prog with groups := (inGroup prog).groups.map (fun p => (p.1, { p.2 with arrivals := [(0, 1)] })) }, hC,
      .bwait hC ⟨0⟩) ∧
    Waits ({ at0 sup with copies := [copyOf .started false 0] }, hC, .svsave hC ⟨⟨2, true⟩, 0, 63, 2, 5⟩) := by
  refine ⟨?_, ?_, ?_, ?_, ?_, ?_, ?_, ?_, ?_⟩
  · exact waits_of rfl ⟨by decide +kernel, .inr (by decide +kernel)⟩ rfl
  · exact waits_of rfl ⟨by decide +kernel, .inr (by decide +kernel)⟩ rfl
  · exact waits_of rfl (.inl (by decide +kernel)) rfl
  · exact waits_of rfl ⟨by decide +kernel, .inl (by decide +kernel)⟩ rfl
  · exact waits_of rfl (by decide +kernel) rfl
  · exact waits_of rfl (.inl (by decide +kernel)) rfl
  · exact waits_of rfl ⟨by decide +kernel, .inl (by decide +kernel)⟩ rfl
  · exact waits_of rfl ⟨rfl, by decide +kernel, 1, by decide +kernel, by decide +kernel⟩ rfl
  · exact waits_of rfl ⟨rfl, rfl, copyOf .started false 0, List.mem_singleton_self _, rfl, rfl, rfl, .inr (by intro _ _ _ _ _ h; nomatch h)⟩ rfl

/-- The queue of port 8 is full, and a push to it is due. -/
def fullQueue : Core :=
  { prog with ports := [(8, { Port.start with conf := true, queue := [1, 2, 3, 4, 5, 6, 7, 8] })],
              prog := { Ctx.start with flight := [⟨.push 0 5, 0, 4, false, 0, none⟩] } }

/-- WaitsStall's second part, RoomTaken. -/
theorem test_meets_full_queue : ((at0 fullQueue).core 0).runs = true ∧ ((at0 fullQueue).core 0).landFull = true ∧
    WellFormed (.snop hS) ∧ hdrOfInstr (.snop hS) ≠ none ∧ (dueResults fullQueue).filterMap (pushedLine 0) = [5] :=
  ⟨rfl, by decide +kernel, wellFormed_sound rfl, by decide, by decide +kernel⟩

/-- FlagsTrap: NX is raised and enabled. -/
theorem test_meets_flags_trap :
    [Instr.fence hC ⟨3, 5⟩, .fenceInstr hC, .drain hC ⟨true, true, 3, 5⟩, .bwait hC ⟨255⟩, .exit hC].all (fun i =>
      let s := at0 { prog with prog := { Ctx.start with sr := [(SR.fpflags, 16), (SR.fpenable, 63)] } }
      issuesB i hC s && flagsDue (seen i hC s) == 16) = true := by decide +kernel

/-! ## Premises of fetching and of what lands -/

/-- A core of a package with mapped memory, and words of code: one header that is illegal alone; one whose slot word is illegal,
of reason 5; one at the end of what is mapped, whose slot word stands beyond it; and a bundle. -/
def codes : State :=
  (((({ mapped with cores := [(0, prog)] }.write 0x300000 8 0x100000000000).write 0x300008 8 1).write 0x300010 8 (0xFE * 2 ^ 56)).write
    0x3FFFFFF8 8 1).write 0x300018 8 1

/-- An address is fetched as this word. -/
def fetchesB (s : State) (a : W64) (w : W64) : Bool :=
  match (fetchWord s 0 a).2 with
  | .ok x => x == w
  | .error _ => false

set_option exponentiation.threshold 2000 in
set_option maxRecDepth 20000 in
/-- FetchesFault: each of its clauses. -/
theorem test_meets_fetches :
    (0x300001 : W64).toNat % 8 ≠ 0 ∧ ((0x40000000 : W64).toNat % 8 = 0 ∧ (codes.translate 0x40000000 false).2.isOk = false) ∧
    fetchesB codes 0x300000 0x100000000000 = true ∧
    (fetchesB codes 0x300008 1 && (match (fetchWords (fetchWord codes 0 0x300008).1 0 0x300010 (headerWords 1 - 1)).2 with
      | .ok ws => (match decodeBundle (1 :: ws) 0 with
        | .error e => e.reason == 5
        | .ok _ => false)
      | .error _ => false)) = true ∧
    (fetchesB codes 0x3FFFFFF8 1 && (match (fetchWords (fetchWord codes 0 0x3FFFFFF8).1 0 0x40000000 (headerWords 1 - 1)).2 with
      | .ok _ => false
      | .error t => t == ⟨17, 9, true, 0x40000000⟩)) = true ∧
    (fetchesB codes 0x300018 1 && (match (fetchWords (fetchWord codes 0 0x300018).1 0 0x300020 (headerWords 1 - 1)).2 with
      | .ok ws => (match decodeBundle (1 :: ws) 0 with
        | .error _ => false
        | .ok _ => true)
      | .error _ => false)) = true := by decide +kernel

set_option maxRecDepth 20000 in
/-- WordsDecode: each of the illegal bundles is refused with its word, slot and reason. -/
theorem test_illegal_words : illegalWords.all (fun e => match decodeBundle e.1 0 with
    | .error f => f.word == e.2.1 && f.slot == e.2.2.1 && f.reason == e.2.2.2
    | .ok _ => false) = true := by decide +kernel

/-- Results that have no place to go, with flags. -/
def nowhere : Core :=
  { prog with prog := { Ctx.start with flight :=
    [⟨.void, 0, 4, false, 2, none⟩, ⟨.sreg 0 7, 0, 0, false, 16, none⟩, ⟨.pred 0 false, 0, 1, false, 1, none⟩, ⟨.mask 0 0 1, 0, 5, true, 0, none⟩] } }
/-- Two beats that are due, of which the anchor's acts first, though it stands second. -/
def beating : Core :=
  { prog with prog := { Ctx.start with flight :=
    [⟨.beat (beatOf (.macc hM ⟨0, 0, true, true, 63, 0, 7, 0⟩)), 0, 7, false, 0, none⟩, ⟨.beat (beatOf (.manch hM ⟨0, 0, false, true, 0, 0, 0, 0⟩)), 0, 7, false, 0, none⟩] } }

/-- DiscardsLand and ArrayLands. -/
theorem test_meets_discards_and_beats :
    (dueResults nowhere).length = 4 ∧ (∀ f ∈ dueResults nowhere, discarded f = true) ∧
    ((dueResults beating).filter isBeat).map landingPhase = [1, 0] ∧ (∀ f ∈ dueResults beating, f.slot = 7) ∧
    (∀ f ∈ dueResults beating, specWritten SR.fpflags f = none ∧ specWritten SR.accflags f = none) := by decide +kernel

/-- RepetitionsSkipped: a bundle of an operation with a false guard that repeats three times. -/
theorem test_meets_repetitions :
    (at0 prog).ctx 0 = Ctx.start ∧ Ctx.start.rep = 0 ∧
    Ctx.start.nullified { soloBundle (.add ⟨0, true, 0⟩ ⟨1, ⟨2, false⟩, ⟨3, true⟩⟩) with rep := 3 } = true ∧ Ctx.start.flight = [] ∧
    ((at0 prog).core 0).mode = .program := by decide +kernel

/-- SupervisorFaultFences; RecordsAreWritten with a ring of 16 that is empty, and one that is full, and the place of the record. -/
theorem test_meets_error_records :
    ((at0 sup).core 0).mode ≠ .fenced ∧ ((at0 sup).core 0).claim = none ∧
    [(0, false), (16, true)].all (fun (h, full) =>
      let u := { ready with err := { Errors.start with ring := { Ring.start with base := 0x300000, n := 4, head := h } } }
      let r := u.err.ring
      memWf u.mem && (decide (2 ^ r.n ≤ (r.head + 2 ^ 17 - r.tail) % 2 ^ 17) == full) &&
      u.deviceOk (r.base.toNat + 32 * (r.head % 2 ^ r.n)) 32) = true := by decide +kernel

/-- StoresKeepOtherBytes in supervisor mode: a store that leaves the core in it. -/
theorem test_meets_supervisor_store :
    (match exec (.st hL ⟨2, ⟨3, false⟩, 0, false, 0, 0, 0⟩) (superPointing 0x5A) with
      | .next t => (t.core 0).inSup && memByte t.mem (unitKey 0) == 0x5A
      | _ => false) = true ∧ ((superPointing 0x5A).core 0).inSup = true ∧ memWf (superPointing 0x5A).mem = true := by decide +kernel

/-- StepStops: a STEP with a pre-emption at it. -/
theorem test_meets_step_stop :
    let s := at0 { prog with launch := some 0, claim := some (0, false), preempt := some false }
    operandsB (.step hC ⟨57⟩) hC s [] ((List.range 7).map (fun k => .reg (57 + k))) [] = true ∧ (s.core 0).mode = .program ∧
    (s.core 0).preempt = some false ∧ (s.core 0).progBank = none := by decide +kernel

/-- SupervisorReturns. -/
theorem test_meets_supervisor_return : CanIssue (.reti hC) hC (at0 sup) ∧ ((at0 sup).core 0).inSup = true ∧
    ((at0 sup).ctx 0).rep = 0 ∧ ((begun (.reti hC) (at0 sup)).core 0).svCmds = [] := ⟨issuesB_sound rfl, rfl, rfl, rfl⟩

/-! ## Premises of rounding, of loops in end bundles, of bundles -/

/-- Rounding: 1 + 1/16 of e4m3 between 2^0 and 2^1 stays below the largest number, 2^9 does not. -/
theorem test_meets_rounding : (⟨11, 8, 3, -6, 448, 0x7E, false⟩ : FloatRow) ∈ floatRows ∧
    ((2 : ℚ) ^ (0 : ℤ) ≤ (17 : ℚ) * 2 ^ (-4 : ℤ) ∧ (17 : ℚ) * 2 ^ (-4 : ℤ) < 2 ^ ((0 : ℤ) + 1) ∧
      roundTo 0 0 false ((17 : ℚ) * 2 ^ (-4 : ℤ)) (max 0 (-6) - 3) ≤ 448) ∧
    ((2 : ℚ) ^ (9 : ℤ) ≤ (1 : ℚ) * 2 ^ (9 : ℤ) ∧ (1 : ℚ) * 2 ^ (9 : ℤ) < 2 ^ ((9 : ℤ) + 1) ∧
      448 < roundTo 0 0 false ((1 : ℚ) * 2 ^ (9 : ℤ)) (max 9 (-6) - 3)) :=
  ⟨.tail _ (.tail _ (.tail _ (.head _))), by decide +kernel, by decide +kernel⟩

/-- Rounding, special operands of f16: a number, an infinity, a NaN that is signalling and one that is not. -/
theorem test_meets_special_operands :
    let t : FloatRow := ⟨10, 16, 10, -14, 65504, 0x7BFF, true⟩
    t ∈ floatRows ∧ t.finite 0x7BFF = true ∧ t.finite 0x7C00 = false ∧ t.infinite 0xFC00 = true ∧ t.isNan 0x7C01 = true ∧
    t.signalling 0x7C01 = true ∧ t.signalling 0x7E00 = false :=
  ⟨.tail _ (.tail _ (.head _)), rfl, rfl, rfl, rfl, rfl, rfl⟩

/-- LoopsStart and LevelsPop at the end bundle of an outer level that ends there, and of one that repeats; with six levels
left; with fewer than are removed. -/
theorem test_meets_loops_in_end_bundles :
    [1, 2].all (fun n => let s := looping 1 n 0x100
      (s.core 0).runs && !(s.core 0).landFull && wellFormed (.loop 4 2) && branchForm (.loop 4 2) != 0 &&
      ((loopOf (branchSeen (.loop 4 2) s) (.loop 4 2)).map (fun r => r.2.1)) == some 1 &&
      levelsLeft (branchSeen (.loop 4 2) s).x == (if n = 1 then 0 else 1) &&
      levelsLeft (branchSeen (.lpop 1) s).x == (if n = 1 then 0 else 1)) = true ∧
    levelsLeft (branchSeen (.loop 4 2) (looping 6 0 8)).x = 6 ∧ levelsLeft (branchSeen (.lpop 6) (looping 5 0 8)).x = 5 := by
  decide +kernel

/-- LoopsStart with no trips: an end bundle whose header is read, and one whose address does not translate. -/
theorem test_meets_loop_lengths :
    (CanBranch (.loopImm 2 0) atCode ∧ (loopOf (branchSeen (.loopImm 2 0) atCode) (.loopImm 2 0)).map (fun r => r.2) =
      some (0, BitVec.ofNat 64 (fetchPlace + 16))) ∧
    (match lengthAt (begun (.loopImm 2 0) atCode) 0 (BitVec.ofNat 64 (fetchPlace + 16)) with
      | .ok len => len == 1
      | .error _ => false) = true ∧
    (loopOf (branchSeen (.loopImm 2 0) (looping 5 0 8)) (.loopImm 2 0)).map (fun r => r.2) = some (0, 0x110) ∧
    (match lengthAt (begun (.loopImm 2 0) (looping 5 0 8)) 0 0x110 with
      | .ok _ => false
      | .error t => t.cls == 17 && t.num == 9) = true :=
  ⟨⟨⟨by decide +kernel, by decide +kernel, wellFormed_sound rfl, rfl⟩, by decide +kernel⟩, by decide +kernel, by decide +kernel,
    by decide +kernel⟩

/-- A bundle of an ADD, a VADD and a false MOVI in S1, under way. -/
def threeOps : List (Hdr × Instr) :=
  [(hS, .add hS ⟨1, ⟨2, false⟩, ⟨3, true⟩⟩), (⟨1, true, 0⟩, .movi ⟨1, true, 0⟩ ⟨9, 5⟩),
   (hV, .vadd hV ⟨4, 0, 0, 0x81, 0x102, 0, false, false⟩)]
def tripling : State :=
  let b : Bundle := { len := 4, rep := 0, pres := 0x13, hold := 0, step := 0, branch := none,
                      slots := threeOps.map (fun p => (p.1.slot, encodeWord p.2)) }
  booted { prog with prog := { Ctx.start with cur := some b } }

set_option exponentiation.threshold 2000 in
set_option maxRecDepth 20000 in
/-- BundlesIssue. -/
theorem test_meets_bundles :
    let u := tripling
    let c := (bundleBegun 0 u).core 0
    let active := threeOps.filter (fun p => c.ctx.pred p.1.pred.toNat != p.1.neg)
    BitVec.ofNat 9 ((threeOps.map (fun p => 2 ^ p.1.slot.val)).sum) = 0x13 ∧
    u.sec.halted = false ∧ (u.core 0).runs = true ∧ (u.core 0).landFull = false ∧
    ((u.modCore 0 Core.countCycle).core 0).dueTrap = none ∧ (u.ctx 0).rep = 0 ∧ c.inSup = false ∧
    (threeOps.map (·.1.slot)).Pairwise (· < ·) ∧ threeOps.all (fun p => wellFormed p.2 && hdrOfInstr p.2 == some p.1) = true ∧
    active.map (·.1.slot.val) = [0, 4] ∧
    (match bundleEffects 0 u active [] [] with
      | some es => es.length == 2 && es.all (fun e => srcsB c [] e.srcs && e.dsts.all (fun d => !dstEmpty c d) && e.pushes.isEmpty &&
          (popsOf e.srcs).isEmpty && !c.ctx.srStall e.mode)
      | none => false) = true := by decide +kernel

/-- A core whose access 6 has performed, with this in flight. -/
def arriving (dst : RDst) (k : Nat) (fs : List Flight) : State :=
  let r := performed .load dst 0x80000000
  let a : Racc := { r with cells := List.replicate k (r.cells.headD (newCell 0 4 0 0 0)) }
  booted { prog with prog := { Ctx.start with empty := 2, flight := fs, racc := [a] } }
/-- A line of tile 1 whose every lane is a cell. -/
def wholeLine : RDst := .line 0x81 false (lanes.map (fun i => (i, i, 0))) 32 false 0

set_option exponentiation.threshold 5000 in
set_option maxRecDepth 20000 in
/-- ArrivalsHeld: a register and a line, with a write of theirs in flight, in a bank, and with none. -/
theorem test_meets_arrivals :
    [arriving (.sreg 1 32 true) 1 [], arriving (.sreg 1 32 true) 1 [⟨.sreg 1 9, 3, 0, false, 0, none⟩], arriving wholeLine 128 [],
     arriving wholeLine 128 [⟨.lines 0x81 1 [0], 3, 4, false, 0, none⟩],
     (arriving (.sreg 1 32 true) 1 []).modCore 0 (fun c => { c with sysBank := some ⟨[⟨.sreg 1 9, 3, 0, false, 0, none⟩], []⟩ }),
     (arriving (.sreg 1 32 true) 1 []).modCore 0 (fun c => { c with progBank := some ⟨[⟨.sreg 1 9, 3, 0, false, 0, none⟩], []⟩ }),
     (arriving wholeLine 128 []).modCore 0 (fun c => { c with progBank := some ⟨[⟨.lines 0x81 1 [0], 3, 4, false, 0, none⟩], []⟩ })].all (fun u =>
      let c := u.core 0
      !u.sec.halted && !supId 6 && (match (c.side false).racc.find? (fun q => q.id == 6) with
        | some r => r.cells.all (·.done) && (match r.dst with
          | .sreg k _ _ => k == 1
          | .line spec _ _ _ _ _ => spec == 0x81 && specTile spec
          | _ => false)
        | none => false)) = true ∧
    writesReg 1 ⟨.sreg 1 9, 3, 0, false, 0, none⟩ = true ∧
    writesLine 0x81 false ⟨.lines 0x81 1 [0], 3, 4, false, 0, none⟩ = true := by decide +kernel

/-! ## Premises of the package's further statements -/

/-- A booted, mapped package that keeps the access 7 of package 1. -/
def keeping (q : FabricReq) : State := { mapped with coll := { Coll.start with fabric := [(7, q)] } }
/-- A translation is refused. -/
def refusedB {α : Type} (r : State × Except XFail α) : Bool := !r.2.isOk

set_option exponentiation.threshold 2000 in
set_option maxRecDepth 20000 in
/-- FabricRetries: one that waits for a parked request, a write, a read of the chunk buffers, a read that translates, one that
does not and is no notice's, and one that is. -/
theorem test_meets_kept_accesses :
    (let q : FabricReq := ⟨1, 0x10, 0x300000, 4, none⟩
     let u := { keeping q with xl := { Xlat.start with parked := [(3, ⟨.fabric, 7, 1, 0x10, 0x300000, false, 0, 0⟩)] } }
     u.coll.fabric = [(7, q)] ∧ ∃ p ∈ u.xl.parked, p.2.kind = .fabric ∧ p.2.ident = 7) ∧
    [(⟨1, 0x10, 0x300000, 4, some [1, 2, 3, 4]⟩ : FabricReq), ⟨1, 0x18, 0, 4, none⟩, ⟨1, 0x10, 0x300000, 4, none⟩, ⟨1, 0x10, 0x50000000, 4, none⟩].all
      (fun q => (keeping q).xl.parked.isEmpty && ((keeping q).noticeOf q).isNone) = true ∧
    ((keeping ⟨1, 0x10, 0x300000, 4, some [1, 2, 3, 4]⟩).vaWrite 0x300000 4 (ofBytes [1, 2, 3, 4])).2.isOk = true ∧
    ((keeping ⟨1, 0x10, 0x300000, 4, none⟩).vaRead 0x300000 4).2.isOk = true ∧
    refusedB ((keeping ⟨1, 0x10, 0x50000000, 4, none⟩).vaRead 0x50000000 4) = true ∧
    (let q : FabricReq := ⟨1, 0x10, 0x50000000, 4, none⟩
     let e := BitVec.ofNat 256 (2 ^ 16 + 2 ^ 80 + 0x1000000050000000 * 2 ^ 128)
     let v := runningBoard .armed e (.posted 0)
     let u := { v with coll := { v.coll with fabric := [(7, q)] } }
     u.coll.fabric == [(7, q)] && u.noticeOf q == some (0, 0) && refusedB (u.vaRead 0x50000000 4) && u.xl.parked.isEmpty) = true := by
  decide +kernel

set_option exponentiation.threshold 2000 in
set_option maxRecDepth 20000 in
/-- RunsSettle: a run that is complete, and one that is not; one that failed, and one with a transfer under way; one that is
over, and one with a notice out; one that waits. -/
theorem test_meets_settling :
    [(runningBoard .armed signal .completed, true), (runningBoard .armed signal .due, false), (runningBoard (.failed 3 0) signal .abandoned, true),
     (runningBoard (.failed 3 0) pullEntry .moved, false), (runningBoard .completed signal .completed, true),
     (runningBoard .completed noticeEntry (.posted 0), false), (runningBoard .waiting signal .armed, true)].all (fun (u, ends) =>
      u.sched.queues.all (fun p => p.2.items.all (fun it => match it with
        | .run _ => true
        | _ => false)) && u.coll.runs.map (·.1) == [0] &&
      match u.run 0 with
      | some r => r.id == 0 && (match r.phase with
        | .armed => r.entries.any (fun e => e.phase != .completed) != ends
        | .failed .. => r.entries.any underTransfer != ends
        | .completed => r.entries.any EntryState.isPosted != ends
        | _ => ends)
      | none => false) = true := by decide +kernel

/-- Engine 17 waits at the only element of such a job, having read the guard and this reciprocal, under identity 3. -/
def waitingEngine : State :=
  let u := owned (guarded 0)
  { u with skim := { u.skim with jobs := u.skim.jobs.map (fun j => { j with engines := [(17, .parked 0 (some 0x3F000000) 3)] }) } }
/-- The parked request of a skim engine. -/
def skimRequest : Request := ⟨.skim, 0, 1, 0x10, 0x300000, false, 17, 0⟩

set_option exponentiation.threshold 2000 in
set_option maxRecDepth 20000 in
/-- SkimResumes: no engine waits; the engine of the last element does; a block does. -/
theorem test_meets_skim_resumption :
    (skimRequest.ident = 0 ∧ (jobOf (guarded 0)).id = 0 ∧ (jobOf (guarded 0)).engines = [] ∧ (jobOf (guarded 0)).stuck = []) ∧
    (let u := waitingEngine
     let j := jobOf u
     !u.sec.halted && j.engines == [(17, .parked 0 (some 0x3F000000) 3)] && j.span.1 + j.span.2 == 1 && decide (skAlg j.record < 4) &&
     u.ownerOf (skMaster j.record % 2 ^ 48) == some 17 && (u.pset 17).mode != .fenced &&
     (match operandsRead (ownerKnown u j 0 17) j 0 with
      | (v, some (g, x, m, n)) => (match v.skWrites (elementWrites j.record (some 0x3F000000) 0 g x m n).1 with
        | (_, .ok ()) => true
        | _ => false)
      | _ => false)) = true ∧
    (let u := job (skimRecord 0x2000 16 256) allUpdated
     let v := { u with skim := { u.skim with jobs := u.skim.jobs.map (fun j => { j with stuck := [(0, 3)] }) } }
     !v.sec.halted && (jobOf v).stuck == [(0, 3)] && (jobOf v).engines.all (fun p => p.2 == .updated)) = true := by decide +kernel

/-- The slate for cluster 0 at this PRIO. -/
def slateOf (prio : Nat) : BitVec 2048 := slate + BitVec.ofNat 2048 (prio * 2 ^ 520)
/-- A launch runs at PRIO 1 on cluster 0, and one of PRIO 3 waits, for the same cluster or for cluster 1. -/
def contended (c : Nat) : State :=
  let a : Launch := { running with slate := slateOf 1 }
  let b : Launch := { newLaunch 1 62 (slateOf 3 + BitVec.ofNat 2048 (c * 2 ^ 448)) with since := some 0 }
  let q (l : Nat) : Queue := { Queue.start with disabled := false, launches := [l] }
  { ready with
    cores := [(0, { prog with launch := some 0 }), (1, { prog with launch := some 0 })],
    sched := { Sched.start with launches := [(0, a), (1, b)], nextLaunch := 2, queues := [(62, q 1), (63, q 0)] } }

set_option exponentiation.threshold 2000 in
set_option maxRecDepth 20000 in
/-- SchedulerConsiders: the first of the ready launches has enough clusters; it has not, and the other launch is stopped. -/
theorem test_meets_considering :
    [contended 1, contended 0].all (fun u => decide ((u.sched.launches.map (·.1)).Pairwise (· < ·)) && u.sched.reserved.isEmpty &&
      u.sched.launches.all (fun p => p.2.id == p.1 && decide (p.2.queue < 64))) = true ∧
    ((refreshed (contended 1)).readyOrder.map (fun l => (l.id, (refreshed (contended 1)).enough l))) = [(1, true)] ∧
    (let v := refreshed (contended 0)
     (v.readyOrder.map (fun l => (l.id, v.enough l, decide ((v.takable l).length + (comingTo v l).length < v.needs l), v.effective l,
       v.usable l))) = [(1, false, true, 3, [0])] ∧
     (match v.launch 0 with
       | some w => w.phase == .running && slPclass w.slate != 2 && decide (slPrio w.slate < 3) && w.held == [0]
       | none => false) = true ∧ askable ((contended 0).core 0) = true) := by decide +kernel

/-- The parts of an image follow one another from an offset on. -/
def chainB : Nat → Image → Bool
  | _, [] => true
  | a, p :: r => decide (a ≤ p.1) && chainB (p.1 + p.2.1) r

theorem chainB_sound (im : Image) : ∀ a, chainB a im = true → (∀ p ∈ im, a ≤ p.1) ∧
    im.Pairwise (fun p q => p.1 + p.2.1 ≤ q.1 ∨ q.1 + q.2.1 ≤ p.1) := by
  induction im with
  | nil => intro a _; exact ⟨by simp, List.Pairwise.nil⟩
  | cons p r ih =>
    intro a h
    simp only [chainB, Bool.and_eq_true, decide_eq_true_eq] at h
    obtain ⟨h1, h2⟩ := ih _ h.2
    refine ⟨fun q hq => ?_, List.Pairwise.cons (fun q hq => .inl (h1 q hq)) h2⟩
    rcases List.mem_cons.1 hq with rfl | hq
    · exact h.1
    · have := h1 q hq; omega

theorem apart_of_chain {size : Nat} {im : Image} (h : (im.all (fun p => decide (p.1 + p.2.1 ≤ size)) && chainB 0 im) = true) :
    Apart size im := by
  simp only [Bool.and_eq_true, List.all_eq_true, decide_eq_true_eq] at h
  exact ⟨h.1, (chainB_sound im 0 h.2).2⟩

/-- A stopped core of a launch whose frozen program has registers, results and tiles; `step` where it stopped at a STEP. -/
def frozen (step : Bool) : Core :=
  let e : List Flight := [⟨.sreg 3 9, 2, 1, false, 3, none⟩, ⟨.lines 0 (BitVec.allOnes 4096) [5], 1, 4, false, 0, none⟩]
  { sup with
    launch := some 0, claim := if step then none else some (1, true), sysBank := some ⟨e, []⟩, tiles := [(3, 77)],
    sup := { Ctx.start with sr := [(SR.trapcause, if step then 0x9300 else 0x9301)] },
    prog := { Ctx.start with s := [(3, 5), (63, 0xFFFF)] } }
/-- A launch of two clusters whose cores 0 and 33 have stopped and whose core 1 has ended. -/
def stopping : Launch :=
  { newLaunch 0 63 (slate + BitVec.ofNat 2048 (2 ^ 450 + 2 ^ 563)) with
    phase := .stopping true, held := [0, 2], clusters := [0, 2], walkers := [⟨0, true, 3, 9⟩, ⟨2, true, 10, 12⟩, ⟨2, false, 10, 12⟩],
    restart := [(4, true)], triggered := 3, retired := 2, early := true, started := [0, 1, 33], finished := [1] }
/-- Its package, with a save base. -/
def saving : State :=
  { mapped with
    cores := [(0, frozen false), (1, { Core.start with mode := .exited, launch := some 0 }), (33, frozen true)],
    sched := { Sched.start with launches := [(0, stopping)], queues := [(63, { Queue.start with launches := [0], saveBase := 0x1000000 })] } }

set_option exponentiation.threshold 2000 in
set_option maxRecDepth 20000 in
/-- LaunchesAreSaved: the pieces of the save area, and the positions: core 0 stopped in a step, core 1 ended, core 33 stopped at a
STEP. -/
theorem test_meets_saving :
    (let saved := saving.savedPositions stopping
     let sizes := (saved.map (fun p => if p.clean then 262144 else 262144 + 540672 + 292864 + 2 ^ 21))
     saved.map (fun p => (p.pos, p.ended, p.clean)) = [(0, false, false), (1, true, false), (17, false, true)] ∧
     (match saving.pieces 0x1000000 (0x15000 + sizes.sum) true with
      | (v, .ok ps) => memWf v.mem && ps.all (fun p => v.deviceOk p.2.1 p.2.2 && decide (p.2.1 + p.2.2 ≤ 2 ^ 40)) &&
        decide (ps.Pairwise (fun p q => p.2.1 + p.2.2 ≤ q.2.1 ∨ q.2.1 + q.2.2 ≤ p.2.1)) && v.cores == saving.cores
      | _ => false) = true) ∧
    stopping.held.length ≤ 64 ∧ stopping.held.Nodup ∧ stopping.walkers.length ≤ 64 ∧ stopping.restart.length ≤ 1024 ∧
    (stopping.groups.getD []).length ≤ 16 := by decide +kernel

set_option exponentiation.threshold 5000 in
set_option maxRecDepth 20000 in
/-- LaunchesAreSaved: the parts of the positions' contexts. -/
theorem test_meets_saved_contexts :
    Apart 262144 (contextImage saving 0 0) ∧ Apart 540672 (contextImage saving 0 1) ∧ Apart 292864 (contextImage saving 0 2) ∧
    Apart 262144 (contextImage saving 1 0) ∧ Apart 540672 (contextImage saving 1 1) ∧ Apart 292864 (contextImage saving 1 2) ∧
    Apart 262144 (contextImage saving 33 0) := by
  refine ⟨?_, ?_, ?_, ?_, ?_, ?_, ?_⟩ <;> exact apart_of_chain (by decide +kernel)

end Sys2Proof.Tests
end

section
/-! SUPPORT. What the scheduler may change when it considers launches (R248, R257, R261): launches, reservations and requests to
stop, and nothing else. -/

namespace Sys2Proof.Machine

open Sys2Proof.Claims

/-- From `s` to `t` only launches, reservations and the cores' requests to stop have changed. -/
structure Rescheduled (s t : State) : Prop where
  frame : { t with sched := s.sched, cores := s.cores } = s
  queues : t.sched.queues = s.sched.queues
  cores : ∀ k, { t.core k with preempt := (s.core k).preempt } = s.core k

theorem Rescheduled.refl (s : State) : Rescheduled s s := ⟨rfl, rfl, fun _ => rfl⟩

theorem Rescheduled.trans {s t v : State} (h : Rescheduled s t) (g : Rescheduled t v) : Rescheduled s v where
  frame := (congrArg (fun x : State => { x with sched := s.sched, cores := s.cores }) g.frame).trans h.frame
  queues := g.queues.trans h.queues
  cores k := (congrArg (fun c : Core => { c with preempt := (s.core k).preempt }) (g.cores k)).trans (h.cores k)

theorem Rescheduled.mode {s t : State} (h : Rescheduled s t) (k : Nat) : (t.core k).mode = (s.core k).mode :=
  (congrArg Core.mode (h.cores k) :)

theorem Rescheduled.claim {s t : State} (h : Rescheduled s t) (k : Nat) : (t.core k).claim = (s.core k).claim :=
  (congrArg Core.claim (h.cores k) :)

theorem Rescheduled.ctx {s t : State} (h : Rescheduled s t) (k : Nat) : (t.core k).ctx = (s.core k).ctx :=
  (congrArg Core.ctx (h.cores k) :)

/-- A fold of changes each of which is one of the scheduler's. -/
theorem Rescheduled.foldl {α : Type} {f : State → α → State} (hf : ∀ s a, Rescheduled s (f s a)) (l : List α) (s : State) :
    Rescheduled s (l.foldl f s) :=
  List.foldlRecOn l f (.refl s) fun t ht a _ => ht.trans (hf t a)

theorem rescheduled_of_queues (s : State) {v : Sched} (h : v.queues = s.sched.queues) : Rescheduled s { s with sched := v } :=
  ⟨rfl, h, fun _ => rfl⟩

theorem rescheduled_setLaunch (s : State) (l : Launch) : Rescheduled s (s.setLaunch l) := rescheduled_of_queues s rfl

theorem rescheduled_modCore (s : State) (n : Nat) {f : Core → Core} (hf : ∀ c, { f c with preempt := c.preempt } = c) :
    Rescheduled s (s.modCore n f) := by
  refine ⟨rfl, rfl, fun k => ?_⟩
  by_cases h : k = n
  · subst h; rw [State.core_modCore_same]; exact hf _
  · rw [State.core_modCore_ne _ _ _ _ h]

theorem rescheduled_requestStop (s : State) (cores : List Nat) (bundle : Bool) : Rescheduled s (s.requestStop cores bundle) :=
  Rescheduled.foldl (fun s n => rescheduled_modCore s n fun c => by split <;> rfl) cores s

theorem rescheduled_startPreemption (s : State) (l : Launch) : Rescheduled s (s.startPreemption l) :=
  (rescheduled_setLaunch s _).trans (rescheduled_requestStop _ _ _)

theorem rescheduled_preemptFor (cand : List Nat) (vs : List Launch) (s : State) (need : Nat) :
    Rescheduled s (s.preemptFor cand vs need) := by
  induction vs generalizing s need with
  | nil => exact .refl s
  | cons v vs ih =>
    simp only [State.preemptFor]
    split
    · exact .refl s
    · split
      · exact ih s need
      · exact (rescheduled_startPreemption s v).trans (ih _ _)

theorem rescheduled_reserveFor (s : State) (l : Launch) : Rescheduled s (s.reserveFor l) := by
  refine (rescheduled_of_queues s ?_).trans (rescheduled_preemptFor _ _ _ _)
  rfl

theorem rescheduled_considerAll (ls : List Launch) (s : State) : Rescheduled s (State.considerAll ls s) := by
  induction ls generalizing s with
  | nil => exact .refl s
  | cons l ls ih =>
    simp only [State.considerAll]
    split
    · exact .refl s
    · exact (rescheduled_reserveFor s l).trans (ih _)

theorem rescheduled_consider (s : State) : Rescheduled s s.consider := by
  unfold State.consider
  split
  · exact .refl s
  · refine Rescheduled.trans ?_ (rescheduled_considerAll _ _)
    exact rescheduled_of_queues s rfl

theorem rescheduled_modLaunch (s : State) (i : Nat) (f : Launch → Launch) : Rescheduled s (s.modLaunch i f) := by
  unfold State.modLaunch
  split
  · exact rescheduled_setLaunch s _
  · exact .refl s

theorem rescheduled_markOver (s : State) (n : Nat) : Rescheduled s (s.markOver n) := by
  unfold State.markOver
  split
  · exact rescheduled_modLaunch s _ _
  · exact .refl s

end Sys2Proof.Machine
end

section
/-! SUPPORT. An event counter takes a value (R182, R296, R357, R358). -/

namespace Sys2Proof

/-- A key below every listed key reads as the default. -/
theorem FMap.look_eq_default_of_lt {α : Type} {d : α} {m : FMap α} {k : Nat} (h : ∀ p ∈ m, k < p.1) : m.look d k = d := by
  cases m with
  | nil => rfl
  | cons p m =>
    have hk : k < p.1 := h p List.mem_cons_self
    simp [FMap.look, hk.ne', hk]

end Sys2Proof

namespace Sys2Proof.Machine

open Sys2Proof.Claims

/-- One interrupt entry against a counter (R358). -/
def State.testIrq (ctr : Nat) (s : State) (e : Nat × BitVec 128) : State :=
  if irqMet ctr (s.counter ctr) e.2 then
    ({ s with irqs := s.irqs.put e.1 (e.2 &&& ~~~((1 : BitVec 128) <<< 63)) }).send (.msix (e.2.toNat / 2 ^ 16 % 2 ^ 11))
  else s

theorem irqMet_iff (n : Nat) (c : W64) (v : BitVec 128) :
    irqMet n c v = true ↔ v.toNat >>> 63 % 2 = 1 ∧ v.toNat % 2 ^ 12 = n ∧ v.toNat >>> 64 ≤ c.toNat := by
  have hbit : v.getLsbD 63 = true ↔ v.toNat >>> 63 % 2 = 1 := by
    rw [BitVec.getLsbD, Nat.testBit_eq_decide_div_mod_eq, decide_eq_true_iff, Nat.shiftRight_eq_div_pow]
  simp only [irqMet, Bool.and_eq_true, hbit, beq_iff_eq, decide_eq_true_eq, Nat.shiftRight_eq_div_pow, and_assoc]

theorem testIrqs_eq_foldl (s : State) (ctr : Nat) : s.testIrqs ctr = s.irqs.foldl (State.testIrq ctr) s := by
  have hbit : (1 : BitVec 128) <<< 63 = BitVec.ofNat 128 (2 ^ 63) := by decide
  unfold State.testIrqs
  congr 1
  funext s e
  simp only [State.testIrq, irqMet_iff, hbit, Nat.shiftRight_eq_div_pow]

theorem testIrq_frame (ctr : Nat) (s : State) (e : Nat × BitVec 128) :
    { s.testIrq ctr e with irqs := s.irqs, out := s.out } = s := by
  unfold State.testIrq
  split <;> rfl

/-- A fold of tests changes interrupt entries and outputs alone. -/
theorem foldl_testIrq_frame (ctr : Nat) (l : List (Nat × BitVec 128)) (s : State) :
    { l.foldl (State.testIrq ctr) s with irqs := s.irqs, out := s.out } = s :=
  List.foldlRecOn (motive := fun t => { t with irqs := s.irqs, out := s.out } = s) l _ rfl fun t ht e _ =>
    (congrArg (fun x : State => { x with irqs := s.irqs, out := s.out }) (testIrq_frame ctr t e)).trans ht

theorem counter_testIrq (ctr : Nat) (s : State) (e : Nat × BitVec 128) (n : Nat) : (s.testIrq ctr e).counter n = s.counter n :=
  (congrArg (fun x : State => x.counter n) (testIrq_frame ctr s e) :)

theorem foldl_testIrq_out (ctr : Nat) (l : List (Nat × BitVec 128)) (s : State) :
    (l.foldl (State.testIrq ctr) s).out =
      s.out ++ (l.filter (fun e => irqMet ctr (s.counter ctr) e.2)).map (fun e => .msix (e.2.toNat / 2 ^ 16 % 2 ^ 11)) := by
  induction l generalizing s with
  | nil => simp
  | cons e l ih =>
    rw [List.foldl_cons, ih, counter_testIrq, List.filter_cons]
    by_cases h : irqMet ctr (s.counter ctr) e.2 = true
    · simp [State.testIrq, h]
    · simp [State.testIrq, h]

theorem irqMet_zero (n : Nat) (c : W64) : irqMet n c 0#128 = false := by simp [irqMet]

theorem look_testIrq (ctr : Nat) (s : State) (e : Nat × BitVec 128) (k : Nat) :
    (s.testIrq ctr e).irqs.look 0 k =
      if k = e.1 ∧ irqMet ctr (s.counter ctr) e.2 = true then e.2 &&& ~~~((1 : BitVec 128) <<< 63) else s.irqs.look 0 k := by
  unfold State.testIrq
  split
  · next h => simp only [h, and_true]; exact FMap.look_put _ _ _ _ _
  · next h => simp [h]

/-- An entry of the list that is met disarms; every other stays as it was. -/
theorem look_foldl_testIrq (ctr : Nat) (l : FMap (BitVec 128)) (s : State) (hl : l.Pairwise (fun a b => a.1 < b.1)) (k : Nat) :
    (l.foldl (State.testIrq ctr) s).irqs.look 0 k =
      if irqMet ctr (s.counter ctr) (l.look 0 k) then l.look 0 k &&& ~~~((1 : BitVec 128) <<< 63) else s.irqs.look 0 k := by
  induction l generalizing s with
  | nil => simp [irqMet_zero]
  | cons e l ih =>
    obtain ⟨habove, hl⟩ := List.pairwise_cons.1 hl
    rw [List.foldl_cons, ih _ hl, counter_testIrq, look_testIrq]
    rcases lt_trichotomy k e.1 with h | rfl | h
    · have hrest : FMap.look 0#128 l k = 0#128 := FMap.look_eq_default_of_lt fun p hp => h.trans (habove p hp)
      simp [FMap.look, hrest, irqMet_zero, h, h.ne, h.ne']
    · have hrest : FMap.look 0#128 l e.1 = 0#128 := FMap.look_eq_default_of_lt habove
      simp [FMap.look, hrest, irqMet_zero]
    · simp [FMap.look, h.not_gt, h.ne, h.ne']

/-- The interrupt entries against a counter (R358). -/
theorem irqsTested_testIrqs (s : State) (n : Nat) : IrqsTested s.irqs n (s.counter n) s (s.testIrqs n) := by
  rw [testIrqs_eq_foldl]
  refine ⟨foldl_testIrq_out n s.irqs s, fun hl k => ?_⟩
  rw [look_foldl_testIrq n s.irqs s hl k]
  split
  · rfl
  · exact (BitVec.and_allOnes ..).symm

theorem testIrqs_frame (s : State) (n : Nat) : { s.testIrqs n with irqs := s.irqs, out := s.out } = s := by
  rw [testIrqs_eq_foldl]
  exact foldl_testIrq_frame n s.irqs s

theorem dueEntries_frame (s : State) : { s.dueEntries with coll := s.coll } = s := by
  unfold State.dueEntries
  split <;> rfl

/-- Which storyboard entries are due does not depend on interrupt entries and outputs. -/
theorem coll_dueEntries_of_frame (s : State) (irqs : FMap (BitVec 128)) (out : List Msg) :
    ({ s with irqs := irqs, out := out }).dueEntries.coll = s.dueEntries.coll := by
  simp only [State.dueEntries, apply_ite State.coll]
  rfl

theorem coll_dueEntries_testIrqs (s : State) (n : Nat) : (s.testIrqs n).dueEntries.coll = s.dueEntries.coll :=
  (coll_dueEntries_of_frame (s.testIrqs n) s.irqs s.out).symm.trans
    (congrArg (fun x : State => x.dueEntries.coll) (testIrqs_frame s n))

/-- What a counter's new value changes before the scheduler looks at it: the counters, what is sent, interrupt and storyboard
entries. -/
theorem putCounter_frame (s : State) (n : Nat) (v : W64) :
    { s.putCounter n v with counters := s.counters, irqs := s.irqs, out := s.out, coll := s.coll } = s :=
  let w : State := { s with counters := s.counters.put n v }
  calc { s.putCounter n v with counters := s.counters, irqs := s.irqs, out := s.out, coll := s.coll }
    _ = { w.testIrqs n with counters := s.counters, irqs := s.irqs, out := s.out, coll := s.coll } :=
      congrArg (fun x : State => { x with counters := s.counters, irqs := s.irqs, out := s.out, coll := s.coll })
        (dueEntries_frame (w.testIrqs n))
    _ = { w with counters := s.counters, irqs := s.irqs, out := s.out, coll := s.coll } :=
      congrArg (fun x : State => { x with counters := s.counters, irqs := s.irqs, out := s.out, coll := s.coll })
        (testIrqs_frame w n)

theorem putCounter_sched (s : State) (n : Nat) (v : W64) : (s.putCounter n v).sched = s.sched :=
  (congrArg State.sched (putCounter_frame s n v) :)

@[simp] theorem core_putCounter (s : State) (n : Nat) (v : W64) (k : Nat) : (s.putCounter n v).core k = s.core k :=
  (congrArg (fun x : State => x.core k) (putCounter_frame s n v) :)

theorem putCounter_counters (s : State) (n : Nat) (v : W64) : (s.putCounter n v).counters = s.counters.put n v :=
  (congrArg State.counters (dueEntries_frame _) :).trans (congrArg State.counters (testIrqs_frame _ n) :)

/-- What watches the counter is tested against its new value. -/
theorem irqsTested_putCounter (s : State) (n : Nat) (v : W64) : IrqsTested s.irqs n v s (s.putCounter n v) := by
  let w : State := { s with counters := s.counters.put n v }
  have hv : w.counter n = v := FMap.look_put_same _ _ _ _
  have hirqs : (s.putCounter n v).irqs = (w.testIrqs n).irqs := (congrArg State.irqs (dueEntries_frame (w.testIrqs n)) :)
  have hout : (s.putCounter n v).out = (w.testIrqs n).out := (congrArg State.out (dueEntries_frame (w.testIrqs n)) :)
  have h := irqsTested_testIrqs w n
  rw [hv] at h
  rw [IrqsTested, hirqs, hout]
  exact h

/-- A counter is set, and what watches it is tested. -/
theorem counted_setCounter (s : State) (n : Nat) (v : W64) : Counted s n v (s.setCounter n v) := by
  obtain ⟨hframe, hqueues, hcores⟩ : Rescheduled (s.putCounter n v) (s.setCounter n v) := rescheduled_consider _
  have hcounters : (s.setCounter n v).counters = s.counters.put n v :=
    (congrArg State.counters hframe :).trans (putCounter_counters s n v)
  have hirqs : (s.setCounter n v).irqs = (s.putCounter n v).irqs := (congrArg State.irqs hframe :)
  have hout : (s.setCounter n v).out = (s.putCounter n v).out := (congrArg State.out hframe :)
  have hcoll : (s.setCounter n v).coll = (s.putCounter n v).coll := (congrArg State.coll hframe :)
  refine ⟨?_, fun m hm => ?_, ?_, ?_, ?_, fun k => ?_, fun q => ?_⟩
  · rw [State.counter, hcounters, FMap.look_put_same]
  · rw [State.counter, hcounters, FMap.look_put_ne _ _ _ _ _ hm]; rfl
  · rw [IrqsTested, hirqs, hout]; exact irqsTested_putCounter s n v
  · rw [hcoll]; exact coll_dueEntries_testIrqs _ n
  · let back (x : State) : State := { x with counters := s.counters, irqs := s.irqs, out := s.out, coll := s.coll }
    exact (congrArg (fun x : State => { back x with sched := s.sched, cores := s.cores }) hframe).trans
      (congrArg (fun x : State => { x with sched := s.sched, cores := s.cores }) (putCounter_frame s n v))
  · have h := hcores k
    rwa [core_putCounter] at h
  · rw [State.queue, hqueues, putCounter_sched]; rfl

/-- An interrupt entry after a write of one half of it. -/
def irqEntryAfter (old : BitVec 128) (high : Bool) (v : W64) : BitVec 128 :=
  if high then v ++ old.extractLsb' 0 64 else old.extractLsb' 64 64 ++ (v &&& 0x8000000007FF0FFF)

theorem writeIrq_of_vector (s : State) (e : Nat) (high : Bool) (v : W64)
    (hv : ¬(!high && decide (2039 < v.toNat / 2 ^ 16 % 2 ^ 11)) = true) :
    s.writeIrq e high v = { s with irqs := s.irqs.put e (irqEntryAfter (s.irqs.look 0 e) high v) }.testIrqs
      ((irqEntryAfter (s.irqs.look 0 e) high v).toNat % 2 ^ 12) := by
  have hlow : (s.irqs.look 0 e).extractLsb' 0 64 = (s.irqs.look 0 e).setWidth 64 := by
    apply BitVec.eq_of_toNat_eq; simp
  have hhigh : (s.irqs.look 0 e).extractLsb' 64 64 = BitVec.ofNat 64 ((s.irqs.look 0 e).toNat / 2 ^ 64) := by
    apply BitVec.eq_of_toNat_eq; simp [Nat.shiftRight_eq_div_pow]
  simp only [State.writeIrq, hv, irqEntryAfter, hlow, hhigh]
  rfl

end Sys2Proof.Machine
end

section
/-! SUPPORT. A core is fenced (R255, R288, R365): what changes at the other cores and in the package, and that no operation of the
scheduler takes the fence away. -/

namespace Sys2Proof.Machine

open Sys2Proof.Claims

/-- From `s` to `t` only the handles and offers of cores have changed. -/
structure HandlesMoved (s t : State) : Prop where
  frame : { t with cores := s.cores } = s
  cores : ∀ k, { t.core k with held := (s.core k).held, lent := (s.core k).lent, offers := (s.core k).offers } = s.core k

theorem HandlesMoved.refl (s : State) : HandlesMoved s s := ⟨rfl, fun _ => rfl⟩

theorem HandlesMoved.trans {s t v : State} (h : HandlesMoved s t) (g : HandlesMoved t v) : HandlesMoved s v where
  frame := (congrArg (fun x : State => { x with cores := s.cores }) g.frame).trans h.frame
  cores k := (congrArg (fun c : Core => { c with held := (s.core k).held, lent := (s.core k).lent, offers := (s.core k).offers })
    (g.cores k)).trans (h.cores k)

theorem HandlesMoved.mode {s t : State} (h : HandlesMoved s t) (k : Nat) : (t.core k).mode = (s.core k).mode :=
  (congrArg Core.mode (h.cores k) :)

theorem HandlesMoved.claim {s t : State} (h : HandlesMoved s t) (k : Nat) : (t.core k).claim = (s.core k).claim :=
  (congrArg Core.claim (h.cores k) :)

theorem HandlesMoved.ctx {s t : State} (h : HandlesMoved s t) (k : Nat) : (t.core k).ctx = (s.core k).ctx :=
  (congrArg Core.ctx (h.cores k) :)

theorem HandlesMoved.foldl {α : Type} {f : State → α → State} (hf : ∀ s a, HandlesMoved s (f s a)) (l : List α) (s : State) :
    HandlesMoved s (l.foldl f s) :=
  List.foldlRecOn l f (.refl s) fun t ht a _ => ht.trans (hf t a)

theorem handlesMoved_modCore (s : State) (n : Nat) {f : Core → Core}
    (hf : ∀ c, { f c with held := c.held, lent := c.lent, offers := c.offers } = c) : HandlesMoved s (s.modCore n f) := by
  refine ⟨rfl, fun k => ?_⟩
  by_cases h : k = n
  · subst h; rw [State.core_modCore_same]; exact hf _
  · rw [State.core_modCore_ne _ _ _ _ h]

theorem handlesMoved_giveBack (s : State) (n h v : Nat) : HandlesMoved s (s.giveBack n h v) := by
  unfold State.giveBack
  split
  · split
    · exact handlesMoved_modCore s n fun _ => rfl
    · refine .trans (handlesMoved_modCore s n ?_) (handlesMoved_modCore _ _ ?_) <;> exact fun _ => rfl
  · exact .refl s

theorem handlesMoved_withdrawTo (s : State) (n : Nat) : HandlesMoved s (s.withdrawTo n) := by
  unfold State.withdrawTo
  refine .trans (.foldl (fun s o => ?_) _ s) (handlesMoved_modCore _ n ?_)
  · exact handlesMoved_modCore s _ fun _ => rfl
  · exact fun _ => rfl

theorem handlesMoved_withdrawFrom (s : State) (n : Nat) : HandlesMoved s (s.withdrawFrom n) := by
  unfold State.withdrawFrom
  refine .trans (.foldl (fun s r => ?_) _ s) (handlesMoved_modCore _ n ?_)
  · split
    · exact .refl s
    · exact handlesMoved_modCore s _ fun _ => rfl
  · exact fun _ => rfl

theorem handlesMoved_settleHandles (s : State) (n v : Nat) : HandlesMoved s (s.settleHandles n v) :=
  (HandlesMoved.foldl (fun s h => handlesMoved_giveBack s n h v) _ s).trans
    ((handlesMoved_withdrawTo _ n).trans (handlesMoved_withdrawFrom _ n))

/-! ## What a record in a ring leaves of the cores -/

theorem foldl_cores {α : Type} {f : State → α → State} (hf : ∀ s a, (f s a).cores = s.cores) (l : List α) (s : State) :
    (l.foldl f s).cores = s.cores :=
  List.foldlRecOn (motive := fun t : State => t.cores = s.cores) l f rfl fun t ht a _ => (hf t a).trans ht

theorem wakeLine_cores (u : LineUse) (s : State) (pa : Nat) : (s.wakeLine u pa).cores = s.cores :=
  foldl_cores (f := State.wake) (fun _ _ => rfl) _ s

theorem wakeWritten_cores (s : State) (pa n : Nat) : (s.wakeWritten pa n).cores = s.cores :=
  foldl_cores (fun t _ => wakeLine_cores _ t _) _ s

theorem noteRebuilt_cores (s : State) (pa : Nat) : (s.noteRebuilt pa).cores = s.cores := by
  unfold State.noteRebuilt
  split
  · rfl
  · dsimp only
    split <;> rfl

theorem noteWritten_cores (s : State) (pa n : Nat) : (s.noteWritten pa n).cores = s.cores :=
  (foldl_cores noteRebuilt_cores _ _).trans (wakeWritten_cores s pa n)

theorem deviceWrite_cores (s : State) (pa n v : Nat) : (s.deviceWrite pa n v).cores = s.cores := by
  unfold State.deviceWrite
  split
  · exact noteWritten_cores _ pa n
  · rfl

theorem setRing_cores (s : State) (r : RingName) (x : Ring) : (s.setRing r x).cores = s.cores := by
  cases r <;> rfl

theorem ringWrite_cores (s : State) (r : RingName) (rec : BitVec 256) : (s.ringWrite r rec).cores = s.cores := by
  unfold State.ringWrite
  dsimp only
  split
  · exact (setRing_cores _ _ _).trans (deviceWrite_cores _ _ _ _)
  · exact (setRing_cores _ _ _).trans (deviceWrite_cores _ _ _ _)

theorem ringPost_cores (s : State) (r : RingName) (rec : BitVec 256) : (s.ringPost r rec).cores = s.cores := by
  unfold State.ringPost
  dsimp only
  split
  · exact setRing_cores _ _ _
  · exact ringWrite_cores _ _ _

theorem queueRecord_cores (s : State) (q kind cls : Nat) (core : Bool) (detail : W64) :
    (s.queueRecord q kind cls core detail).cores = s.cores := ringPost_cores _ _ _

/-! ## A fenced core stays fenced -/

theorem mode_addCounter (s : State) (c : Nat) (v : W64) (n : Nat) : ((s.addCounter c v).core n).mode = (s.core n).mode := by
  obtain ⟨-, -, -, -, -, hcores, -⟩ := counted_setCounter s c (s.counter c + v)
  exact (congrArg Core.mode (hcores n) :)

theorem fenced_modCore {s : State} {n : Nat} (h : (s.core n).mode = .fenced) (m : Nat) {f : Core → Core}
    (hf : ∀ c, c.mode = .fenced → (f c).mode = .fenced) : ((s.modCore m f).core n).mode = .fenced := by
  by_cases hm : n = m
  · subst hm; rw [State.core_modCore_same]; exact hf _ h
  · rwa [State.core_modCore_ne _ _ _ _ hm]

theorem fenced_releaseCores {s : State} {n : Nat} (h : (s.core n).mode = .fenced) (l : Launch) :
    ((s.releaseCores l).core n).mode = .fenced :=
  List.foldlRecOn (motive := fun t : State => (t.core n).mode = .fenced) _ _ h fun t ht m _ =>
    fenced_modCore ht m fun c hc => by rw [if_pos (.inl hc)]; exact hc

theorem fenced_abortLaunch {s : State} {n : Nat} (h : (s.core n).mode = .fenced) (l : Launch) :
    ((s.abortLaunch l).core n).mode = .fenced := by
  unfold State.abortLaunch
  rw [(rescheduled_consider _).mode]
  rw [State.core_setQueue, State.core, queueRecord_cores]
  exact fenced_releaseCores h l

theorem fenced_stepFailure {s : State} {n : Nat} (h : (s.core n).mode = .fenced) (m : Nat) :
    ((s.stepFailure m).core n).mode = .fenced := by
  unfold State.stepFailure
  split
  · exact h
  · next i _ =>
    split
    · exact h
    · extract_lets t claim v
      have ht : (t.core n).mode = .fenced := by
        unfold t
        split
        · rwa [mode_addCounter]
        · exact h
      have hv : (v.core n).mode = .fenced := fenced_modCore ht m fun _ hc => hc
      split
      · split
        · exact fenced_abortLaunch hv _
        · exact hv
      · rw [(rescheduled_modLaunch v i _).mode]; exact hv
      · rw [(rescheduled_modLaunch v i _).mode]; exact hv
      · exact hv

/-! ## The fence -/

/-- Core `n` without its outstanding accesses through handles (R288). -/
def State.discardHandleAccesses (s : State) (n : Nat) : State :=
  s.modCore n (fun c => { c with prog := { c.prog with racc := c.prog.racc.filter (fun r => r.handle == none) } })

/-- Core `n` is in the mode of a fenced core. -/
def State.markFenced (s : State) (n : Nat) : State := s.modCore n (fun c => { c with mode := .fenced })

/-- What a fence makes of the cores before the claim is settled (R255, R288). -/
def State.takeFence (s : State) (n : Nat) : State := ((s.discardHandleAccesses n).settleHandles n 1).markFenced n

theorem discardHandleAccesses_claim (s : State) (n : Nat) : ((s.discardHandleAccesses n).core n).claim = (s.core n).claim := by
  rw [State.discardHandleAccesses, State.core_modCore_same]

theorem discardHandleAccesses_ne (s : State) {n k : Nat} (hk : k ≠ n) : (s.discardHandleAccesses n).core k = s.core k :=
  State.core_modCore_ne _ _ _ _ hk

theorem markFenced_mode (s : State) (n : Nat) : ((s.markFenced n).core n).mode = .fenced := by
  rw [State.markFenced, State.core_modCore_same]

theorem markFenced_claim (s : State) (n : Nat) : ((s.markFenced n).core n).claim = (s.core n).claim := by
  rw [State.markFenced, State.core_modCore_same]

theorem markFenced_ne (s : State) {n k : Nat} (hk : k ≠ n) : (s.markFenced n).core k = s.core k :=
  State.core_modCore_ne _ _ _ _ hk

theorem frame_markFenced {s t : State} {n : Nat} (h : HandlesMoved (s.discardHandleAccesses n) t) :
    { t.markFenced n with cores := s.cores } = s :=
  (congrArg (fun x : State => { x with cores := s.cores }) h.frame :)

theorem takeFence_frame (s : State) (n : Nat) : { s.takeFence n with cores := s.cores } = s :=
  frame_markFenced (handlesMoved_settleHandles _ n 1)

theorem takeFence_claim (s : State) (n : Nat) : ((s.takeFence n).core n).claim = (s.core n).claim := by
  rw [State.takeFence, markFenced_claim, (handlesMoved_settleHandles _ n 1).claim, discardHandleAccesses_claim]

theorem takeFence_others (s : State) {n k : Nat} (hk : k ≠ n) :
    ((s.takeFence n).core k).mode = (s.core k).mode ∧ ((s.takeFence n).core k).ctx = (s.core k).ctx := by
  have h := handlesMoved_settleHandles (s.discardHandleAccesses n) n 1
  rw [State.takeFence, markFenced_ne _ hk, h.mode, h.ctx, discardHandleAccesses_ne _ hk]
  exact ⟨rfl, rfl⟩

theorem fenceCore_of_fenced {s : State} {n : Nat} (h : (s.core n).mode = .fenced) : s.fenceCore n = s := by
  simp [State.fenceCore, State.coreFenced, h]

/-- However its claim is settled, a core that is fenced is so at the end; where it claims nothing, what follows is the scheduler's. -/
theorem fenceCore_after_takeFence {s : State} {n : Nat} (h : (s.core n).mode ≠ .fenced) :
    ((s.fenceCore n).core n).mode = .fenced ∧
      ((s.core n).claim = none → Rescheduled (s.takeFence n) (s.fenceCore n)) := by
  rw [State.fenceCore, if_neg (by simpa [State.coreFenced] using h)]
  extract_lets dropped settled taken marked claimed sched disowned
  have htaken : taken = s.takeFence n := rfl
  have hmarked : Rescheduled (s.takeFence n) marked := htaken ▸ rescheduled_markOver taken n
  have hmode : (marked.core n).mode = .fenced := (hmarked.mode n).trans (markFenced_mode _ n)
  have hclaim : (marked.core n).claim = (s.core n).claim := (hmarked.claim n).trans (takeFence_claim s n)
  clear_value marked
  have hkept : (claimed.core n).mode = .fenced := by
    unfold claimed
    split
    · split
      · exact fenced_modCore (s := State.setLaunch _ _) hmode n fun _ hc => hc
      · exact fenced_stepFailure hmode n
    · exact hmode
  have hnone : (s.core n).claim = none → claimed = marked := by
    intro hc
    unfold claimed
    rw [hclaim, hc]
    cases (marked.core n).launch.bind marked.launch <;> rfl
  clear_value claimed
  have hdisowned : Rescheduled claimed disowned := by
    unfold disowned
    split
    · exact rescheduled_of_queues claimed rfl
    · exact .refl claimed
  have hend : Rescheduled claimed disowned.consider := hdisowned.trans (rescheduled_consider disowned)
  refine ⟨(hend.mode n).trans hkept, fun hc => hmarked.trans ?_⟩
  rwa [hnone hc] at hend

theorem fenceCore_mode (s : State) (n : Nat) : ((s.fenceCore n).core n).mode = .fenced := by
  by_cases h : (s.core n).mode = .fenced
  · rwa [fenceCore_of_fenced h]
  · exact (fenceCore_after_takeFence h).1

theorem fenceCore_frame {s : State} {n : Nat} (hc : (s.core n).claim = none) :
    { s.fenceCore n with cores := s.cores, sched := s.sched } = s := by
  by_cases h : (s.core n).mode = .fenced
  · rw [fenceCore_of_fenced h]
  · have hr := ((fenceCore_after_takeFence h).2 hc).frame
    have ht := takeFence_frame s n
    generalize s.fenceCore n = t at hr ⊢
    generalize s.takeFence n = v at hr ht
    exact (congrArg (fun x : State => { x with cores := s.cores, sched := s.sched }) hr).trans
      (congrArg (fun x : State => { x with sched := s.sched }) ht)

theorem fenceCore_others {s : State} {n : Nat} (hc : (s.core n).claim = none) {k : Nat} (hk : k ≠ n) :
    ((s.fenceCore n).core k).mode = (s.core k).mode ∧ ((s.fenceCore n).core k).ctx = (s.core k).ctx := by
  by_cases h : (s.core n).mode = .fenced
  · rw [fenceCore_of_fenced h]; exact ⟨rfl, rfl⟩
  · have hr := (fenceCore_after_takeFence h).2 hc
    rw [hr.mode, hr.ctx]
    exact takeFence_others s hk

end Sys2Proof.Machine
end

section
/-! SUPPORT. The registers window while it answers (R355, R366): which block a write reaches, and what a write to each register of
`windowTable` is. -/

namespace Sys2Proof.Machine

open Sys2Proof.Claims Sys2Proof.Num

/-- Outside recovery every block of a package that has not halted answers. -/
theorem State.answers_of_answering {s : State} (hh : s.sec.halted = false) (ha : answering s = true) (off : Nat) :
    s.answers off = true := by
  have hphase : (s.sec.phase == .recovery) = false := by simpa [answering] using ha
  simp [State.answers, hh, hphase]

theorem regWrite_misaligned (s : State) {off : Nat} (h : off % 8 ≠ 0) (v : W64) : s.regWrite off v = s := by
  simp [State.regWrite, h]

/-! ## Blocks -/

section
variable {s : State} (hs : ∀ off, s.answers off = true) {off : Nat} (h8 : off % 8 = 0) (v : W64)
include hs h8

theorem regWrite_boot (hb : off / 2 ^ 20 = 0) : s.regWrite off v = s.writeBoot (off % 2 ^ 20) v := by
  rw [State.regWrite, if_neg (by simp [h8, hs]), hb]
  rfl

theorem regWrite_cores (hb : off / 2 ^ 20 = 1) : s.regWrite off v = s.writeCores (off % 2 ^ 20) v := by
  rw [State.regWrite, if_neg (by simp [h8, hs]), hb]
  rfl

theorem regWrite_sched (hb : off / 2 ^ 20 = 2) : s.regWrite off v = s.writeSched (off % 2 ^ 20) v := by
  rw [State.regWrite, if_neg (by simp [h8, hs]), hb]
  rfl

theorem regWrite_counters (hb : off / 2 ^ 20 = 4) (ho : off % 2 ^ 20 < 16 * 4096) :
    s.regWrite off v =
      if off % 2 ^ 20 % 16 = 0 then s.addCounter (off % 2 ^ 20 / 16) v else s.setCounter (off % 2 ^ 20 / 16) v := by
  rw [State.regWrite, if_neg (by simp [h8, hs]), hb]
  exact if_neg (Nat.not_le.2 ho)

theorem regWrite_coll (hb : off / 2 ^ 20 = 5) : s.regWrite off v = s.writeColl (off % 2 ^ 20) v := by
  rw [State.regWrite, if_neg (by simp [h8, hs]), hb]
  rfl

theorem regWrite_dm (hb : off / 2 ^ 20 = 6) : s.regWrite off v = s.writeDm (off % 2 ^ 20) v := by
  rw [State.regWrite, if_neg (by simp [h8, hs]), hb]
  rfl

theorem regWrite_irqs (hb : off / 2 ^ 20 = 7) : s.regWrite off v = s.writeIrqs (off % 2 ^ 20) v := by
  rw [State.regWrite, if_neg (by simp [h8, hs]), hb]
  rfl

theorem regWrite_err (hb : off / 2 ^ 20 = 8) : s.regWrite off v = s.writeErr (off % 2 ^ 20) v := by
  rw [State.regWrite, if_neg (by simp [h8, hs]), hb]
  rfl

theorem regWrite_power (hb : off / 2 ^ 20 = 9) : s.regWrite off v = s.writePower (off % 2 ^ 20) v := by
  rw [State.regWrite, if_neg (by simp [h8, hs]), hb]
  rfl

end

theorem regWrite_beyond (s : State) {off : Nat} (hb : 0xA00000 ≤ off) (v : W64) : s.regWrite off v = s := by
  obtain ⟨k, hk⟩ : ∃ k, off / 2 ^ 20 = k + 10 := ⟨off / 2 ^ 20 - 10, by omega⟩
  rw [State.regWrite, hk]
  exact ite_self s

/-! ## Values that registers store, and what the table's entries ask for -/

/-- CE_RATE stores the nearer limit. -/
theorem clampRate_eq (k : Nat) : max 1 (min 8192 k) = if k = 0 then 1 else if 8192 < k then 8192 else k := by
  split_ifs <;> omega

/-- The check interval stores the nearer limit. -/
theorem clampCheck_eq (k : Nat) : min 16 k = if 16 < k then 16 else k := by split_ifs <;> omega

/-- A state predicate of `becomes` holds of the state itself. -/
theorem becomes_holds {t w : State} {P : State → Prop} (hP : becomes w = some P) (h : t = w) : P t := by
  obtain rfl := Option.some.inj hP
  exact h

theorem coreBecomes_modCore {s : State} {n : Nat} {f : Core → Core} {c : Core} {P : State → Prop} (hP : coreBecomes n s c = some P)
    (h : f (s.core n) = c) : P (s.modCore n f) := by
  obtain rfl := Option.some.inj hP
  exact ⟨rfl, fun m hm => State.core_modCore_ne _ _ _ _ hm, (State.core_modCore_same _ _ _).trans h⟩

/-! ## Registers of the events -/

section
variable {s : State} (hs : ∀ off, s.answers off = true) (v : W64)
include hs

theorem regWrite_counterAdd {n : Nat} (hn : n < 4096) : s.regWrite (0x400000 + 16 * n) v = s.addCounter n v := by
  have ho : (0x400000 + 16 * n) % 2 ^ 20 = 16 * n := by omega
  rw [regWrite_counters hs (by omega) v (by omega) (by omega), ho, if_pos (by omega), Nat.mul_div_cancel_left n (by decide)]

theorem regWrite_counterSet {n : Nat} (hn : n < 4096) : s.regWrite (0x400000 + 16 * n + 8) v = s.setCounter n v := by
  have ho : (0x400000 + 16 * n + 8) % 2 ^ 20 = 16 * n + 8 := by omega
  have hq : (16 * n + 8) / 16 = n := by omega
  rw [regWrite_counters hs (by omega) v (by omega) (by omega), ho, if_neg (by omega), hq]

theorem regWrite_irq {e : Nat} (he : e < 1024) (high : Bool) :
    s.regWrite (0x700000 + 16 * e + if high then 8 else 0) v = s.writeIrq e high v := by
  have ho : (0x700000 + 16 * e + if high then 8 else 0) % 2 ^ 20 = 16 * e + if high then 8 else 0 := by split <;> omega
  have hq : (16 * e + if high then 8 else 0) / 16 = e := by split <;> omega
  have hr : decide ((16 * e + if high then 8 else 0) % 16 = 8) = high := by cases high <;> simp
  rw [regWrite_irqs hs (by split <;> omega) v (by split <;> omega), ho, State.writeIrqs, if_pos (by split <;> omega), hq, hr]

/-- FABRIC_PKGID (R15). -/
theorem regWrite_pkgid : s.regWrite 0x500010 v =
    if s.sched.launches.any (fun l => l.2.phase != .queued) ∨ s.coll.runs.any (fun r => runUnderWay r.2) ∨
        s.copies.any (fun c => trRemote c.record) then s
    else { s with coll := { s.coll with pkgid := v.setWidth 12 } } := by
  have hheld : (s.pkgidHeld = true) = (s.sched.launches.any (fun l => l.2.phase != .queued) ∨
      s.coll.runs.any (fun r => runUnderWay r.2) ∨ s.copies.any (fun c => trRemote c.record)) := by
    simp only [State.pkgidHeld, Bool.or_eq_true, or_assoc]
    rfl
  rw [regWrite_coll hs (by decide) v (by decide)]
  show s.writePkgid v = _
  simp only [State.writePkgid, hheld]

/-- FABRIC_DIMS (R356). -/
theorem regWrite_dims : s.regWrite 0x500008 v =
    if s.coll.runs.any (fun r => runUnderWay r.2) then s else { s with coll := { s.coll with dims := v.setWidth 12 } } := by
  rw [regWrite_coll hs (by decide) v (by decide)]
  rfl

/-- DM_CONFIG (R332). -/
theorem regWrite_dmConfig : s.regWrite 0x600000 v =
    if s.dm.locked = false ∧ v.toNat % 512 % 15 = 0 ∧ v.toNat % 512 ≤ 360 then
      { s with dm := { s.dm with pgran := v.toNat % 512, locked := true } }
    else { s with dm := { s.dm with latewr := if s.dm.latewr + 1 < 2 ^ 32 then s.dm.latewr + 1 else 2 ^ 32 - 1 } } := by
  rw [regWrite_dm hs (by decide) v (by decide)]
  show s.writeDmConfig v = _
  have hcond : (s.dm.locked = true ∨ v.toNat % 2 ^ 9 % 15 ≠ 0 ∨ 360 < v.toNat % 2 ^ 9) =
      ¬(s.dm.locked = false ∧ v.toNat % 512 % 15 = 0 ∧ v.toNat % 512 ≤ 360) := by
    simp only [not_and_or, Bool.not_eq_false, not_le, Nat.reducePow, ne_eq]
  simp only [State.writeDmConfig, hcond, ite_not]
  rfl

theorem regWrite_xlRoot : s.regWrite 0x600100 v = s.writeRoot v := by
  rw [regWrite_dm hs (by decide) v (by decide)]
  rfl

theorem regWrite_xlInval : s.regWrite 0x600108 v = s.writeInval v := by
  rw [regWrite_dm hs (by decide) v (by decide)]
  rfl

theorem regWrite_ctl {n : Nat} (hn : n < coreCount) : s.regWrite (ctlOffset n) v = s.writeCtl n v := by
  have hcores : n < 1024 := hn
  unfold ctlOffset
  have ho : (0x100000 + 0x40 * n) % 2 ^ 20 = 0x40 * n := by omega
  rw [regWrite_cores hs (by omega) v (by omega), ho, State.writeCores, Nat.mul_div_cancel_left n (by decide),
    if_neg (Nat.not_le.2 hn), Nat.mul_mod_right]
  rfl

/-- The registers of a ring from BASE on. -/
theorem regWrite_ring {r : RingName} (hr : ringExists r = true) {k : Nat} (hk : k < 4) :
    s.regWrite (ringOffset r + 8 * k) v = s.writeRing r k v := by
  cases r with
  | translation =>
    have ho : (0x600120 + 8 * k) % 2 ^ 20 = 0x120 + 8 * k := by omega
    have hq : (0x120 + 8 * k - 0x120) / 8 = k := by omega
    rw [ringOffset, regWrite_dm hs (by omega) v (by omega), ho, State.writeDm, if_neg (by omega), if_neg (by omega),
      if_neg (by omega), if_neg (by omega), if_neg (by omega), if_pos (by omega), hq]
  | error =>
    have ho : (0x800000 + 8 * k) % 2 ^ 20 = 8 * k := by omega
    rw [ringOffset, regWrite_err hs (by omega) v (by omega), ho, State.writeErr, if_pos (by omega),
      Nat.mul_div_cancel_left k (by decide)]
  | queue q =>
    have hq : q < 80 := by simpa [ringExists] using hr
    have ho : (0x200108 + 0x40 * q + 8 * k) % 2 ^ 20 = 0x108 + 0x40 * q + 8 * k := by omega
    have hqueue : (0x108 + 0x40 * q + 8 * k - 0x100) / 0x40 = q := by omega
    have hreg : (0x108 + 0x40 * q + 8 * k - 0x100) % 0x40 = 8 * (k + 1) := by omega
    rw [ringOffset, regWrite_sched hs (by omega) v (by omega), ho, State.writeSched, if_neg (by omega), if_pos (by omega), hqueue,
      hreg]
    interval_cases k <;> rfl

/-! ## REGISTER_WRITE (R356) -/

/-- A write of SV_ENTRY or CE_RATE of a core. -/
theorem regWrite_core {off : Nat} (h8 : off % 8 = 0) (hlo : 0x100000 ≤ off) (hhi : off < 0x110000) :
    (off % 0x40 = 8 → s.regWrite off v =
      s.modCore ((off - 0x100000) / 0x40) (fun c => { c with svEntry := v &&& 0xFFFFFFFFFFF8 })) ∧
    (off % 0x40 = 0x10 → s.regWrite off v =
      s.modCore ((off - 0x100000) / 0x40) (fun c => { c with ceRate := max 1 (min 8192 (v.toNat % 2 ^ 14)) })) := by
  have hn : off % 2 ^ 20 / 0x40 = (off - 0x100000) / 0x40 := by omega
  have hr : off % 2 ^ 20 % 0x40 = off % 0x40 := by omega
  rw [regWrite_cores hs h8 v (by omega), State.writeCores, if_neg (by unfold coreCount; omega), hn, hr]
  exact ⟨fun h => by rw [h]; rfl, fun h => by rw [h]; rfl⟩

/-- QUEUE_SAVEBASE. -/
theorem regWrite_saveBase {off : Nat} (hlo : 0x200100 ≤ off) (hhi : off < 0x201500) (hr : off % 0x40 = 0) :
    s.regWrite off v = s.setQueue ((off - 0x200100) / 0x40)
      { s.queue ((off - 0x200100) / 0x40) with saveBase := v &&& 0xFFFFFFFFF000 } := by
  have hq : (off % 2 ^ 20 - 0x100) / 0x40 = (off - 0x200100) / 0x40 := by omega
  have hk : (off % 2 ^ 20 - 0x100) % 0x40 = 0 := by omega
  rw [regWrite_sched hs (by omega) v (by omega), State.writeSched, if_neg (by omega), if_pos (by omega), hq, hk]
  rfl

theorem registerEffect_regWrite {off : Nat} {P : State → Prop} (hP : registerEffect off v s = some P) :
    P (s.regWrite off v) := by
  unfold registerEffect at hP
  split_ifs at hP with hout hcore hentry hrate hdeadline hsave hcheck hidle hcap hrange hread
  · exact becomes_holds hP (hout.elim (fun h => regWrite_misaligned s h v) (fun h => regWrite_beyond s h v))
  · obtain ⟨hlo, hhi⟩ := hcore
    rw [(regWrite_core hs v (by omega) hlo hhi).1 hentry]
    exact coreBecomes_modCore hP rfl
  · obtain ⟨hlo, hhi⟩ := hcore
    rw [(regWrite_core hs v (by omega) hlo hhi).2 hrate]
    refine coreBecomes_modCore hP ?_
    simp only [clampRate_eq]
    rfl
  · subst hdeadline
    exact becomes_holds hP (regWrite_sched hs (by decide) v (by decide))
  · exact becomes_holds hP (regWrite_saveBase hs v hsave.1 hsave.2.1 hsave.2.2)
  · subst hcheck
    refine becomes_holds hP ((regWrite_coll hs (by decide) v (by decide)).trans ?_)
    rw [State.writeColl, if_pos (by decide), clampCheck_eq]
    rfl
  · subst hidle
    exact becomes_holds hP (regWrite_dm hs (by decide) v (by decide))
  · subst hcap
    exact becomes_holds hP ((regWrite_power hs (by decide) v (by decide)).trans (if_neg (by omega)))
  · subst hcap
    exact becomes_holds hP ((regWrite_power hs (by decide) v (by decide)).trans (if_pos (by omega)))
  · rcases hread with rfl | rfl | rfl | rfl | rfl
    · exact becomes_holds hP (regWrite_power hs (by decide) v (by decide))
    · exact becomes_holds hP (regWrite_boot hs (by decide) v (by decide))
    · exact becomes_holds hP (regWrite_boot hs (by decide) v (by decide))
    · exact becomes_holds hP (regWrite_sched hs (by decide) v (by decide))
    · exact becomes_holds hP (regWrite_dm hs (by decide) v (by decide))

end
end Sys2Proof.Machine
end

section
/-! SUPPORT. Rings (R356, R358, R359) under writes to their registers, while no record waits for room; CORE_CTL (R360). -/

namespace Sys2Proof.Machine

open Sys2Proof.Claims

@[simp] theorem State.ring_setRing_same (s : State) (r : RingName) (x : Ring) : (s.setRing r x).ring r = x := by
  cases r with
  | translation => rfl
  | error => rfl
  | queue q => exact congrArg Queue.ring (State.queue_setQueue_same s q _)

theorem State.ring_setRing_ne (s : State) {r r' : RingName} (x : Ring) (h : r' ≠ r) : (s.setRing r x).ring r' = s.ring r' := by
  cases r with
  | translation =>
    cases r' with
    | translation => exact absurd rfl h
    | error | queue _ => rfl
  | error =>
    cases r' with
    | error => exact absurd rfl h
    | translation | queue _ => rfl
  | queue q =>
    cases r' with
    | queue q' => exact congrArg Queue.ring (State.queue_setQueue_ne s q _ q' fun hq => h (congrArg RingName.queue hq))
    | translation | error => rfl

theorem State.setRing_frame (s : State) (r : RingName) (x : Ring) :
    { s.setRing r x with xl := s.xl, err := s.err, sched := s.sched } = s := by
  cases r <;> rfl

@[simp] theorem State.setRing_out (s : State) (r : RingName) (x : Ring) : (s.setRing r x).out = s.out := by
  cases r <;> rfl

/-- SIZE stores the nearer limit. -/
theorem clampSize_eq {hi : Nat} (h : 4 ≤ hi) (k : Nat) : max 4 (min hi k) = if k < 4 then 4 else if hi < k then hi else k := by
  split_ifs <;> omega

/-- BASE and SIZE (R356): the ring is emptied. -/
theorem ringConfig_eq (s : State) (r : RingName) (size : Bool) (v : W64) (hw : (s.ring r).waiting = []) :
    s.ringConfig r size v = s.setRing r (ringSetTo r size v (s.ring r)) := by
  have h16 : v.toNat &&& 15 = v.toNat % 16 := Nat.and_two_pow_sub_one_eq_mod v.toNat 4
  have h32 : v.toNat &&& 31 = v.toNat % 32 := Nat.and_two_pow_sub_one_eq_mod v.toNat 5
  cases size with
  | false => simp [State.ringConfig, ringSetTo, hw, State.ringRefill]
  | true => cases r <;> simp [State.ringConfig, ringSetTo, hw, State.ringRefill, clampSize_eq, h16, h32]

/-- A ring after a write to TAIL (R356). -/
def Ring.withTail (x : Ring) (v : W64) : Ring :=
  if (x.head + 2 ^ 17 - v.toNat % 2 ^ 17) % 2 ^ 17 ≤ 2 ^ x.n then { x with tail := v.toNat % 2 ^ 17 } else x

theorem Ring.withTail_waiting (x : Ring) (v : W64) : (x.withTail v).waiting = x.waiting := by
  unfold Ring.withTail
  split <;> rfl

/-- A write to TAIL before its ring's vector is sent: discarded when it would leave more than the ring holds. -/
def State.takeTail (s : State) (r : RingName) (v : W64) : State :=
  if ((s.ring r).head + 2 ^ 17 - v.toNat % 2 ^ 17) % 2 ^ 17 ≤ 2 ^ (s.ring r).n then
    s.setRing r { s.ring r with tail := v.toNat % 2 ^ 17 }
  else s

theorem takeTail_ring_same (s : State) (r : RingName) (v : W64) : (s.takeTail r v).ring r = (s.ring r).withTail v := by
  unfold State.takeTail Ring.withTail
  split
  · exact State.ring_setRing_same s r _
  · rfl

theorem takeTail_ring_ne (s : State) {r r' : RingName} (v : W64) (h : r' ≠ r) : (s.takeTail r v).ring r' = s.ring r' := by
  unfold State.takeTail
  split
  · exact State.ring_setRing_ne s _ h
  · rfl

theorem takeTail_frame (s : State) (r : RingName) (v : W64) :
    { s.takeTail r v with xl := s.xl, err := s.err, sched := s.sched } = s := by
  unfold State.takeTail
  split
  · exact State.setRing_frame s r _
  · rfl

theorem takeTail_out (s : State) (r : RingName) (v : W64) : (s.takeTail r v).out = s.out :=
  (congrArg State.out (takeTail_frame s r v) :)

/-- TAIL (R356, R358): the ring takes the value, and its vector is sent once more when it is left non-empty. -/
theorem ringTail_eq (s : State) (r : RingName) (v : W64) (hw : (s.ring r).waiting = []) :
    s.ringTail r v =
      { s.takeTail r v with out := s.out ++ if ((s.ring r).withTail v).used = 0 then [] else [.msix (ringVector r)] } := by
  have hwaiting : ((s.takeTail r v).ring r).waiting = [] := by rw [takeTail_ring_same, Ring.withTail_waiting, hw]
  have h : s.ringTail r v = (if ((s.takeTail r v).ring r).used = 0 then s.takeTail r v
      else (s.takeTail r v).send (.msix (ringVector r))).ringRefill r ((s.takeTail r v).ring r).waiting.length := rfl
  rw [h, hwaiting, takeTail_ring_same, ← takeTail_out s r v]
  split
  · rw [List.append_nil]; rfl
  · rfl

/-- XL_INVAL (R327) with a SIZE that exists: what the invalidation covers. -/
theorem writeInval_of_size (s : State) (v : W64) (h : v.toNat / 2 ^ 60 % 8 < 4) :
    let size := v.toNat / 2 ^ 60 % 8
    let n := if size = 0 then 2 ^ 16 else if size = 1 then 2 ^ 21 else if size = 2 then 2 ^ 30 else 2 ^ 39
    let i : Inval := { all := v.getLsbD 63, base := v.toNat / 2 ^ 16 % 2 ^ 32 * 2 ^ 16 / n * n, size := n,
                       ctr := some (v.toNat / 2 ^ 48 % 4096), epoch := s.xl.epoch }
    s.writeInval v = { s with xl := { s.xl with epoch := s.xl.epoch + 1, invals := s.xl.invals ++ [i] } } := by
  have hfld : (fld 3 v 60).toNat = v.toNat / 2 ^ 60 % 8 := by simp [fld, Nat.shiftRight_eq_div_pow]
  have hctr : (fld 12 v 48).toNat = v.toNat / 2 ^ 48 % 4096 := by simp [fld, Nat.shiftRight_eq_div_pow]
  rw [State.writeInval, hfld, hctr]
  generalize v.toNat / 2 ^ 60 % 8 = size at h
  rw [if_neg (Nat.not_le.2 h)]
  interval_cases size <;> rfl

/-- CORE_CTL.END (R360) of a core that runs: the core as it stops. -/
theorem ctlEnd_of_running {s : State} {n : Nat}
    (h : ¬((s.core n).mode = .idle ∨ (s.core n).mode = .exited ∨ (s.core n).mode = .fenced))
    {f : Core → Core} (hf : f = fun c => { c with
      mode := .exiting, ending := true, preempt := none, progBank := none, sysBank := none,
      prog := { c.prog with flight := [], vars := [], cur := none } }) :
    ctlEnd s n = if (s.core n).claim = none then s.modCore n f else (s.modCore n f).stepFailure n := by
  subst hf
  unfold ctlEnd
  rw [if_neg h]
  simp only [State.core_modCore_same]
  cases (s.core n).claim <;> rfl

end Sys2Proof.Machine
end

section
/-! PROOFS. The writes through the registers window (O50). -/

namespace Sys2Proof.Machine

open Sys2Proof.Claims

/-- In a package that has not halted the next move, when it is one of the row, is worked by the row's function. -/
theorem happens_next {i : Instr} {f : Move → State → Option State} {m : Move} {u t : State} {P : State → Prop}
    (he : ∀ s, exec i s = onMove f s) (hh : u.sec.halted = false) (hf : f m u = some t) (hP : P t) :
    ∃ t, exec i { u with agenda := m :: u.agenda } = .next t ∧ P t := by
  have hf' : f m { u with agenda := u.agenda } = some t := hf
  exact ⟨t, by simp [he, onMove, hf', hh], hP⟩

end Sys2Proof.Machine

namespace Sys2Proof.Claims

open Sys2Proof.Machine

section
variable {u : State} {P : State → Prop} (hh : u.sec.halted = false) (ha : answering u = true)
include hh ha

theorem counterAddWrite_happens {n : Nat} {v : W64}
    (hP : windowTable (.counterAddWrite n v) u = some P) :
    ∃ t, exec .counterAddWrite { u with agenda := .counterAddWrite n v :: u.agenda } = .next t ∧ P t := by
  simp only [windowTable, ha, Bool.not_true, Bool.false_eq_true, if_false] at hP
  obtain ⟨hn, hP⟩ := Option.ite_none_right_eq_some.1 hP
  obtain rfl := Option.some.inj hP
  refine happens_next (fun _ => (rfl : execCounterAddWrite _ = _)) hh (by rfl) ?_
  rw [if_pos hn, regWrite_counterAdd (State.answers_of_answering hh ha) v hn]
  exact counted_setCounter u n _

theorem counterSetWrite_happens {n : Nat} {v : W64}
    (hP : windowTable (.counterSetWrite n v) u = some P) :
    ∃ t, exec .counterSetWrite { u with agenda := .counterSetWrite n v :: u.agenda } = .next t ∧ P t := by
  simp only [windowTable, ha, Bool.not_true, Bool.false_eq_true, if_false] at hP
  obtain ⟨hn, hP⟩ := Option.ite_none_right_eq_some.1 hP
  obtain rfl := Option.some.inj hP
  refine happens_next (fun _ => (rfl : execCounterSetWrite _ = _)) hh (by rfl) ?_
  rw [if_pos hn, regWrite_counterSet (State.answers_of_answering hh ha) v hn]
  exact counted_setCounter u n v

theorem evtIrqWrite_happens {e : Nat} {high : Bool} {v : W64}
    (hP : windowTable (.evtIrqWrite e high v) u = some P) :
    ∃ t, exec .evtIrqWrite { u with agenda := .evtIrqWrite e high v :: u.agenda } = .next t ∧ P t := by
  simp only [windowTable, ha, Bool.not_true, Bool.false_eq_true, if_false] at hP
  obtain ⟨he, hP⟩ := Option.ite_none_left_eq_some.1 hP
  have he := Nat.not_le.1 he
  refine happens_next (fun _ => (rfl : execEvtIrqWrite _ = _)) hh (by rfl) ?_
  rw [if_pos he, regWrite_irq (State.answers_of_answering hh ha) v he]
  split at hP
  · next hv => exact becomes_holds hP (if_pos hv)
  · next hv =>
    obtain rfl := Option.some.inj hP
    rw [writeIrq_of_vector u e high v hv]
    exact ⟨(congrArg (fun x : State => { x with irqs := u.irqs, out := u.out }) (testIrqs_frame _ _) :), irqsTested_testIrqs _ _⟩

theorem fabricPkgidWrite_happens {v : W64}
    (hP : windowTable (.fabricPkgidWrite v) u = some P) :
    ∃ t, exec .fabricPkgidWrite { u with agenda := .fabricPkgidWrite v :: u.agenda } = .next t ∧ P t := by
  simp only [windowTable, ha, Bool.not_true, Bool.false_eq_true, if_false] at hP
  exact happens_next (fun _ => (rfl : execFabricPkgidWrite _ = _)) hh (by rfl)
    (becomes_holds hP (regWrite_pkgid (State.answers_of_answering hh ha) v))

theorem fabricDimsWrite_happens {v : W64}
    (hP : windowTable (.fabricDimsWrite v) u = some P) :
    ∃ t, exec .fabricDimsWrite { u with agenda := .fabricDimsWrite v :: u.agenda } = .next t ∧ P t := by
  simp only [windowTable, ha, Bool.not_true, Bool.false_eq_true, if_false] at hP
  exact happens_next (fun _ => (rfl : execFabricDimsWrite _ = _)) hh (by rfl)
    (becomes_holds hP (regWrite_dims (State.answers_of_answering hh ha) v))

theorem dmConfigWrite_happens {v : W64}
    (hP : windowTable (.dmConfigWrite v) u = some P) :
    ∃ t, exec .dmConfigWrite { u with agenda := .dmConfigWrite v :: u.agenda } = .next t ∧ P t := by
  simp only [windowTable, ha, Bool.not_true, Bool.false_eq_true, if_false] at hP
  exact happens_next (fun _ => (rfl : execDmConfigWrite _ = _)) hh (by rfl)
    (becomes_holds hP (regWrite_dmConfig (State.answers_of_answering hh ha) v))

theorem xlRootWrite_happens {v : W64}
    (hP : windowTable (.xlRootWrite v) u = some P) :
    ∃ t, exec .xlRootWrite { u with agenda := .xlRootWrite v :: u.agenda } = .next t ∧ P t := by
  simp only [windowTable, ha, Bool.not_true, Bool.false_eq_true, if_false] at hP
  obtain rfl := Option.some.inj hP
  refine happens_next (fun _ => (rfl : execXlRootWrite _ = _)) hh (by rfl) ?_
  rw [regWrite_xlRoot (State.answers_of_answering hh ha) v]
  exact ⟨rfl, rfl, rfl, rfl, rfl⟩

theorem xlInvalWrite_happens {v : W64}
    (hP : windowTable (.xlInvalWrite v) u = some P) :
    ∃ t, exec .xlInvalWrite { u with agenda := .xlInvalWrite v :: u.agenda } = .next t ∧ P t := by
  simp only [windowTable, ha, Bool.not_true, Bool.false_eq_true, if_false] at hP
  obtain ⟨hsize, hP⟩ := Option.ite_none_left_eq_some.1 hP
  obtain rfl := Option.some.inj hP
  refine happens_next (fun _ => (rfl : execXlInvalWrite _ = _)) hh (by rfl) ?_
  rw [regWrite_xlInval (State.answers_of_answering hh ha) v, writeInval_of_size u v (Nat.not_le.1 hsize)]
  exact ⟨rfl, rfl, _, rfl, rfl, rfl, rfl, rfl, rfl⟩

theorem ringConfigWrite_happens {r : RingName} {size : Bool} {v : W64}
    (hP : windowTable (.ringConfigWrite r size v) u = some P) :
    ∃ t, exec .ringConfigWrite { u with agenda := .ringConfigWrite r size v :: u.agenda } = .next t ∧ P t := by
  simp only [windowTable, ha, Bool.not_true, Bool.false_eq_true, if_false] at hP
  obtain ⟨hr, hP⟩ := Option.ite_none_left_eq_some.1 hP
  obtain ⟨hexists, hwaiting⟩ : ringExists r = true ∧ (u.ring r).waiting = [] := by simpa using hr
  have hring := regWrite_ring (State.answers_of_answering hh ha) v hexists (k := size.toNat) (by cases size <;> decide)
  refine happens_next (fun _ => (rfl : execRingConfigWrite _ = _)) hh (by rfl) (becomes_holds hP ?_)
  rw [if_pos hexists, ← ringConfig_eq u r size v hwaiting]
  cases size <;> exact hring

theorem ringTailWrite_happens {r : RingName} {v : W64}
    (hP : windowTable (.ringTailWrite r v) u = some P) :
    ∃ t, exec .ringTailWrite { u with agenda := .ringTailWrite r v :: u.agenda } = .next t ∧ P t := by
  simp only [windowTable, ha, Bool.not_true, Bool.false_eq_true, if_false] at hP
  obtain ⟨hr, hP⟩ := Option.ite_none_left_eq_some.1 hP
  obtain ⟨hw, hP⟩ := Option.ite_none_left_eq_some.1 hP
  have hexists : ringExists r = true := by simpa using hr
  have hwaiting : (u.ring r).waiting = [] := by simpa using hw
  have hring : u.regWrite (ringOffset r + 0x18) v = u.ringTail r v :=
    regWrite_ring (State.answers_of_answering hh ha) v hexists (k := 3) (by decide)
  obtain rfl := Option.some.inj hP
  refine happens_next (fun _ => (rfl : execRingTailWrite _ = _)) hh (by rfl) ?_
  rw [if_pos hexists, hring, ringTail_eq u r v hwaiting]
  refine ⟨takeTail_ring_same u r v, (congrArg (fun x : State => { x with out := u.out }) (takeTail_frame u r v) :),
    fun r' h => takeTail_ring_ne u v h, ?_⟩
  rw [apply_ite State.out, State.setRing_out, ite_self]
  rfl

theorem secPolicyWrite_happens {v : W64}
    (hP : windowTable (.secPolicyWrite v) u = some P) :
    ∃ t, exec .secPolicyWrite { u with agenda := .secPolicyWrite v :: u.agenda } = .next t ∧ P t := by
  simp only [windowTable, ha, Bool.not_true, Bool.false_eq_true, if_false] at hP
  exact happens_next (fun _ => (rfl : execSecPolicyWrite _ = _)) hh (by rfl) (becomes_holds hP rfl)

theorem registerWrite_happens {off n : Nat} {v : W64}
    (hP : windowTable (.registerWrite off n v) u = some P) :
    ∃ t, exec .registerWrite { u with agenda := .registerWrite off n v :: u.agenda } = .next t ∧ P t := by
  simp only [windowTable, ha, Bool.not_true, Bool.false_eq_true, if_false] at hP
  refine happens_next (fun _ => (rfl : execRegisterWrite _ = _)) hh (by rfl) ?_
  rw [State.hostWrite]
  split at hP
  · next hn => rw [if_pos hn]; exact registerEffect_regWrite (State.answers_of_answering hh ha) v hP
  · next hn => exact becomes_holds hP (if_neg hn)

theorem coreCtlStop_happens {n : Nat}
    (hP : windowTable (.coreCtlStop n) u = some P) :
    ∃ t, exec .coreCtlStop { u with agenda := .coreCtlStop n :: u.agenda } = .next t ∧ P t := by
  simp only [windowTable, ha, Bool.not_true, Bool.false_eq_true, if_false] at hP
  obtain ⟨hn, hP⟩ := Option.ite_none_left_eq_some.1 hP
  have hn : n < coreCount := Nat.not_le.1 hn
  refine happens_next (fun _ => (rfl : execCoreCtlStop _ = _)) hh (by rfl) ?_
  rw [if_pos hn, regWrite_ctl (State.answers_of_answering hh ha) _ hn]
  exact coreBecomes_modCore hP rfl

theorem coreCtlEnd_happens {n : Nat}
    (hP : windowTable (.coreCtlEnd n) u = some P) :
    ∃ t, exec .coreCtlEnd { u with agenda := .coreCtlEnd n :: u.agenda } = .next t ∧ P t := by
  simp only [windowTable, ha, Bool.not_true, Bool.false_eq_true, if_false] at hP
  obtain ⟨hn, hP⟩ := Option.ite_none_left_eq_some.1 hP
  have hn : n < coreCount := Nat.not_le.1 hn
  refine happens_next (fun _ => (rfl : execCoreCtlEnd _ = _)) hh (by rfl) ?_
  rw [if_pos hn, regWrite_ctl (State.answers_of_answering hh ha) _ hn]
  show P (ctlEnd u n)
  split_ifs at hP with hidle hclaim
  · exact becomes_holds hP (if_pos hidle)
  · rw [ctlEnd_of_running hidle rfl, if_pos hclaim]
    exact coreBecomes_modCore hP rfl
  · rw [ctlEnd_of_running hidle rfl, if_neg hclaim]
    exact becomes_holds hP rfl

theorem coreCtlFence_happens {n : Nat}
    (hP : windowTable (.coreCtlFence n) u = some P) :
    ∃ t, exec .coreCtlFence { u with agenda := .coreCtlFence n :: u.agenda } = .next t ∧ P t := by
  simp only [windowTable, ha, Bool.not_true, Bool.false_eq_true, if_false] at hP
  obtain ⟨hn, hP⟩ := Option.ite_none_left_eq_some.1 hP
  have hn : n < coreCount := Nat.not_le.1 hn
  obtain rfl := Option.some.inj hP
  refine happens_next (fun _ => (rfl : execCoreCtlFence _ = _)) hh (by rfl) ?_
  rw [if_pos hn, regWrite_ctl (State.answers_of_answering hh ha) _ hn]
  exact ⟨fenceCore_mode u n, fenceCore_of_fenced, fenceCore_frame, fun hc k hk =>
    ⟨(fenceCore_others hc hk).1, congrArg Ctx.racc (fenceCore_others hc hk).2⟩⟩

end

/-- Settles O50: every event of the table is a write that reaches its register, since the window answers, and each register's
write is a lemma of its own; what the scheduler does after a counter's write or a fence is `Rescheduled`. -/
theorem windowWritesTakeEffect : Obligations.WindowWritesTakeEffect := by
  intro m i u P hh hi hP
  have ha : answering u = true := by
    by_contra h
    simp [windowTable, h] at hP
  cases m with
  | counterAddWrite n v => obtain rfl := Option.some.inj hi; exact counterAddWrite_happens hh ha hP
  | counterSetWrite n v => obtain rfl := Option.some.inj hi; exact counterSetWrite_happens hh ha hP
  | evtIrqWrite e high v => obtain rfl := Option.some.inj hi; exact evtIrqWrite_happens hh ha hP
  | fabricPkgidWrite v => obtain rfl := Option.some.inj hi; exact fabricPkgidWrite_happens hh ha hP
  | fabricDimsWrite v => obtain rfl := Option.some.inj hi; exact fabricDimsWrite_happens hh ha hP
  | dmConfigWrite v => obtain rfl := Option.some.inj hi; exact dmConfigWrite_happens hh ha hP
  | xlRootWrite v => obtain rfl := Option.some.inj hi; exact xlRootWrite_happens hh ha hP
  | xlInvalWrite v => obtain rfl := Option.some.inj hi; exact xlInvalWrite_happens hh ha hP
  | ringConfigWrite r size v => obtain rfl := Option.some.inj hi; exact ringConfigWrite_happens hh ha hP
  | ringTailWrite r v => obtain rfl := Option.some.inj hi; exact ringTailWrite_happens hh ha hP
  | secPolicyWrite v => obtain rfl := Option.some.inj hi; exact secPolicyWrite_happens hh ha hP
  | registerWrite off n v => obtain rfl := Option.some.inj hi; exact registerWrite_happens hh ha hP
  | coreCtlStop n => obtain rfl := Option.some.inj hi; exact coreCtlStop_happens hh ha hP
  | coreCtlEnd n => obtain rfl := Option.some.inj hi; exact coreCtlEnd_happens hh ha hP
  | coreCtlFence n => obtain rfl := Option.some.inj hi; exact coreCtlFence_happens hh ha hP
  | _ => simp [windowTable] at hP

end Sys2Proof.Claims
end

section
/-! SUPPORT. Slot words are read back class by class: OPC gives the operation, its record the operands (R43 to R47). -/

namespace Sys2Proof

open Sys2Proof.Machine

/-- The words of the S slots are read back (R43): bit 39 tells the immediate form of an operation that has both. -/
theorem parseS_encodeWord {i : Instr} {h : Hdr} (hi : hdrOfInstr i = some h) (hc : opClass i = some 'S') :
    parseS h (encodeWord i) = some i := by
  cases i <;> cases hi
  case snop =>
    show parseS h (slotWord h _ 0) = _
    unfold parseS
    rw [opc_slotWord _ _ _ (by decide) (by decide)]
    rfl
  case add o | sub o | mul o | mulh o | mulhz o | div o | divz o | rem o | remz o | and o | or o | xor o | andn o | shl o |
      shr o | sar o | rol o | min o | max o | minz o | maxz o | sel o | cmpeq o | cmpne o | cmplt o | cmple o | cmpltz o |
      cmplez o | fadd o | fsub o | fmul o | fmin o | fmax o | fcmpeq o | fcmplt o | fcmple o |
      addImm o | subImm o | mulImm o | mulhImm o | mulhzImm o | divImm o | divzImm o | remImm o | remzImm o | andImm o |
      orImm o | xorImm o | andnImm o | shlImm o | shrImm o | sarImm o | rolImm o | minImm o | maxImm o | minzImm o |
      maxzImm o | selImm o | cmpeqImm o | cmpneImm o | cmpltImm o | cmpleImm o | cmpltzImm o | cmplezImm o | faddImm o |
      fsubImm o | fmulImm o | fminImm o | fmaxImm o | fcmpeqImm o | fcmpltImm o | fcmpleImm o =>
    show parseS h (slotWord h _ o.enc) = _
    unfold parseS
    rw [opc_slotWord _ _ _ (by decide) o.enc_lt, o.bit39 _ _ (by decide), o.dec_enc _ _ (by decide)]
    rfl
  case clz o | ctz o | popc o | bfx o | bfxz o | bfi o | fshl o | fshr o | movi o | movhi o | pand o | por o | pxor o |
      pandn o | pset o | fma o | fcvti o | fcvtf o | rdsr o | wrsr o =>
    show parseS h (slotWord h _ o.enc) = _
    unfold parseS
    rw [opc_slotWord _ _ _ (by decide) o.enc_lt, o.dec_enc _ _ (by decide)]
    rfl
  all_goals cases hc

/-- The words of the L slots are read back (R44): two bits tell the mode of a scalar or line access. -/
theorem parseL_encodeWord {i : Instr} {h : Hdr} (hi : hdrOfInstr i = some h) (hc : opClass i = some 'L') :
    parseL h (encodeWord i) = some i := by
  cases i <;> cases hi
  case lnop =>
    show parseL h (slotWord h _ 0) = _
    unfold parseL
    rw [opc_slotWord _ _ _ (by decide) (by decide)]
    rfl
  case ld o | st o | ldl o | stl o =>
    show parseL h (slotWord h _ o.enc) = _
    unfold parseL
    rw [opc_slotWord _ _ _ (by decide) o.enc_lt, o.mode0 _ _ (by decide), o.dec_enc _ _ (by decide)]
    rfl
  case ldIndexed o | stIndexed o =>
    show parseL h (slotWord h _ (o.enc + 2 ^ 29)) = _
    unfold parseL
    rw [opc_slotWord _ _ _ (by decide) o.enc_mode_lt, o.mode1 _ _ (by decide), o.dec_enc_mode _ _ (by decide)]
    rfl
  case ldPostinc o | stPostinc o =>
    show parseL h (slotWord h _ (o.enc + 2 ^ 30)) = _
    unfold parseL
    rw [opc_slotWord _ _ _ (by decide) o.enc_mode_lt, o.mode1 _ _ (by decide), o.dec_enc_mode _ _ (by decide)]
    rfl
  case ldlPostinc o | stlPostinc o =>
    show parseL h (slotWord h _ (o.enc + 2 ^ 23)) = _
    unfold parseL
    rw [opc_slotWord _ _ _ (by decide) o.enc_mode_lt, o.mode1 _ _ (by decide), o.dec_enc_mode _ _ (by decide)]
    rfl
  case ldx o | stx o | gld o | glds o | amo o | cas o | amol o | pcfg o | prst o | hgive o | htake o | hback o =>
    show parseL h (slotWord h _ o.enc) = _
    unfold parseL
    rw [opc_slotWord _ _ _ (by decide) o.enc_lt, o.dec_enc _ _ (by decide)]
    rfl
  all_goals cases hc

/-- The words of the V slots are read back (R45). -/
theorem parseV_encodeWord {i : Instr} {h : Hdr} (hi : hdrOfInstr i = some h) (hc : opClass i = some 'V') :
    parseV h (encodeWord i) = some i := by
  cases i <;> cases hi
  case vnop =>
    show parseV h (slotWord h _ 0) = _
    unfold parseV
    rw [opc_slotWord _ _ _ (by decide) (by decide)]
    rfl
  case vadd o | vsub o | vmul o | vfma o | vmin o | vmax o | vabs o | vneg o | vadds o | vsubs o | vmulh o | vand o | vor o |
      vxor o | vshl o | vshr o | vsar o | vbfx o | vbfxz o | vfshr o | vclz o | vpopc o | vcmpeq o | vcmpne o | vcmplt o |
      vcmple o | vclass o | vsel o | vmov o | vbcast o | vperm o | vrot o | viota o | vextr o | vins o | vrsum o | vrmax o |
      vrmin o | vror o | vscan o | vwiden o | vnarrow o | vdot4 o | kand o | kor o | kxor o | knot o | kpopc o | kany o =>
    show parseV h (slotWord h _ o.enc) = _
    unfold parseV
    rw [opc_slotWord _ _ _ (by decide) o.enc_lt, o.dec_enc _ _ (by decide)]
    rfl
  all_goals cases hc

/-- The words of the X slot are read back (R46). -/
theorem parseX_encodeWord {i : Instr} {h : Hdr} (hi : hdrOfInstr i = some h) (hc : opClass i = some 'X') :
    parseX h (encodeWord i) = some i := by
  cases i <;> cases hi
  case xnop =>
    show parseX h (slotWord h _ 0) = _
    unfold parseX
    rw [opc_slotWord _ _ _ (by decide) (by decide)]
    rfl
  case xrcp o | xrsq o | xsqrt o | xexp2 o | xlog2 o | xtanh o | xsig o | xdiv o | xcvt o | xamax o | xscale o | xqnt o |
      xdqnt o | xseed o | xrand o =>
    show parseX h (slotWord h _ o.enc) = _
    unfold parseX
    rw [opc_slotWord _ _ _ (by decide) o.enc_lt, o.dec_enc _ _ (by decide)]
    rfl
  all_goals cases hc

/-- The words of the M slot are read back (R46). -/
theorem parseM_encodeWord {i : Instr} {h : Hdr} (hi : hdrOfInstr i = some h) (hc : opClass i = some 'M') :
    parseM h (encodeWord i) = some i := by
  cases i <;> cases hi
  case mnop =>
    show parseM h (slotWord h _ 0) = _
    unfold parseM
    rw [opc_slotWord _ _ _ (by decide) (by decide)]
    rfl
  case mwld o | mswap o | mshf o | macc o | maccz o | mdrn o | mzero o | manch o | mscl o | mxsc o =>
    show parseM h (slotWord h _ o.enc) = _
    unfold parseM
    rw [opc_slotWord _ _ _ (by decide) o.enc_lt, o.dec_enc _ _ (by decide)]
    rfl
  all_goals cases hc

/-- A FENCE of kind mem has KIND 00 (R161). -/
theorem fence_kind (h : Hdr) (opc : Nat) (ho : opc < 128) (o : Order) : fld 2 (slotWord h opc o.enc) 50 = 0#2 := by
  rw [fld_slotWord h opc _ ho o.enc_lt _ _ (by decide)]
  have hord := o.ord.isLt
  have hscope := o.scope.isLt
  have : o.enc / 2 ^ 50 = 0 := by simp only [Order.enc]; omega
  rw [this]

/-- The words of the C slot are read back (R47): two bits tell the kind of a FENCE. -/
theorem parseC_encodeWord {i : Instr} {h : Hdr} (hi : hdrOfInstr i = some h) (hc : opClass i = some 'C') :
    parseC h (encodeWord i) = some i := by
  cases i <;> cases hi
  case cnop | exit | reti =>
    show parseC h (slotWord h _ 0) = _
    unfold parseC
    rw [opc_slotWord _ _ _ (by decide) (by decide)]
    rfl
  case fenceInstr =>
    show parseC h (slotWord h _ (2 ^ 50)) = _
    unfold parseC
    rw [opc_slotWord _ _ _ (by decide) (by decide), fld_slotWord _ _ _ (by decide) (by decide) _ _ (by decide)]
    rfl
  case fence o =>
    show parseC h (slotWord h _ o.enc) = _
    unfold parseC
    rw [opc_slotWord _ _ _ (by decide) o.enc_lt, fence_kind _ _ (by decide), o.dec_enc _ _ (by decide)]
    rfl
  case copy o | copynb o | twany o | twall o | tfind o | tclr o | drain o | barrive o | bwait o | btest o | step o |
      trigger o | submit o | skim o | evadd o | evwait o | trap o | lsave o | lload o | svsave o | svload o =>
    show parseC h (slotWord h _ o.enc) = _
    unfold parseC
    rw [opc_slotWord _ _ _ (by decide) o.enc_lt, o.dec_enc _ _ (by decide)]
    rfl
  all_goals cases hc

end Sys2Proof
end

section
/-! SUPPORT. Every slot word and every branch word is read back (R27, R36, R39). -/

namespace Sys2Proof

open Sys2Proof.Machine

/-- Every slot word that the encoder writes is read back as its operation (R27, R42). -/
theorem parse_encodeWord {i : Instr} {h : Hdr} (hw : WellFormed i) (hi : hdrOfInstr i = some h) :
    parse h.slot (encodeWord i) = some i := by
  have hc := slot_of_class hw hi
  have hh := hdrOf_encodeWord i h hi
  generalize h.slot = slot at hc hh
  match slot with
  | 0 | 1 => exact (congrArg (parseS · _) hh).trans (parseS_encodeWord hi hc)
  | 2 | 3 => exact (congrArg (parseL · _) hh).trans (parseL_encodeWord hi hc)
  | 4 | 5 => exact (congrArg (parseV · _) hh).trans (parseV_encodeWord hi hc)
  | 6 => exact (congrArg (parseX · _) hh).trans (parseX_encodeWord hi hc)
  | 7 => exact (congrArg (parseM · _) hh).trans (parseM_encodeWord hi hc)
  | 8 => exact (congrArg (parseC · _) hh).trans (parseC_encodeWord hi hc)

/-! ## Branch words -/

theorem fld_ofNat (n x lo : Nat) (hn : lo + n ≤ 64) : fld n (BitVec.ofNat 64 x) lo = BitVec.ofNat n (x / 2 ^ lo) := by
  obtain ⟨d, hd⟩ : ∃ d, 64 = lo + (n + d) := ⟨64 - lo - n, by omega⟩
  apply BitVec.eq_of_toNat_eq
  rw [fld, BitVec.toNat_ofNat, BitVec.toNat_ofNat, BitVec.toNat_ofNat, Nat.shiftRight_eq_div_pow, hd, Nat.pow_add 2 lo,
    Nat.mod_mul_right_div_self, Nat.pow_add, Nat.mod_mul_right_mod]

theorem fld_ofNat_eq {n x lo : Nat} (v : BitVec n) (hn : lo + n ≤ 64) (h : x / 2 ^ lo % 2 ^ n = v.toNat) :
    fld n (BitVec.ofNat 64 x) lo = v := by
  rw [fld_ofNat n x lo hn]
  exact BitVec.eq_of_toNat_eq ((BitVec.toNat_ofNat ..).trans h)

theorem bit_ofNat_eq {x i : Nat} (b : Bool) (hi : i < 64) (h : x / 2 ^ i % 2 = b.toNat) :
    bit (BitVec.ofNat 64 x) i = b := by
  rw [bit, BitVec.toNat_ofNat, Nat.testBit_mod_two_pow, Nat.testBit_eq_decide_div_mod_eq, decide_eq_true hi, Bool.true_and,
    bit_eq h]

/-- BOP of a branch word (R36). -/
theorem bop_ofNat {x : Nat} (bop : Nat) (hb : bop < 32) (hx : x / 2 ^ 59 = bop) :
    (BitVec.ofNat 64 x).toNat >>> 59 = bop := by
  rw [BitVec.toNat_ofNat, Nat.shiftRight_eq_div_pow]
  omega

theorem BrtOp.enc0_lt (o : BrtOp) : o.enc0 < 2 ^ 59 := by
  have h0 := o.shape.isLt
  have h1 := o.p0.isLt
  have h2 := o.p1.isLt
  have h3 := o.p2.isLt
  have h4 := o.p3.isLt
  have h5 := o.leaf0.isLt
  have h6 := o.leaf4.isLt
  simp only [BrtOp.enc0]
  omega

/-- The two words of a BRT give its operands back (R39). -/
theorem BrtOp.dec_enc (o : BrtOp) :
    BrtOp.dec (BitVec.ofNat 64 (8 * 2 ^ 59 + o.enc0)) (BitVec.ofNat 64 o.enc1) = o := by
  obtain ⟨shape, p0, p1, p2, p3, leaf0, leaf1, leaf2, leaf3, leaf4⟩ := o
  have h0 := shape.isLt
  have h1 := p0.isLt
  have h2 := p1.isLt
  have h3 := p2.isLt
  have h4 := p3.isLt
  have h5 := leaf0.isLt
  have h6 := leaf1.isLt
  have h7 := leaf2.isLt
  have h8 := leaf3.isLt
  have h9 := leaf4.isLt
  simp only [BrtOp.dec, fld_ofNat, BrtOp.enc0, BrtOp.enc1, BrtOp.mk.injEq, ← BitVec.toNat_inj, BitVec.toNat_ofNat,
    Nat.reduceAdd, Nat.reduceLeDiff]
  refine ⟨?_, ?_, ?_, ?_, ?_, ?_, ?_, ?_, ?_, ?_⟩ <;> omega

/-- Branch words are read back (R36, R39): BOP, and of LOOP the bit that tells its immediate form. -/
theorem parseBranch_encodeWord {i : Instr} (hi : branchForm i ≠ 0) :
    parseBranch (encodeWord i) (encodeWord1 i) = some i := by
  cases i
  case brc n p t =>
    have hn := Bool.toNat_le n
    have hp := p.isLt
    have ht := t.isLt
    show parseBranch (BitVec.ofNat 64 _) _ = _
    unfold parseBranch
    rw [bop_ofNat 0 (by decide) (by omega), bit_ofNat_eq n (by decide) (by omega), fld_ofNat_eq p (by decide) (by omega),
      fld_ofNat_eq t (by decide) (by omega)]
    rfl
  case jmp t =>
    have ht := t.isLt
    show parseBranch (BitVec.ofNat 64 _) _ = _
    unfold parseBranch
    rw [bop_ofNat 1 (by decide) (by omega), fld_ofNat_eq (lo := 34) t (by decide) (by omega)]
    rfl
  case call t l =>
    have ht := t.isLt
    have hl := l.isLt
    show parseBranch (BitVec.ofNat 64 _) _ = _
    unfold parseBranch
    rw [bop_ofNat 2 (by decide) (by omega), fld_ofNat_eq (lo := 34) t (by decide) (by omega),
      fld_ofNat_eq (lo := 28) l (by decide) (by omega)]
    rfl
  case ret r =>
    have hr := r.isLt
    show parseBranch (BitVec.ofNat 64 _) _ = _
    unfold parseBranch
    rw [bop_ofNat 3 (by decide) (by omega), fld_ofNat_eq (lo := 22) r (by decide) (by omega)]
    rfl
  case jmpi t r =>
    have ht := t.isLt
    have hr := r.isLt
    show parseBranch (BitVec.ofNat 64 _) _ = _
    unfold parseBranch
    rw [bop_ofNat 4 (by decide) (by omega), fld_ofNat_eq (lo := 34) t (by decide) (by omega),
      fld_ofNat_eq (lo := 22) r (by decide) (by omega)]
    rfl
  case calli t l r =>
    have ht := t.isLt
    have hl := l.isLt
    have hr := r.isLt
    show parseBranch (BitVec.ofNat 64 _) _ = _
    unfold parseBranch
    rw [bop_ofNat 5 (by decide) (by omega), fld_ofNat_eq (lo := 34) t (by decide) (by omega),
      fld_ofNat_eq (lo := 28) l (by decide) (by omega), fld_ofNat_eq (lo := 22) r (by decide) (by omega)]
    rfl
  case loop e r =>
    have he := e.isLt
    have hr := r.isLt
    show parseBranch (BitVec.ofNat 64 _) _ = _
    unfold parseBranch
    rw [bop_ofNat 6 (by decide) (by omega), bit_ofNat_eq (i := 58) false (by decide) (by rw [Bool.toNat_false]; omega),
      fld_ofNat_eq (lo := 34) e (by decide) (by omega), fld_ofNat_eq (lo := 28) r (by decide) (by omega)]
    rfl
  case loopImm e c =>
    have he := e.isLt
    have hc := c.isLt
    show parseBranch (BitVec.ofNat 64 _) _ = _
    unfold parseBranch
    rw [bop_ofNat 6 (by decide) (by omega), bit_ofNat_eq (i := 58) true (by decide) (by rw [Bool.toNat_true]; omega),
      fld_ofNat_eq (lo := 34) e (by decide) (by omega), fld_ofNat_eq (lo := 18) c (by decide) (by omega)]
    rfl
  case lpop n =>
    have hn := n.isLt
    show parseBranch (BitVec.ofNat 64 _) _ = _
    unfold parseBranch
    rw [bop_ofNat 7 (by decide) (by omega), fld_ofNat_eq (lo := 56) n (by decide) (by omega)]
    rfl
  case brt o =>
    have ho := o.enc0_lt
    show parseBranch (BitVec.ofNat 64 _) (BitVec.ofNat 64 _) = _
    unfold parseBranch
    rw [bop_ofNat 8 (by decide) (by omega), o.dec_enc]
    rfl
  all_goals exact absurd rfl hi

end Sys2Proof
end

section
/-! SUPPORT. A well-formed word raises no REASON (R48). -/

namespace Sys2Proof

open Sys2Proof.Machine

/-- Only a branch operation's reasons look at the length of its bundle. -/
theorem instrReasons_slot {i : Instr} {h : Hdr} (hi : hdrOfInstr i = some h) (m n : Nat) :
    instrReasons m i = instrReasons n i := by
  cases i <;> cases hi <;> rfl

/-- The NOPs that the encoder writes have no field set. -/
theorem nopReasons_encodeWord {i : Instr} {h : Hdr} (hi : hdrOfInstr i = some h) : nopReasons i (encodeWord i) = [] := by
  have hz : ∀ n lo, lo + n ≤ 52 → fld n (slotWord h 0 0) lo = 0 := by
    intro n lo hn
    rw [fld_slotWord h 0 0 (by decide) (by decide) n lo hn, Nat.zero_div, BitVec.ofNat_eq_ofNat]
  cases i <;> cases hi
  case mnop =>
    show needType (fld 8 (slotWord h 0 0) 44 == 0) = []
    rw [hz 8 44 (by decide)]
    rfl
  case vnop =>
    show needType (fld 4 (slotWord h 0 0) 48 == 0) ++ needMode (fld 3 (slotWord h 0 0) 2 == 0) = []
    rw [hz 4 48 (by decide), hz 3 2 (by decide)]
    rfl
  case xnop =>
    show needType (fld 8 (slotWord h 0 0) 44 == 0) ++ needMode (fld 5 (slotWord h 0 0) 0 == 0) = []
    rw [hz 8 44 (by decide), hz 5 0 (by decide)]
    rfl
  all_goals rfl

/-- No REASON is raised by the word of a well-formed slot operation. -/
theorem slotReason_encodeWord {i : Instr} {h : Hdr} (hw : WellFormed i) (hi : hdrOfInstr i = some h) :
    slotReason h.slot (encodeWord i) = none := by
  have hr : instrReasons 0 i = [] := (instrReasons_slot hi _ _).trans hw.1
  have hs : scopeReasons h.slot (encodeWord i) = [] := by
    have := hw.2
    rw [hi] at this
    exact this.2
  simp only [slotReason, parse_encodeWord hw hi, hr, hs, nopReasons_encodeWord hi, beq_self_eq_true]
  rfl

end Sys2Proof
end

section
/-! SUPPORT. Bundles of one operation decode to themselves (R20, R21, R48). -/

namespace Sys2Proof

open Sys2Proof.Machine

/-- A header that marks one slot present and nothing else (R21). -/
theorem slotHeader_fields (slot : Fin 9) :
    let m := BitVec.ofNat 64 (2 ^ slot.val)
    headerReason m = none ∧ hdrForm m = 0 ∧ hdrLength m = 2 ∧ hdrRep m = 0 ∧ hdrPres m = BitVec.ofNat 9 (2 ^ slot.val) ∧
    hdrHold m = 0 ∧ hdrStep m = 0 ∧
    allSlots.filter (fun i => (BitVec.ofNat 9 (2 ^ slot.val)).getLsbD i.val) = [slot] := by
  revert slot
  decide

/-- A header that announces branch words and no slot (R21). -/
theorem branchHeader_fields {form : Nat} (hf : form = 1 ∨ form = 2) :
    let m := BitVec.ofNat 64 (form * 2 ^ 24)
    headerReason m = none ∧ hdrForm m = form ∧ hdrLength m = 1 + form ∧ hdrRep m = 0 ∧ hdrPres m = 0 ∧ hdrHold m = 0 ∧
    hdrStep m = 0 ∧ allSlots.filter (fun i => (0#9).getLsbD i.val) = [] := by
  rcases hf with rfl | rfl <;> decide

theorem stepCode_zero (slot : Fin 9) : stepCode 0 slot = 0 := by
  simp [stepCode]

/-- A bundle of no held slot whose words have no fault decodes to those words (R20). -/
theorem decodeBundle_of_legal {m : W64} {ws : List W64} {present : List (Fin 9)} (x : W64) (hr : headerReason m = none)
    (hhold : hdrHold m = 0) (hpres : allSlots.filter (fun i => (hdrPres m).getLsbD i.val) = present)
    (hb : branchFaults (hdrForm m) (hdrLength m) (ws.headD 0) (if hdrForm m = 2 then ws.tail.headD 0 else 0) = [])
    (hs : slotFaults (hdrStep m) (hdrForm m) (1 + hdrForm m) (pairSlots present (ws.drop (hdrForm m))) = []) :
    decodeBundle (m :: ws) x = .ok
      { len := hdrLength m, rep := hdrRep m, pres := hdrPres m, hold := 0, step := hdrStep m,
        branch := if hdrForm m = 0 then none
          else parseBranch (ws.headD 0) (if hdrForm m = 2 then ws.tail.headD 0 else 0),
        slots := pairSlots present (ws.drop (hdrForm m)) } := by
  have hd : (m :: ws).drop (1 + hdrForm m) = ws.drop (hdrForm m) := by rw [Nat.add_comm, List.drop_succ_cons]
  have h1 : (m :: ws).drop 1 = ws := rfl
  have h2 : (m :: ws).drop 2 = ws.tail := List.drop_one
  have h6 : ((0 : BitVec 9).getLsbD 6 = true) = False := by decide
  simp only [decodeBundle, List.headD_cons, hr, hd, h1, h2, hpres, hhold, h6, false_and, if_false, hb, hs, List.append_nil,
    firstFault]

/-- A bundle of one legal slot word decodes to that word in its slot. -/
theorem decodeBundle_slot {slot : Fin 9} {w : W64} (hw : slotReason slot w = none) (x : W64) :
    decodeBundle [BitVec.ofNat 64 (2 ^ slot.val), w] x =
      .ok { len := 2, rep := 0, pres := BitVec.ofNat 9 (2 ^ slot.val), hold := 0, step := 0, branch := none,
            slots := [(slot, w)] } := by
  obtain ⟨hr, hform, hlen, hrep, hpres, hhold, hstep, hone⟩ := slotHeader_fields slot
  have hsound : slotFaults 0 0 1 [(slot, w)] = [] := by
    simp only [slotFaults, hw, stepCode_zero, ne_eq, not_true_eq_false, and_false, or_false, if_false, List.append_nil]
  rw [decodeBundle_of_legal x hr hhold (hpres ▸ hone) (by rw [hform]; rfl) (by rw [hform, hstep]; exact hsound),
    hform, hlen, hrep, hpres, hstep]
  rfl

/-- BOP 8 is that of the branch operation of two words (R36, R39). -/
theorem bop_encodeWord {i : Instr} (hi : branchForm i ≠ 0) : (encodeWord i).toNat >>> 59 = 8 ↔ branchForm i = 2 := by
  constructor
  · intro h8
    have hp := parseBranch_encodeWord hi
    rw [parseBranch, h8] at hp
    exact (congrArg branchForm (Option.some.inj hp)).symm
  · intro h2
    cases i
    case brt o =>
      have ho := o.enc0_lt
      exact bop_ofNat 8 (by decide) (by omega)
    all_goals cases h2

/-- What a BRT leaves unused in its first word is among what it leaves unused (R39). -/
theorem brtFirstWord_of_brtReasons {o : BrtOp} (h : brtReasons o = []) :
    let n := brtTests o.shape.toNat
    (o.shape.toNat ≤ 21 && (2 ≤ n || o.p1 == 0) && (3 ≤ n || o.p2 == 0) &&
      (4 ≤ n || (o.p3 == 0 && o.leaf4.toNat % 2 ^ 16 == 0))) = true := by
  unfold brtReasons at h
  simp only [ite_eq_left_iff, List.cons_ne_nil, imp_false, not_not, Bool.and_eq_true, Bool.or_eq_true, decide_eq_true_eq,
    beq_iff_eq] at h ⊢
  obtain ⟨⟨⟨hs, h1⟩, h2⟩, h3⟩ := h
  refine ⟨⟨⟨hs, h1.imp_right And.left⟩, h2.imp_right And.left⟩, h3.imp_right fun ⟨hp, hl⟩ => ⟨hp, ?_⟩⟩
  rw [hl]
  rfl

/-- The branch words of a well-formed branch operation have no fault (R35 to R39). -/
theorem branchFaults_encodeWord {i : Instr} (hi : branchForm i ≠ 0) (hr : instrReasons (1 + branchForm i) i = []) :
    branchFaults (branchForm i) (1 + branchForm i) (encodeWord i) (encodeWord1 i) = [] := by
  simp only [branchFaults, if_neg hi, bop_encodeWord hi, parseBranch_encodeWord hi, if_true, not_true_eq_false, if_false,
    List.nil_append]
  split
  next o =>
    have ho : brtReasons o = [] := hr
    rw [if_pos (brtFirstWord_of_brtReasons ho), if_pos ho]
    rfl
  next =>
    rw [hr]
    rfl

/-- Slot operations are no branch operations. -/
theorem branchForm_slot {i : Instr} {h : Hdr} (hi : hdrOfInstr i = some h) : branchForm i = 0 := by
  cases i <;> cases hi <;> rfl

/-- Branch operations stand in no slot. -/
theorem hdrOfInstr_branch {i : Instr} (hi : branchForm i ≠ 0) : hdrOfInstr i = none := by
  cases h : hdrOfInstr i with
  | none => rfl
  | some h' => exact absurd (branchForm_slot h) hi

/-- The words of the bundle of a branch operation: header, branch word, and of a BRT a second one, which is zero for every
other (R20, R35). -/
theorem encode_branch {i : Instr} (hi : branchForm i ≠ 0) :
    ∃ ws, encode i = BitVec.ofNat 64 (branchForm i * 2 ^ 24) :: encodeWord i :: ws ∧ ws.length + 1 = branchForm i ∧
      (branchForm i = 1 ∨ branchForm i = 2) ∧
      (if branchForm i = 2 then ws.headD 0 else 0) = encodeWord1 i := by
  cases i
  case brt o => exact ⟨[_], rfl, rfl, .inr rfl, rfl⟩
  case brc | jmp | call | ret | jmpi | calli | loop | loopImm | lpop => exact ⟨[], rfl, rfl, .inl rfl, rfl⟩
  all_goals exact absurd rfl hi

/-- The bundle that holds a well-formed branch operation alone decodes to itself. -/
theorem decodeBundle_branch {i : Instr} (hw : WellFormed i) (hi : branchForm i ≠ 0) (x : W64) :
    decodeBundle (encode i) x = .ok (soloBundle i) := by
  obtain ⟨ws, henc, hlen, hform, hsecond⟩ := encode_branch hi
  obtain ⟨hr, hf, hl, hrep, hpres, hhold, hstep, hnone⟩ := branchHeader_fields hform
  have hsolo : soloLength i = 1 + branchForm i := by
    rw [soloLength, henc, List.length_cons, List.length_cons, hlen, Nat.add_comm]
  have hreasons : instrReasons (1 + branchForm i) i = [] := hsolo ▸ hw.1
  rw [henc, decodeBundle_of_legal (present := []) x hr hhold (by rw [hpres]; exact hnone)
    (by rw [hf, hl, List.headD_cons, List.tail_cons, hsecond]; exact branchFaults_encodeWord hi hreasons) rfl,
    hf, hl, hrep, hpres, hstep, if_neg hi, List.headD_cons, List.tail_cons, hsecond, parseBranch_encodeWord hi]
  simp only [soloBundle, hdrOfInstr_branch hi, if_neg hi, ← hsolo, soloLength]
  rfl

/-- The bundle that holds a well-formed slot operation alone decodes to itself. -/
theorem decodeBundle_slotInstr {i : Instr} {h : Hdr} (hw : WellFormed i) (hi : hdrOfInstr i = some h) (x : W64) :
    decodeBundle (encode i) x = .ok (soloBundle i) := by
  have hb := branchForm_slot hi
  have henc : encode i = [BitVec.ofNat 64 (2 ^ h.slot.val), encodeWord i] := by simp only [encode, soloHeader, hi]
  rw [henc, decodeBundle_slot (slotReason_encodeWord hw hi)]
  simp only [soloBundle, henc, hi, hb, if_true]
  rfl

/-- Settles O46: slot words come back by class and operand record, branch words by BOP, and a bundle of one operation has a
header that raises no REASON. -/
theorem decodingReadsEncoding : Obligations.DecodingReadsEncoding := by
  intro i hw
  refine ⟨fun h hi => parse_encodeWord hw hi, parseBranch_encodeWord, fun hop x => ?_⟩
  by_cases hb : branchForm i = 0
  · obtain ⟨h, hi⟩ := Option.ne_none_iff_exists'.1 (hop.resolve_right (not_not_intro hb))
    exact decodeBundle_slotInstr hw hi x
  · exact decodeBundle_branch hw hb x

end Sys2Proof
end

section
/-! SUPPORT. An instruction means the issue of the bundle that holds it alone (R20, R189): the slot and branch operations. -/

namespace Sys2Proof

open Sys2Proof.Machine Sys2Proof.Claims

/-- A slot operation issues with the meaning that a slot word of it has. -/
theorem exec_slot {i : Instr} {h : Hdr} (hi : hdrOfInstr i = some h) (s : State) :
    exec i s = issueSlot h i (semOf i) s := by
  cases i <;> cases hi <;> rfl

/-- A branch operation issues with the meaning that a branch word of it has. -/
theorem exec_branch {i : Instr} (hi : branchForm i ≠ 0) (s : State) : exec i s = issueBranch i (branchSemOf i) s := by
  cases i
  case brc | jmp | call | ret | jmpi | calli | brt | loop | loopImm | lpop => rfl
  all_goals exact absurd rfl hi

/-- A slot operation on a core that issues is the issue of its bundle, which is under way. -/
theorem exec_slot_runs {i : Instr} {h : Hdr} {s : State} (hi : hdrOfInstr i = some h) (hrun : (s.core s.turn).runs = true) :
    exec i s = .next (issueOps s.turn (soloBundle i) [⟨h.slot, encodeWord i, semOf i⟩] noBranch (underWay i s)) := by
  rw [exec_slot hi, issueSlot, issueBundle, if_pos hrun, underWay]

/-- A branch operation on a core that issues is the issue of its bundle, which is under way. -/
theorem exec_branch_runs {i : Instr} {s : State} (hi : branchForm i ≠ 0) (hrun : (s.core s.turn).runs = true) :
    exec i s = .next (issueOps s.turn (soloBundle i) [] (branchSemOf i) (underWay i s)) := by
  rw [exec_branch hi, issueBranch, issueBundle, if_pos hrun, underWay]

theorem canIssue_hdr {i : Instr} {h : Hdr} {s : State} (hcan : CanIssue i h s) : hdrOfInstr i = some h := by
  obtain ⟨_, _, _, hi, _⟩ := hcan
  exact hi

theorem canIssue_reasons {i : Instr} {h : Hdr} {s : State} (hcan : CanIssue i h s) : instrReasons (soloLength i) i = [] := by
  obtain ⟨_, _, ⟨hreasons, _⟩, _, _⟩ := hcan
  exact hreasons

/-- What lands at the issue leaves the pc. -/
theorem begun_pc (i : Instr) (s : State) : ((begun i s).ctx s.turn).pc = (s.ctx s.turn).pc := by
  rw [begun, State.ctx, State.core_modCore_same, Core.landDue_pc, State.core_modCtx_same, Core.ctx_setCtx]
  rfl

theorem underWay_pc (i : Instr) (s : State) : ((underWay i s).ctx s.turn).pc = (s.ctx s.turn).pc := by
  rw [underWay, State.ctx, State.core_modCtx_same, Core.ctx_setCtx]
  rfl

theorem underWay_landFull {i : Instr} {s : State} (hfull : (s.core s.turn).landFull = false) :
    ((underWay i s).core s.turn).landFull = false := by
  rw [underWay, landFull_under_way, hfull]

theorem activeSlots_one (slot : Fin 9) :
    allSlots.filter (fun i => (BitVec.ofNat 9 (2 ^ slot.val)).getLsbD i.val || (0#9).getLsbD i.val) = [slot] := by
  revert slot
  decide

theorem present_one (slot i : Fin 9) : (BitVec.ofNat 9 (2 ^ slot.val)).getLsbD i.val = decide (i = slot) := by
  revert slot i
  decide

/-- At the first repetition of a bundle of one slot word that word is its slot's sticky word. -/
theorem stickyAt_one {b : Bundle} {slot : Fin 9} {w : W64} (hp : b.pres = BitVec.ofNat 9 (2 ^ slot.val)) (hh : b.hold = 0#9)
    (hs : b.slots = [(slot, w)]) (st : FMap W64) : stickyAt b 0 st = st.put slot.val w := by
  calc stickyAt b 0 st = allSlots.foldl (fun u i => if i = slot then u.put slot.val w else u) st := by
        refine List.foldl_ext _ _ st fun u i _ => ?_
        by_cases hi : i = slot
        · simp only [hp, hi, present_one, hs, decide_true, Bool.true_and, beq_self_eq_true, if_true,
            List.find?_cons_of_pos, Option.elim_some]
        · simp only [hp, hi, present_one, hh, BitVec.getLsbD_zero, decide_false, Bool.false_and, Bool.or_false,
            Bool.false_eq_true, if_false]
    _ = st.put slot.val w := by fin_cases slot <;> rfl

/-- The operations of the bundle that holds a well-formed slot operation alone. -/
theorem bundleActives_solo {i : Instr} {h : Hdr} (hw : WellFormed i) (hi : hdrOfInstr i = some h) {x : Ctx}
    (hx : x.rep = 0) : bundleActives (soloBundle i) x = [⟨h.slot, encodeWord i, semOf i⟩] := by
  have hp : (soloBundle i).pres = BitVec.ofNat 9 (2 ^ h.slot.val) := by simp only [soloBundle, hi]
  have hs : (soloBundle i).slots = [(h.slot, encodeWord i)] := by simp only [soloBundle, hi]
  have hslots : Bundle.activeSlots (soloBundle i) = [h.slot] := by
    rw [Machine.Bundle.activeSlots, hp]
    exact activeSlots_one h.slot
  rw [bundleActives, hslots, hx, stickyAt_one hp rfl hs]
  simp only [List.map_cons, List.map_nil, FMap.look_put, if_true, parse_encodeWord hw hi, Option.map_some, Option.getD_some]

/-- A bundle of a branch word alone has no slot operation. -/
theorem bundleActives_branch {i : Instr} (hi : branchForm i ≠ 0) (x : Ctx) : bundleActives (soloBundle i) x = [] := by
  have hp : (soloBundle i).pres = 0 := by simp only [soloBundle, hdrOfInstr_branch hi]
  have hslots : Bundle.activeSlots (soloBundle i) = [] := by
    rw [Machine.Bundle.activeSlots, hp]
    exact (by decide : allSlots.filter (fun i => (0#9).getLsbD i.val || (0#9).getLsbD i.val) = [])
  rw [bundleActives, hslots, List.map_nil]

/-- The branch operation of the bundle that holds one instruction alone. -/
theorem bundleBranch_solo (i : Instr) :
    bundleBranch (soloBundle i) = if branchForm i = 0 then noBranch else branchSemOf i := by
  by_cases hb : branchForm i = 0
  · simp only [bundleBranch, soloBundle, if_pos hb, Option.map_none, Option.getD_none]
  · simp only [bundleBranch, soloBundle, if_neg hb, Option.map_some, Option.getD_some]

/-- Settles O48: the bundle's one slot word is read back as the operation, and its branch word is the branch operation. -/
theorem instructionIsItsBundle : Obligations.InstructionIsItsBundle := by
  intro i s hw hop hrep
  by_cases hb : branchForm i = 0
  · obtain ⟨h, hi⟩ := Option.ne_none_iff_exists'.1 (hop.resolve_right (not_not_intro hb))
    rw [exec_slot hi, issueSlot, issueWhole, bundleActives_solo hw hi hrep, bundleBranch_solo, if_pos hb]
  · rw [exec_branch hb, issueBranch, issueWhole, bundleActives_branch hb, bundleBranch_solo, if_neg hb]

end Sys2Proof
end

section
/-! SUPPORT. What takes no part in its issue: an operation whose guard is false, and the NOPs. -/

namespace Sys2Proof

open Sys2Proof.Machine Sys2Proof.Claims

/-- A bundle whose one operation has a false guard issues as one that holds none (R27). -/
theorem issueOps_guard_false {n : Nat} {b : Bundle} {a : Active} {br : BranchSem} {s0 : State}
    (hg : guardTrue ((s0.modCore n Core.landDue).core n).ctx a.word = false) :
    issueOps n b [a] br s0 = issueOps n b [] br s0 := by
  have hnone : [a].filter (fun a => guardTrue ((s0.modCore n Core.landDue).core n).ctx a.word) =
      [].filter (fun a => guardTrue ((s0.modCore n Core.landDue).core n).ctx a.word) :=
    List.filter_cons_of_neg (by rw [hg]; exact Bool.false_ne_true)
  unfold issueOps
  dsimp only
  rw [hnone]

/-- The issue of a bundle without operation and without branch: the loop-end test alone. -/
theorem issueOps_idle {n : Nat} {b : Bundle} {s0 : State} (hfull : (s0.core n).landFull = false) (hb : b.rep = 0) :
    let u := s0.modCore n Core.landDue
    let loop := loopEnd (s0.ctx n).pc 7 (u.core n).ctx
    issueOps n b [] noBranch s0 = u.modCore n (fun c =>
      branchEnd 0 (loop.2.getD ((s0.ctx n).pc + BitVec.ofNat 64 (8 * b.len))) loop.1
        (stickyAt b (s0.ctx n).rep c.ctx.sticky) c) :=
  issueOps_branch rfl hfull hb (fun r hr => by cases hr) (resolve_none _ _ _ _ _)

/-- The issue of a bundle of two words without operation and without branch keeps to the frame. -/
theorem branchEnd_issued (st : FMap W64) (c : Core) :
    IssuedCore 2 [] [] [] c
      (branchEnd 0 (((loopEnd c.ctx.pc 7 c.ctx).2).getD (c.ctx.pc + BitVec.ofNat 64 (8 * 2))) (loopEnd c.ctx.pc 7 c.ctx).1 st
        c) := by
  have hports : { c.setCtx { c.ctx.countDown with sticky := st, flight := c.ctx.countDown.flight ++ [] } with
      ports := c.ports } = tick st c := by
    rw [List.append_nil]
    cases hs : c.inSup <;> simp only [tick, Core.setCtx, hs] <;> rfl
  have h := endCore_issued c c.ports 2 st [] [] [] fun p => rfl
  rw [hports] at h
  exact h

/-- Settles O33: the operation drops out of its bundle, and the loop-end test of an empty bundle is all that follows. -/
theorem falseGuardDoesNothing : Obligations.FalseGuardDoesNothing := by
  intro i h s hrun hfull _ hi hpred
  have hg : guardTrue (((underWay i s).modCore s.turn Core.landDue).core s.turn).ctx (encodeWord i) = false := by
    rw [guardTrue_encode i h hi]
    exact bne_eq_false_iff_eq.2 hpred
  have hpc : ((underWay i s).ctx s.turn).pc = ((begun i s).core s.turn).ctx.pc := (underWay_pc i s).trans (begun_pc i s).symm
  have hidle := (issueOps_guard_false (a := ⟨h.slot, encodeWord i, semOf i⟩) (br := noBranch) (b := soloBundle i) hg).trans
    (issueOps_idle (underWay_landFull hfull) rfl)
  have hbegun : (underWay i s).modCore s.turn Core.landDue = begun i s := rfl
  rw [hbegun, soloBundle_len i h hi, hpc] at hidle
  refine ⟨_, ?_, (exec_slot_runs hi hrun).trans (congrArg _ hidle)⟩
  refine ⟨rfl, fun m hm => State.core_modCore_ne _ _ _ _ hm, ?_⟩
  rw [State.core_modCore_same]
  exact branchEnd_issued _ _

/-- Settles O1: a NOP reads nothing, changes nothing and puts nothing into flight. -/
theorem nopsIssue : Obligations.NopsIssue := by
  intro i h s e hcan hm he hsrc hdst _ _
  have hidle : e = {} ∧ semOf i = {} := by
    cases i
    case snop | lnop | vnop | xnop | mnop | cnop => exact ⟨(Option.some.inj he).symm, rfl⟩
    all_goals cases he
  obtain ⟨rfl, hsem⟩ := hidle
  have hx : exec i s = issueSlot h i {} s := by rw [exec_slot (canIssue_hdr hcan), hsem]
  exact completes_of hcan hx rfl rfl rfl rfl rfl rfl rfl (fun u f => (landMany_nil u _ f).symm) (fun _ => rfl) (fun _ => rfl)
    rfl rfl (slotPrivilege_modeHas hm) hsrc hdst

end Sys2Proof
end

section
/-! SUPPORT. Branch words alone: they wait for the register they read (R38), and go where their target says (R75). -/

namespace Sys2Proof

open Sys2Proof.Machine Sys2Proof.Claims

/-- A branch word whose register is empty keeps its bundle from issuing (R38). -/
theorem issueOps_branch_waits {n : Nat} {b : Bundle} {br : BranchSem} {s0 : State} {r : Nat}
    (hfull : (s0.core n).landFull = false) (hb : b.rep = 0) (hr : br.reg = some r)
    (he : ((s0.modCore n Core.landDue).core n).ctx.isEmpty r = true) :
    issueOps n b [] br s0 = s0.modCore n Core.landClears := by
  unfold issueOps
  rw [if_neg (by rw [hfull]; exact Bool.false_ne_true)]
  simp only [List.filter_nil, envs_nil, List.any_nil, findEmptyTrap, Bool.false_or, Bool.not_false, Bool.and_true, hb,
    Nat.zero_le, decide_true, hr, Option.any_some, he, Bool.false_eq_true, and_false, if_false, if_true]

/-- The register that a branch word reads is the one its bundle waits for. -/
theorem branchReads_sem {i : Instr} {r : BitVec 6} (hr : branchReads i = some r) :
    branchForm i ≠ 0 ∧ (branchSemOf i).reg = some r.toNat := by
  cases i <;> cases hr <;> exact ⟨Nat.one_ne_zero, rfl⟩

/-- Settles O31: among the tests of the issue the one for the branch's register fails, and no trap comes before it. -/
theorem branchStallsOnEmpty : Obligations.BranchStallsOnEmpty := by
  intro i s r ⟨hrun, hfull, _, _⟩ hreads he
  obtain ⟨hb, hr⟩ := branchReads_sem hreads
  rw [exec_branch_runs hb hrun, stalled]
  exact congrArg _ (issueOps_branch_waits (underWay_landFull hfull) rfl hr he)

/-! ## Where a branch goes -/

/-- What a branch that is no loop operation asks of the resolution: what its statement says, and no change of levels. -/
structure JumpSem (br : BranchSem) (v : Env) (len : Nat) (j : Jump) : Prop where
  reg    : br.reg = j.reg.map BitVec.toNat
  target : br.target v len = j.target
  link   : br.link = j.link.toNat
  push   : br.push v = none
  pop    : br.pop = 0

/-- The shapes of the codes are those that R41 lists. -/
theorem shapeOf_eq (code : Nat) : shapeOf code = shapeTable.getD code .leaf :=
  congrArg (·.getD code .leaf) (by decide : ((shapesOf 4).drop 1).flatten = shapeTable)

/-- The leaf that the model picks is the leaf that the tree of tests reaches (R40). -/
theorem pick_eq_treeLeaf (p : Nat → Bool) (t : Shape) (i l : Nat) : t.pick p i l = treeLeaf p t i l := by
  induction t generalizing i l with
  | leaf => rfl
  | test f t ihf iht => simp only [Shape.pick, treeLeaf, ihf, iht]

theorem brtPred_eq (o : BrtOp) (k : Nat) : brtPred o k = [o.p0, o.p1, o.p2, o.p3].getD k o.p3 := by
  match k with
  | 0 | 1 | 2 | 3 | _ + 4 => rfl

theorem brtLeaf_eq (o : BrtOp) (k : Nat) : brtLeaf o k = [o.leaf0, o.leaf1, o.leaf2, o.leaf3, o.leaf4].getD k o.leaf4 := by
  match k with
  | 0 | 1 | 2 | 3 | 4 | _ + 5 => rfl

theorem jumpOf_sem {v : Env} {i : Instr} {j : Jump} (hj : jumpOf v i = some j) (len : Nat) :
    branchForm i ≠ 0 ∧ JumpSem (branchSemOf i) v len j := by
  cases i
  case brc neg p t =>
    obtain rfl := Option.some.inj hj
    refine ⟨Nat.one_ne_zero, rfl, ?_, rfl, rfl, rfl⟩
    show (if (v.x.pred p.toNat != neg) = true then _ else _) = _
    rw [Bool.bne_eq_xor]
    rfl
  case jmp | call | ret | jmpi | calli =>
    obtain rfl := Option.some.inj hj
    exact ⟨Nat.one_ne_zero, rfl, rfl, rfl, rfl, rfl⟩
  case brt o =>
    obtain rfl := Option.some.inj hj
    refine ⟨(Nat.succ_ne_zero 1), rfl, ?_, rfl, rfl, rfl⟩
    show branchOff v.pc (brtLeaf o _) = _
    rw [brtLeaf_eq, pick_eq_treeLeaf, shapeOf_eq]
    simp only [brtPred_eq]
    rfl
  all_goals cases hj

/-- The loop-end test writes no scalar register. -/
theorem loopEnd_s (h : W64) (n : Nat) (x : Ctx) : (loopEnd h n x).1.s = x.s := by
  induction n generalizing x with
  | zero => rfl
  | succ n ih =>
    unfold loopEnd
    dsimp only
    split
    · rfl
    · split
      · split
        · rfl
        · rw [ih]
          rfl
      · rfl

/-- What a jump makes of its context, and the pc: a branch with a target leaves the loop stack as it is, one without makes
the loop-end test (R75). -/
def jumpEnd (len : Nat) (j : Jump) (x : Ctx) : Ctx × W64 :=
  let seq := x.pc + BitVec.ofNat 64 (8 * len)
  let x' := x.setSreg j.link.toNat seq
  match j.target with
  | some a => (x', a)
  | none => ((loopEnd x.pc 7 x').1, (loopEnd x.pc 7 x').2.getD seq)

theorem resolve_jump {br : BranchSem} {v : Env} {len : Nat} {j : Jump} (hj : JumpSem br v len j)
    (la : W64 → Except Trap Nat) (x : Ctx) : resolve br v x.pc len la x = .ok (jumpEnd len j x) := by
  cases h : j.target <;> simp [resolve, jumpEnd, hj.target, hj.link, hj.push, hj.pop, h]

/-- The registers of a context are its own with the link register written. -/
theorem branchCtx_sreg {link : Nat} {next v : W64} {xl : Ctx} {st : FMap W64} {counts : Nat} {x : Ctx}
    (hs : xl.s = (x.setSreg link v).s) (r : Nat) :
    (branchCtx link next xl st counts x).sreg r = if r = link ∧ r ≠ 0 then v else x.sreg r := by
  have hlink : link ≠ 0 → xl.sreg link = v := by
    intro hl
    rw [Ctx.sreg, if_neg hl, hs, Ctx.setSreg, if_neg hl, FMap.look_put_same]
  by_cases hr : r = 0
  · rw [if_neg (fun h => h.2 hr), hr, Ctx.sreg_zero, Ctx.sreg_zero]
  by_cases hl : link = 0
  · rw [if_neg (fun h => hr (h.1.trans hl))]
    simp only [Ctx.sreg, branchCtx, hl, if_true]
  · simp only [Ctx.sreg, branchCtx, if_neg hl, FMap.look_put, ne_eq, hr, not_false_eq_true, and_true, if_false]
    rw [← hlink hl, Ctx.sreg, if_neg hl]

/-- The special registers of a branch's context, but for the count of issues. -/
theorem branchCtx_spec_ne {link : Nat} {next : W64} {xl : Ctx} {st : FMap W64} {counts : Nat} {x : Ctx} (hc : counts ≤ 1)
    (hx : ∀ k, k ∉ loopStackRegs → xl.spec k = x.spec k) {k : Nat} (hk : k ≠ SR.issues) :
    (branchCtx link next xl st counts x).spec k = xl.spec k := by
  rw [branchCtx_spec link next xl st counts hc x hx, if_neg hk]
  exact BitVec.add_zero _

/-- What every branch keeps of its context, when only the loop stack may be resolved anew. -/
theorem branchCtx_kept {link : Nat} {next : W64} {xl : Ctx} {st : FMap W64} {counts : Nat} {x : Ctx} (hc : counts ≤ 1)
    (hx : ∀ k, k ∉ loopStackRegs → xl.spec k = x.spec k) : BranchKept counts x (branchCtx link next xl st counts x) := by
  refine ⟨rfl, rfl, rfl, rfl, rfl, rfl, rfl, rfl, rfl, rfl, rfl, ?_, fun k hk hi => ?_⟩
  · rw [branchCtx_spec link next xl st counts hc x hx, if_pos rfl, hx _ (by decide)]
  · refine (branchCtx_spec_ne hc hx hi).trans (hx k ?_)
    simp only [loopStackRegs, List.mem_cons, List.not_mem_nil, or_false]
    omega

/-- Without a target the special registers and the pc are those of an issue without a branch word. -/
theorem branchCtx_falls {link : Nat} {seq : W64} {st : FMap W64} {counts len : Nat} {x : Ctx} :
    let x' := x.setSreg link seq
    let next := (loopEnd x.pc 7 x).2.getD (x.pc + BitVec.ofNat 64 (8 * len))
    let y := branchCtx link ((loopEnd x.pc 7 x').2.getD (x.pc + BitVec.ofNat 64 (8 * len))) (loopEnd x.pc 7 x').1 st counts x
    let z := endCtx next (loopEnd x.pc 7 x).1 [] st counts x
    y.pc = z.pc ∧ y.sr = z.sr := by
  obtain ⟨hnext, hloop⟩ := loopEnd_congr x.pc 7 (x.setSreg link seq) x fun k _ => by
    rw [Ctx.spec, Ctx.setSreg_sr]
    rfl
  refine ⟨congrArg (fun t : Option W64 => t.getD (x.pc + BitVec.ofNat 64 (8 * len))) hnext, ?_⟩
  simp only [branchCtx, endCtx, copyLoops_congr _ _ hloop]

/-- A branch without a target makes the loop-end test. -/
theorem fall_jumpCtx {j : Jump} {st : FMap W64} {counts len : Nat} {x : Ctx} (hc : counts ≤ 1) (hj : j.target = none) :
    let seq := x.pc + BitVec.ofNat 64 (8 * len)
    let loop := loopEnd x.pc 7 (x.setSreg j.link.toNat seq)
    JumpCtx len j counts x (branchCtx j.link.toNat (loop.2.getD seq) loop.1 st counts x) := by
  intro seq loop
  have hx' : ∀ k, (x.setSreg j.link.toNat seq).spec k = x.spec k := fun k => by
    rw [Ctx.spec, Ctx.setSreg_sr]
    rfl
  have hout : ∀ k, k ∉ loopStackRegs → loop.1.spec k = x.spec k := fun k hk => (loopEnd_frame _ _ _ k hk).trans (hx' k)
  obtain ⟨hpc, hsr⟩ := branchCtx_falls (link := j.link.toNat) (seq := seq) (st := st) (counts := counts) (len := len) (x := x)
  obtain ⟨-, -, -, -, -, -, -, -, -, -, -, -, -, -, hnone, hkept, htested⟩ := endCtx_issued len st counts [] x hc
  replace hpc : (branchCtx j.link.toNat (loop.2.getD seq) loop.1 st counts x).pc =
      (endCtx ((loopEnd x.pc 7 x).2.getD seq) (loopEnd x.pc 7 x).1 [] st counts x).pc := hpc
  have hspec : ∀ k, (branchCtx j.link.toNat (loop.2.getD seq) loop.1 st counts x).spec k =
      (endCtx ((loopEnd x.pc 7 x).2.getD seq) (loopEnd x.pc 7 x).1 [] st counts x).spec k :=
    fun k => congrArg (fun sr : FMap W64 => sr.look 0 k) hsr
  refine ⟨branchCtx_kept hc hout, branchCtx_sreg (loopEnd_s ..), ?_⟩
  rw [hj]
  simp only [hspec, LoopTested, hpc]
  exact ⟨hnone, hkept, htested⟩

/-- A branch with a target goes there. -/
theorem goes_jumpCtx {j : Jump} {a : W64} {st : FMap W64} {counts len : Nat} {x : Ctx} (hc : counts ≤ 1)
    (hj : j.target = some a) :
    JumpCtx len j counts x (branchCtx j.link.toNat a (x.setSreg j.link.toNat (x.pc + BitVec.ofNat 64 (8 * len))) st counts
      x) := by
  have hx : ∀ k, (x.setSreg j.link.toNat (x.pc + BitVec.ofNat 64 (8 * len))).spec k = x.spec k := fun k => by
    rw [Ctx.spec, Ctx.setSreg_sr]
    rfl
  refine ⟨branchCtx_kept hc fun k _ => hx k, branchCtx_sreg rfl, ?_⟩
  rw [hj]
  exact ⟨rfl, fun k hk => (branchCtx_spec_ne hc (fun k _ => hx k) hk).trans (hx k)⟩

/-- A jump does to its context what its statement says. -/
theorem branchCtx_jumpEnd {j : Jump} {st : FMap W64} {counts : Nat} (len : Nat) (x : Ctx) (hc : counts ≤ 1) :
    JumpCtx len j counts x (branchCtx j.link.toNat (jumpEnd len j x).2 (jumpEnd len j x).1 st counts x) := by
  cases hj : j.target with
  | some a =>
    simp only [jumpEnd, hj]
    exact goes_jumpCtx hc hj
  | none =>
    simp only [jumpEnd, hj]
    exact fall_jumpCtx hc hj

/-- The end of a branch's issue changes the context that its core is in, and the count of a handler's issues. -/
theorem branchEnd_ctxIssued {u : State} {n link : Nat} {next : W64} {xl : Ctx} {st : Core → FMap W64}
    {P : Nat → Ctx → Ctx → Prop}
    (hP : P (if (u.core n).inSup then 0 else 1) (u.core n).ctx
      (branchCtx link next xl (st (u.core n)) (if (u.core n).inSup then 0 else 1) (u.core n).ctx)) :
    CtxIssued n P u (u.modCore n (fun c => branchEnd link next xl (st c) c)) := by
  obtain ⟨hframe, hmode, hctx⟩ := branchEnd_frame link next xl (st (u.core n)) (u.core n)
  rw [← hctx] at hP
  refine ⟨rfl, fun m hm => State.core_modCore_ne _ _ _ _ hm, ?_⟩
  rw [State.core_modCore_same]
  exact ⟨hframe, hmode, hP⟩

/-- Settles O27: the resolution gives the target or the loop-end test, and the issue's end changes the context alone. -/
theorem branchesGo : Obligations.BranchesGo := by
  intro i s j ⟨hrun, hfull, _, _⟩ hj hfree
  obtain ⟨hb, hsem⟩ := jumpOf_sem hj (soloBundle i).len
  have hreg : ∀ r, (branchSemOf i).reg = some r → (branchSeen i s).x.isEmpty r = false := by
    intro r hr
    obtain ⟨q, hq, rfl⟩ := Option.map_eq_some_iff.1 (hsem.reg.symm.trans hr)
    exact hfree q hq
  have hv : branchSeen i s =
      ⟨s.turn, 9, 0, (underWay i s).modCore s.turn Core.landDue, ((underWay i s).ctx s.turn).pc, [], [], []⟩ := by
    rw [underWay_pc]
    rfl
  have hpc : (branchSeen i s).pc = (branchSeen i s).x.pc := (begun_pc i s).symm
  have hissue := issueOps_branch hv (underWay_landFull hfull) rfl hreg (hpc ▸ resolve_jump hsem _ _)
  refine ⟨_, ?_, (exec_branch_runs hb hrun).trans (congrArg _ hissue)⟩
  rw [hsem.link]
  exact branchEnd_ctxIssued (st := fun c => stickyAt _ _ c.ctx.sticky) (branchCtx_jumpEnd _ _ (by split <;> decide))

end Sys2Proof
end

section
/-! SUPPORT. The fetch of a bundle (R48, R49): the faults of a header alone, read off its bits, and the word at which a fetch
faults. -/

namespace Sys2Proof

open Sys2Proof.Machine Sys2Proof.Claims

theorem fld_getLsbD {n : Nat} (w : W64) (lo : Nat) {i : Nat} (hi : i < n) : (fld n w lo).getLsbD i = w.getLsbD (lo + i) := by
  rw [fld, BitVec.getLsbD_ofNat, decide_eq_true hi, Bool.true_and, Nat.testBit_shiftRight]
  rfl

theorem hdrPres_getLsbD (h : W64) {k : Nat} (hk : k < 9) : (hdrPres h).getLsbD k = h.getLsbD k := by
  rw [hdrPres, fld_getLsbD h 0 hk, Nat.zero_add]

theorem hdrHold_getLsbD (h : W64) {k : Nat} (hk : k < 9) : (hdrHold h).getLsbD k = h.getLsbD (9 + k) :=
  fld_getLsbD h 9 hk

theorem hdrForm_eq (h : W64) : hdrForm h = h.toNat / 2 ^ 24 % 4 := by
  rw [hdrForm, fld, BitVec.toNat_ofNat, Nat.shiftRight_eq_div_pow]

/-- The step code of a slot stands at its place in the header (R21). -/
theorem stepCode_hdrStep (h : W64) (slot : Fin 9) : stepCode (hdrStep h) slot = h.toNat / 2 ^ (26 + 2 * slot.val) % 4 := by
  obtain ⟨d, hd⟩ : ∃ d, 18 = 2 * slot.val + (2 + d) := ⟨16 - 2 * slot.val, by omega⟩
  rw [stepCode, hdrStep, fld, BitVec.toNat_ofNat, Nat.shiftRight_eq_div_pow, hd, Nat.pow_add 2 (2 * slot.val),
    Nat.mod_mul_right_div_self, Nat.pow_add 2 2 d, Nat.mod_mul_right_mod, Nat.div_div_eq_div_mul, ← Nat.pow_add]

/-- A test of every slot is a test of its number. -/
theorem allSlots_any (p : Nat → Bool) : allSlots.any (fun i => p i.val) = (List.range 9).any p :=
  (List.any_map (f := Fin.val) (l := allSlots) (p := p)).symm

/-- No slot is present and held at once. -/
theorem present_held (h : W64) :
    hdrPres h &&& hdrHold h = 0 ↔ (List.range 9).any (fun k => h.getLsbD k && h.getLsbD (9 + k)) = false := by
  simp only [List.any_eq_false, List.mem_range, Bool.not_eq_true]
  constructor
  · intro h0 k hk
    rw [← hdrPres_getLsbD h hk, ← hdrHold_getLsbD h hk, ← BitVec.getLsbD_and, h0]
    exact BitVec.getLsbD_zero
  · intro hall
    refine BitVec.eq_of_getLsbD_eq fun k hk => ?_
    rw [BitVec.getLsbD_and, hdrPres_getLsbD h hk, hdrHold_getLsbD h hk, hall k hk]
    exact BitVec.getLsbD_zero.symm

/-- The lowest of four reasons is that of the first test that fails. -/
theorem lowest_tests (p q r t : Prop) [Decidable p] [Decidable q] [Decidable r] [Decidable t] :
    lowest ((if p then [] else [1]) ++ (if q then [] else [2]) ++ (if r then [3] else []) ++ (if t then [4] else [])) =
      if ¬p then some 1 else if ¬q then some 2 else if r then some 3 else if t then some 4 else none := by
  by_cases p <;> by_cases q <;> by_cases r <;> by_cases t <;> simp [lowest, *]

/-- The faults of a header alone, of which the lowest is reported. -/
theorem headerReason_eq (h : W64) : headerReason h =
    if h.toNat / 2 ^ 44 ≠ 0 then some 1
    else if (List.range 9).any (fun k => h.getLsbD k && h.getLsbD (9 + k)) then some 2
    else if h.toNat / 2 ^ 24 % 4 = 3 then some 3
    else if (List.range 9).any (fun k => h.toNat / 2 ^ (26 + 2 * k) % 4 != 0 &&
        (decide (k < 2) || !(h.getLsbD k || h.getLsbD (9 + k)))) then some 4
    else none := by
  have hstep : allSlots.any (fun i => stepCode (hdrStep h) i != 0 &&
      (i.val < 2 || !(hdrPres h ||| hdrHold h).getLsbD i.val)) =
      (List.range 9).any (fun k => h.toNat / 2 ^ (26 + 2 * k) % 4 != 0 &&
        (decide (k < 2) || !(h.getLsbD k || h.getLsbD (9 + k)))) := by
    rw [← allSlots_any]
    congr 1
    funext i
    rw [stepCode_hdrStep, BitVec.getLsbD_or, hdrPres_getLsbD h i.isLt, hdrHold_getLsbD h i.isLt]
  rw [headerReason, hstep, hdrForm_eq, Nat.shiftRight_eq_div_pow]
  simp only [present_held, lowest_tests, Bool.not_eq_false, ne_eq]

/-- The length that a header gives. -/
theorem headerWords_eq (h : W64) : headerWords h = hdrLength h := by
  have hpres : (List.range 9).filter (fun k => h.getLsbD k) = (allSlots.filter (fun i => (hdrPres h).getLsbD i.val)).map Fin.val := by
    have hslots : allSlots.filter (fun i => (hdrPres h).getLsbD i.val) = allSlots.filter ((fun k => h.getLsbD k) ∘ Fin.val) :=
      congrArg (allSlots.filter ·) (funext fun i => hdrPres_getLsbD h i.isLt)
    rw [hslots, ← List.filter_map]
    rfl
  rw [headerWords, hdrLength, presCount, hdrForm_eq, hpres, List.length_map]

/-- A word that cannot be fetched is reported with its address. -/
theorem fetchWord_error {s u : State} {n : Nat} {a : W64} {t : Trap} (h : fetchWord s n a = (u, .error t)) :
    t = ⟨17, 9, true, a⟩ := by
  unfold fetchWord at h
  split at h
  next => exact (Except.error.inj (Prod.ext_iff.1 h).2).symm
  next =>
    dsimp only at h
    split at h
    next => cases (Prod.ext_iff.1 h).2
    next => split_ifs at h <;> cases (Prod.ext_iff.1 h).2

theorem fetchWord_untranslated {s : State} {n : Nat} {a : W64} {e : Nat} (h : (s.translate a.toNat false).2 = .error e) :
    ∃ u, fetchWord s n a = (u, .error ⟨17, 9, true, a⟩) := by
  obtain ⟨u, hu⟩ : ∃ u, s.translate a.toNat false = (u, .error e) := ⟨_, Prod.ext rfl h⟩
  exact ⟨u, by rw [fetchWord, hu]; rfl⟩

/-- The first word that cannot be fetched is the one reported. -/
theorem fetchWords_error {s u : State} {n : Nat} {a : W64} {k : Nat} {t : Trap} (h : fetchWords s n a k = (u, .error t)) :
    ∃ j, j < k ∧ t = ⟨17, 9, true, a + BitVec.ofNat 64 (8 * j)⟩ := by
  induction k generalizing s u a with
  | zero => cases h
  | succ k ih =>
    rw [fetchWords] at h
    rcases hw : fetchWord s n a with ⟨v, t' | w⟩
    · rw [hw] at h
      obtain rfl := Except.error.inj (Prod.ext_iff.1 h).2
      exact ⟨0, Nat.succ_pos k, (fetchWord_error hw).trans (by simp)⟩
    · rcases hws : fetchWords v n (a + 8) k with ⟨v', t' | ws⟩
      · simp only [hw, hws] at h
        obtain rfl := Except.error.inj (Prod.ext_iff.1 h).2
        obtain ⟨j, hj, rfl⟩ := ih hws
        refine ⟨j + 1, Nat.succ_lt_succ hj, ?_⟩
        rw [Nat.mul_succ, BitVec.ofNat_add, BitVec.add_assoc, BitVec.add_comm 8]
        rfl
      · simp only [hw, hws] at h
        cases (Prod.ext_iff.1 h).2

/-- The illegal bundles are refused by their reasons. -/
theorem illegalWords_refused : ∀ e ∈ illegalWords, decodeBundle e.1 0 = .error ⟨e.2.1, e.2.2.1, e.2.2.2⟩ := by
  decide +kernel

/-- Settles O45: the words and the illegal bundles are evaluated; a fetch faults where its first failing test says. -/
theorem wordsDecode : Obligations.WordsDecode := by
  refine ⟨by decide, by decide, by decide, by decide, by decide, by decide, illegalWords_refused, ?_⟩
  intro s n a x f alone
  have halone : ∀ h, alone h = headerReason h := fun h => (headerReason_eq h).symm
  have hwords : ∀ h, headerWords h - 1 = hdrLength h - 1 := fun h => congrArg (· - 1) (headerWords_eq h)
  refine ⟨fun ha => ?_, fun ha e he => ?_, fun ha u h hw => ⟨fun r hr => ?_, fun hr v t hws => ?_, fun hr v ws hws => ?_⟩⟩
  · simp only [f, fetchBundle, if_pos ha]
    rfl
  · obtain ⟨u, hu⟩ := fetchWord_untranslated (n := n) he
    simp only [f, fetchBundle, ha, ne_eq, not_true_eq_false, if_false, hu]
  · rw [halone] at hr
    simp only [f, fetchBundle, ha, ne_eq, not_true_eq_false, if_false, hw, hr, illegalTrap, Illegal.info,
      Nat.zero_mul, Nat.zero_add, Nat.reduceMul, Nat.reducePow]
  · refine ⟨?_, fetchWords_error hws⟩
    rw [halone] at hr
    rw [hwords] at hws
    simp only [f, fetchBundle, ha, ne_eq, not_true_eq_false, if_false, hw, hr, hws]
  · rw [halone] at hr
    rw [hwords] at hws
    simp only [f, fetchBundle, ha, ne_eq, not_true_eq_false, if_false, hw, hr, hws]
    refine ⟨fun e he => ?_, fun b hb => ?_⟩
    · rw [he]
      rfl
    · rw [hb]

end Sys2Proof
end

section
/-! SUPPORT. Line loads and stores (R91): what an access changes at its issue, and how that goes with the issue's count-down,
with pushes counted and with results in flight. -/

namespace Sys2Proof

open Sys2Proof.Machine Sys2Proof.Claims

/-! ## Results in flight beside pushes and stores -/

theorem pushPorts_comm_landMany (u : State) (n : Nat) (ps : List Nat) (fl : List Flight) :
    (pushPorts n ps u).landMany n fl = pushPorts n ps (u.landMany n fl) := by
  induction ps generalizing u with
  | nil => rfl
  | cons p ps ih =>
    unfold pushPorts at ih ⊢
    rw [List.foldl_cons, ih, List.foldl_cons]
    congr 1
    unfold State.landMany State.modCtx
    refine State.modCore_comm_of _ _ _ _ fun c => ?_
    simp [Core.setCtx, Core.setPort, Core.port, Core.ctx, Core.inSup]
    split <;> rfl

theorem writeEn_core (u : State) (k b d m n : Nat) : (u.writeEn k b d m).core n = u.core n := rfl

theorem writeEn_tick_landMany (u : State) (n : Nat) (st : FMap W64) (fl : List Flight) (k b d m : Nat) :
    ((u.modCore n (tick st)).landMany n fl).writeEn k b d m = ((u.writeEn k b d m).modCore n (tick st)).landMany n fl := rfl

/-- A step of an issue puts these results into flight, whatever was counted and put there before it. -/
def PutsInFlight (n : Nat) (f : State → State) (inc : List Flight) : Prop :=
  ∀ (u : State) (g : Core → Core) (ps : List Nat) (fl : List Flight),
    f (pushPorts n ps ((u.modCore n g).landMany n fl)) = pushPorts n ps ((u.modCore n g).landMany n (fl ++ inc))

/-- The offset mode adds nothing. -/
theorem putsInFlight_id (n : Nat) : PutsInFlight n id [] := fun u g ps fl => by rw [List.append_nil]; rfl

/-- The post-increment mode adds the new base. -/
theorem putsInFlight_postInc (v : Env) (base : Src) (off : W64) :
    PutsInFlight v.core (postInc v base off) [baseInc v base off] := fun u g ps fl => by
  rw [← landMany_append, ← pushPorts_comm_landMany _ _ _ [baseInc v base off]]
  rfl

/-! ## Line loads -/

/-- A line loaded at a fixed latency is one result in flight, and one push counted if it goes to a port; along an
anti-diagonal it goes to a tile. -/
theorem landLoadLine_eq (v : Env) (u : State) {spec : BitVec 13} {ad : Bool} (had : ad = true → specTile spec = true)
    (en data : Line) :
    landLoadLine v spec ad en data loadLatency u = pushPorts v.core (pushesOf spec)
      (u.landMany v.core [loadRes v (if ad then .antidiag spec en data else lineEff spec en [data]) 6]) := by
  cases ad with
  | true =>
    rw [pushesOf, if_pos (had rfl)]
    rfl
  | false =>
    simp only [landLoadLine, Env.landLines, lineEff, pushesOf, Bool.false_eq_true, if_false]
    cases specTile spec with
    | true => rfl
    | false => cases specWrite spec <;> rfl

/-- A load that is outstanding: the access is recorded, its destination empties, a push of it is counted. -/
theorem outstandingLoad_eq {v : Env} {inc : List Flight} {f : State → State} (hf : PutsInFlight v.core f inc) (u : State)
    (st : FMap W64) (spec : BitVec 13) (acq : Bool) (cells : List RCell) (dst : RDst) (hd : Option Nat) :
    f ((notePush v spec ((u.modCore v.core (tick st)).addAccess v.core v.c .load acq false false true cells dst v.pc
        hd)).modCore v.core (·.emptyDst dst)) =
      pushPorts v.core (pushesOf spec)
        ((((u.addAccess v.core v.c .load acq false false true cells dst v.pc hd).modCore v.core (·.emptyDst dst)).modCore
          v.core (tick st)).landMany v.core inc) := by
  rw [notePush_eq, addAccess_tick, pushPorts_comm_emptyDst, emptyDst_tick]
  have hland := hf ((u.addAccess v.core v.c .load acq false false true cells dst v.pc hd).modCore v.core (·.emptyDst dst))
    (tick st) (pushesOf spec) []
  rwa [landMany_nil, List.nil_append] at hland

/-- The cells of a line load: those of local memory perform at the issue. -/
def loadCells (v : Env) (t : Target) : List RCell :=
  lanes.map (fun i => { newCell (t.key + 4 * i) 4 0 0 0 with
    got := if t.bundled then some (v.s.read (t.key + 4 * i) 4) else none, done := t.bundled })

/-- What a line load to `t` reads, writes, changes and puts into flight, with what its mode adds. -/
def lineLoadTo (v : Env) (t : Target) (o : LineMem) (inc : List Flight) : Effect :=
  { srcs := [srcRef o.base], dsts := [.line o.line 1 o.ad], pushes := pushesOf o.line,
    ready := v.c.inSup = false ∧ inOrder v t false false,
    results := (if t.fixed then
      [loadRes v (if o.ad then .antidiag o.line fullLine (BitVec.ofNat 4096 (v.s.read t.key 512))
        else lineEff o.line fullLine [BitVec.ofNat 4096 (v.s.read t.key 512)]) 6] else []) ++ inc,
    change := fun u =>
      if t.fixed then u
      else (u.addAccess v.core v.c .load (ordAcq o.ord && !t.bundled) false false true (loadCells v t)
        (.line o.line o.ad wholePicks 32 false 0) v.pc t.handle).modCore v.core
          (·.emptyDst (.line o.line o.ad wholePicks 32 false 0)) }

theorem lineLoad_some {v : Env} {a : W64} {o : LineMem} {inc : List Flight} {e : Effect} (he : lineLoad v a o inc = some e) :
    ∃ t, v.lineTarget a = .ok t ∧ e = lineLoadTo v t o inc := by
  unfold lineLoad at he
  cases ht : v.lineTarget a with
  | error k => rw [ht] at he; cases he
  | ok t =>
    rw [ht] at he
    exact ⟨t, rfl, (Option.some.inj he).symm⟩

/-- LDL to `t`: a result of fixed latency, or an access that is outstanding. -/
theorem ldlAct_target {v : Env} {a : W64} {t : Target} (ht : v.lineTarget a = .ok t) (o : LineMem) (u : State) :
    ldlAct v a o u =
      if t.fixed then landLoadLine v o.line o.ad fullLine (BitVec.ofNat 4096 (v.s.read t.key 512)) loadLatency u
      else (notePush v o.line (u.addAccess v.core v.c .load (ordAcq o.ord && !t.bundled) false false true (loadCells v t)
        (.line o.line o.ad wholePicks 32 false 0) v.pc t.handle)).modCore v.core
          (·.emptyDst (.line o.line o.ad wholePicks 32 false 0)) := by
  have hcells : lanes.map (fun i => if t.bundled = true then
      { newCell (t.key + 4 * i) 4 0 0 0 with got := some (v.s.read (t.key + 4 * i) 4), done := true }
      else newCell (t.key + 4 * i) 4 0 0 0) = loadCells v t := by
    rw [loadCells]
    cases t.bundled <;> rfl
  rw [← hcells]
  unfold ldlAct
  rw [ht]

/-- What a line load changes and puts into flight at its issue. -/
theorem ldlAct_eq {v : Env} {a : W64} {t : Target} {o : LineMem} {inc : List Flight} (ht : v.lineTarget a = .ok t)
    (had : o.ad = true → specTile o.line = true) {f : State → State} (hf : PutsInFlight v.core f inc) (u : State)
    (st : FMap W64) :
    f (ldlAct v a o (u.modCore v.core (tick st))) =
      pushPorts v.core (pushesOf o.line) ((((lineLoadTo v t o inc).change u).modCore v.core (tick st)).landMany v.core
        (lineLoadTo v t o inc).results) := by
  rw [ldlAct_target ht]
  cases hfix : t.fixed with
  | true =>
    simp only [lineLoadTo, hfix, if_true]
    rw [landLoadLine_eq v _ had, hf]
  | false =>
    simp only [lineLoadTo, hfix, Bool.false_eq_true, if_false, List.nil_append]
    exact outstandingLoad_eq hf u st _ _ _ _ _

/-- A line load leaves the core's course as it was. -/
theorem lineLoadTo_course (v : Env) (t : Target) (o : LineMem) (inc : List Flight) (u : State) :
    SameCourse (u.core v.core) (((lineLoadTo v t o inc).change u).core v.core) := by
  cases hfix : t.fixed with
  | true =>
    simp only [lineLoadTo, hfix, if_true]
    exact SameCourse.refl _
  | false =>
    simp only [lineLoadTo, hfix, Bool.false_eq_true, if_false]
    exact (addAccess_course ..).trans (emptyDst_course ..)

/-- The tests of a line access that its own conditions pass. -/
theorem lineAccess_tests {v : Env} {a : W64} {t : Target} {rel write : Bool} (ht : v.lineTarget a = .ok t)
    (hready : v.c.inSup = false ∧ inOrder v t rel write) :
    localWait (v.lineTarget a) v.c rel write = false ∧ lineForm v (accessTrap a (v.lineTarget a)) = none := by
  obtain ⟨hmode, horder⟩ := hready
  rw [ht]
  refine ⟨localWait_of _ _ _ _ horder, ?_⟩
  rw [lineForm, hmode]
  rfl

/-- LDL: the address that it gives, and what its mode puts into flight beside the load. -/
def ldlSem (addr : Env → W64) (mode : Env → State → State) (o : LineMem) : OpSem :=
  { srcs := [srcRef o.base], dsts := [.line o.line 1 o.ad], pushes := pushesOf o.line,
    wait := fun v => localWait (v.lineTarget (addr v)) v.c false false,
    check := fun v => lineForm v (accessTrap (addr v) (v.lineTarget (addr v))),
    act := fun v s => mode v (ldlAct v (addr v) o s) }

theorem lineLoad_completes {i : Instr} {h : Hdr} {s : State} {e : Effect} {addr : Env → W64} {mode : Env → State → State}
    {o : LineMem} {inc : List Flight} (hcan : CanIssue i h s) (hm : ModeHas i h s) (hsem : semOf i = ldlSem addr mode o)
    (hmode : PutsInFlight s.turn (mode (seen i h s)) inc) (had : o.ad = true → specTile o.line = true)
    (he : lineLoad (seen i h s) (addr (seen i h s)) o inc = some e)
    (hsrc : SrcsReady (seen i h s).c [] e.srcs) (hdst : DstsReady (seen i h s).c e.dsts e.pushes) (hready : e.ready) :
    ∃ w, Issued s.turn 2 e.results (popsOf e.srcs) e.pushes (e.change (begun i s)) w ∧ exec i s = .next (e.after w) := by
  obtain ⟨t, ht, rfl⟩ := lineLoad_some he
  obtain ⟨hw, hk⟩ := lineAccess_tests ht hready
  have hx : exec i s = issueSlot h i (ldlSem addr mode o) s := hsem ▸ exec_slot (canIssue_hdr hcan) s
  exact completes_with hcan hx (show Flow.plain ≠ Flow.exit by decide) (fun w => rfl) (fun h => by cases h) (fun h => by cases h) rfl rfl rfl
    (ldlAct_eq ht had hmode (begun i s)) (lineLoadTo_course ..) hw hk (slotPrivilege_modeHas hm) hsrc hdst

/-! ## Line stores -/

/-- What a line store to `t` reads and changes, with what its mode puts into flight. -/
def lineStoreTo (v : Env) (t : Target) (o : LineMem) (inc : List Flight) : Effect :=
  let m := (v.c.mask o.mask.toNat).toNat
  let d := (lineMemData o v).toNat
  { srcs := [.line o.line 1 64 o.ad false, srcRef o.base], results := inc,
    ready := v.c.inSup = false ∧ inOrder v t (ordRel o.ord) true,
    change := fun u =>
      if t.bundled then u.writeEn t.key 512 d m
      else u.addAccess v.core v.c .store false (ordRel o.ord) true false
        ((lanes.filter (fun i => m >>> (4 * i) % 16 != 0)).map (fun i =>
          newCell (t.key + 4 * i) 4 (d >>> (32 * i) % 2 ^ 32) (m >>> (4 * i) % 16) 0)) .none v.pc t.handle }

theorem lineStore_some {v : Env} {a : W64} {o : LineMem} {inc : List Flight} {e : Effect}
    (he : lineStore v a o inc = some e) : ∃ t, v.lineTarget a = .ok t ∧ e = lineStoreTo v t o inc := by
  unfold lineStore at he
  cases ht : v.lineTarget a with
  | error k => rw [ht] at he; cases he
  | ok t =>
    rw [ht] at he
    exact ⟨t, rfl, (Option.some.inj he).symm⟩

/-- STL to `t` changes what its statement says. -/
theorem stlStore_target {v : Env} {a : W64} {t : Target} (ht : v.lineTarget a = .ok t) (o : LineMem) (inc : List Flight)
    (u : State) : stlStore v a o u = (lineStoreTo v t o inc).change u := by
  unfold stlStore
  rw [ht]
  rfl

/-- What a line store changes goes with the count-down and with results in flight. -/
theorem lineStoreTo_change (v : Env) (t : Target) (o : LineMem) (inc fl : List Flight) (u : State) (st : FMap W64) :
    (lineStoreTo v t o inc).change ((u.modCore v.core (tick st)).landMany v.core fl) =
      (((lineStoreTo v t o inc).change u).modCore v.core (tick st)).landMany v.core fl := by
  cases hb : t.bundled with
  | true =>
    simp only [lineStoreTo, hb, if_true]
    exact writeEn_tick_landMany ..
  | false =>
    simp only [lineStoreTo, hb, Bool.false_eq_true, if_false]
    rw [landMany_comm_addAccess, addAccess_tick]

/-- A line store leaves the core's course as it was. -/
theorem lineStoreTo_course (v : Env) (t : Target) (o : LineMem) (inc : List Flight) (u : State) :
    SameCourse (u.core v.core) (((lineStoreTo v t o inc).change u).core v.core) := by
  cases hb : t.bundled with
  | true =>
    simp only [lineStoreTo, hb, if_true]
    rw [writeEn_core]
    exact SameCourse.refl _
  | false =>
    simp only [lineStoreTo, hb, Bool.false_eq_true, if_false]
    exact addAccess_course ..

/-- STL: the address that it gives, and what its mode puts into flight before the store. -/
def stlSem (addr : Env → W64) (mode : Env → State → State) (o : LineMem) : OpSem :=
  { srcs := [.line o.line 1 64 o.ad false, srcRef o.base],
    wait := fun v => localWait (v.lineTarget (addr v)) v.c (ordRel o.ord) true,
    check := fun v => lineForm v (accessTrap (addr v) (v.lineTarget (addr v))),
    act := mode, store := fun v s => stlStore v (addr v) o s }

theorem lineStore_completes {i : Instr} {h : Hdr} {s : State} {e : Effect} {addr : Env → W64} {mode : Env → State → State}
    {o : LineMem} {inc : List Flight} (hcan : CanIssue i h s) (hm : ModeHas i h s) (hsem : semOf i = stlSem addr mode o)
    (hmode : PutsInFlight s.turn (mode (seen i h s)) inc)
    (he : lineStore (seen i h s) (addr (seen i h s)) o inc = some e)
    (hsrc : SrcsReady (seen i h s).c [] e.srcs) (hdst : DstsReady (seen i h s).c e.dsts e.pushes) (hready : e.ready) :
    ∃ w, Issued s.turn 2 e.results (popsOf e.srcs) e.pushes (e.change (begun i s)) w ∧ exec i s = .next (e.after w) := by
  obtain ⟨t, ht, rfl⟩ := lineStore_some he
  obtain ⟨hw, hk⟩ := lineAccess_tests ht hready
  have hx : exec i s = issueSlot h i (stlSem addr mode o) s := hsem ▸ exec_slot (canIssue_hdr hcan) s
  have hrun : ∀ st, stlStore (seen i h s) (addr (seen i h s)) o (mode (seen i h s) ((begun i s).modCore s.turn (tick st))) =
      (((lineStoreTo (seen i h s) t o inc).change (begun i s)).modCore s.turn (tick st)).landMany s.turn inc := by
    intro st
    have hland := hmode (begun i s) (tick st) [] []
    rw [landMany_nil, List.nil_append] at hland
    rw [stlStore_target ht o inc]
    exact (congrArg _ hland).trans (lineStoreTo_change (seen i h s) t o inc inc (begun i s) st)
  exact completes_with hcan hx (show Flow.plain ≠ Flow.exit by decide) (fun w => rfl) (fun h => by cases h) (fun h => by cases h) rfl rfl rfl
    hrun (lineStoreTo_course ..) hw hk (slotPrivilege_modeHas hm) hsrc hdst

/-- A well-formed line load along an anti-diagonal goes to a tile (R31, R48). -/
theorem tile_of_antidiag {o : LineMem} {rs : List Nat}
    (hw : rs ++ needSpec (dstSpecOk o.line && (!o.ad || specKind o.line == 2)) = []) (had : o.ad = true) :
    specTile o.line = true := by
  have hspec : (dstSpecOk o.line && (!o.ad || specKind o.line == 2)) = true := by
    by_contra hs
    rw [needSpec, if_neg hs] at hw
    exact absurd (List.append_eq_nil_iff.1 hw).2 (List.cons_ne_nil _ _)
  rw [had] at hspec
  have hkind : specKind o.line = 2 := by simpa using (Bool.and_eq_true_iff.1 hspec).2
  rw [specTile, hkind]
  rfl

/-- Settles O8: each mode is the same access, to which the post-increment mode adds the new base. -/
theorem lineLoadsAndStores : Obligations.LineLoadsAndStores := by
  intro i h s e hcan hm he hsrc hdst hstall hready
  have hw := canIssue_reasons hcan
  cases i
  case ldl h' o =>
    exact lineLoad_completes hcan hm (rfl : _ = ldlSem (lineMemAddr o) (fun _ => id) o) (putsInFlight_id _)
      (tile_of_antidiag hw) he hsrc hdst hready
  case ldlPostinc h' o =>
    exact lineLoad_completes hcan hm (rfl : _ = ldlSem (fun v => v.src o.base) (fun v => postInc v o.base (offset o.off)) o)
      (putsInFlight_postInc _ _ _) (tile_of_antidiag hw) he hsrc hdst hready
  case stl h' o =>
    exact lineStore_completes hcan hm (rfl : _ = stlSem (lineMemAddr o) (fun _ => id) o) (putsInFlight_id _) he hsrc hdst
      hready
  case stlPostinc h' o =>
    exact lineStore_completes hcan hm (rfl : _ = stlSem (fun v => v.src o.base) (fun v => postInc v o.base (offset o.off)) o)
      (putsInFlight_postInc _ _ _) he hsrc hdst hready
  all_goals cases he

end Sys2Proof
end

section
/-! SUPPORT. Scalar operations that only put results into flight (R56 to R71): integers, bit fields, moves, predicates,
FP32. -/

namespace Sys2Proof

open Sys2Proof.Machine Sys2Proof.Claims

/-! ## Operations that only yield results -/

/-- An operation that reads, writes and puts into flight what an effect says, and does nothing else. -/
structure YieldsOnly (sem : OpSem) (v : Env) (e : Effect) : Prop where
  flow     : sem.flow = .plain := by rfl
  delivery : sem.delivery = false := by rfl
  srcs     : sem.srcs = e.srcs := by rfl
  dsts     : sem.dsts = e.dsts := by rfl
  pushes   : sem.pushes = [] := by rfl
  noPushes : e.pushes = [] := by rfl
  change   : e.change = id := by rfl
  after    : e.after = id := by rfl
  act      : ∀ u : State, ∀ f : Core → Core, sem.act v (u.modCore v.core f) = (u.modCore v.core f).landMany v.core e.results
  atom     : ∀ u, sem.atom v u = u := by exact fun _ => rfl
  store    : ∀ u, sem.store v u = u := by exact fun _ => rfl
  wait     : v.x.srStall e.mode = false → sem.wait v = false := by exact fun _ => rfl
  check    : e.ready → sem.check v = none := by exact fun _ => rfl

/-- An operation that only yields results completes. -/
theorem completes_yielding {i : Instr} {h : Hdr} {s : State} {e : Effect} (hcan : CanIssue i h s) (hm : ModeHas i h s)
    (hy : YieldsOnly (semOf i) (seen i h s) e) (hsrc : SrcsReady (seen i h s).c [] e.srcs)
    (hdst : DstsReady (seen i h s).c e.dsts e.pushes) (hst : (seen i h s).x.srStall e.mode = false) (hr : e.ready) :
    ∃ w, Issued s.turn 2 e.results (popsOf e.srcs) e.pushes (e.change (begun i s)) w ∧ exec i s = .next (e.after w) :=
  completes_of hcan (exec_slot (canIssue_hdr hcan) s) hy.flow hy.delivery hy.srcs hy.dsts (hy.pushes.trans hy.noPushes.symm)
    hy.change hy.after (fun u f => by rw [hy.noPushes]; exact hy.act u f) hy.atom hy.store (hy.wait hst) (hy.check hr)
    (slotPrivilege_modeHas hm) hsrc hdst

/-- A table of operations that only yield results. -/
theorem completes_of_yields {effect : Env → Instr → Option Effect}
    (hy : ∀ v i e, effect v i = some e → YieldsOnly (semOf i) v e) : Completes effect := by
  intro i h s e hcan hm he hsrc hdst hst hr
  exact completes_yielding hcan hm (hy _ _ _ he) hsrc hdst hst hr

/-- An operation whose results are put into flight one after another. -/
theorem foldl_land (n : Nat) (fl : List Flight) (u : State) (f : Core → Core) :
    fl.foldl (fun s r => s.land n r) (u.modCore n f) = (u.modCore n f).landMany n fl := by
  induction fl generalizing u f with
  | nil => exact (landMany_nil u n f).symm
  | cons r rs ih =>
    rw [List.foldl_cons, State.land, State.modCtx, State.modCore_modCore, ih, show r :: rs = [r] ++ rs from rfl, ← landMany_append]
    simp only [State.landMany, State.modCtx, State.modCore_modCore]

theorem aluR_yields (o : RR) (l : Nat) (f : W64 → W64 → W64) (v : Env) :
    YieldsOnly (aluR o l f) v (toReg v [o.a, o.b] o.d l (f (v.src o.a) (v.src o.b))) :=
  { act := fun _ _ => rfl }

theorem aluI_yields (o : RI) (l : Nat) (f : W64 → W64 → W64) (v : Env) :
    YieldsOnly (aluI o l f) v (toReg v [o.a] o.d l (f (v.src o.a) (o.imm.signExtend 64))) :=
  { act := fun _ _ => rfl }

theorem alu1_yields (o : R1) (l : Nat) (f : W64 → W64) (v : Env) :
    YieldsOnly (alu1 o l f) v (toReg v [o.a] o.d l (f (v.src o.a))) :=
  { act := fun _ _ => rfl }

theorem alu3_yields (o : R3) (f : W64 → W64 → W64 → W64) (v : Env) :
    YieldsOnly (alu3 o f) v (toReg v [o.a, o.b, o.c] o.d 1 (f (v.src o.a) (v.src o.b) (v.src o.c))) :=
  { act := fun _ _ => rfl }

/-! ## Integer operations (R59, R60) -/

/-- The two halves of a rotation make the rotation. -/
theorem rotateL_eq (a b : W64) : rotateL a b = a.rotateLeft (b.toNat % 64) := by
  rw [rotateL, shiftCount, BitVec.rotateLeft_def, Nat.mod_mod]

/-- An integer operation has the form of two registers or that of a register and an immediate. -/
theorem intEffect_yields (v : Env) (i : Instr) (e : Effect) (he : intEffect v i = some e) : YieldsOnly (semOf i) v e := by
  cases i
  case rol h o =>
    obtain rfl := Option.some.inj he
    rw [← rotateL_eq]
    exact aluR_yields o 1 rotateL v
  case rolImm h o =>
    obtain rfl := Option.some.inj he
    rw [← rotateL_eq]
    exact aluI_yields o 1 rotateL v
  case add h o | sub h o | mul h o | mulh h o | mulhz h o | div h o | divz h o | rem h o | remz h o | and h o | or h o
      | xor h o | andn h o | shl h o | shr h o | sar h o | min h o | max h o | minz h o | maxz h o =>
    obtain rfl := Option.some.inj he
    exact aluR_yields o _ _ v
  case addImm h o | subImm h o | mulImm h o | mulhImm h o | mulhzImm h o | divImm h o | divzImm h o | remImm h o
      | remzImm h o | andImm h o | orImm h o | xorImm h o | andnImm h o | shlImm h o | shrImm h o | sarImm h o | minImm h o
      | maxImm h o | minzImm h o | maxzImm h o =>
    obtain rfl := Option.some.inj he
    exact aluI_yields o _ _ v
  all_goals cases he

/-- Settles O2: every integer operation only yields the result that its table gives. -/
theorem integerResults : Obligations.IntegerResults := completes_of_yields intEffect_yields

/-! ## Bit fields, moves, predicates (R59, R61 to R65, R71) -/

/-- Leading zeros of a word. -/
theorem leadingZeros_64 (a : W64) : leadingZeros 64 a.toNat = if a = 0 then 64 else 63 - Nat.log2 a.toNat := by
  simp only [leadingZeros, ← BitVec.toNat_inj, BitVec.ofNat_eq_ofNat, BitVec.toNat_ofNat, Nat.zero_mod]

/-- The sign extension of a field is that of the field's own word. -/
theorem signExt_eq_toInt (x w : Nat) (hw : 0 < w) : Num.signExt x w = (BitVec.ofNat w x).toInt := by
  rw [Num.signExt, if_neg (by omega), BitVec.toInt_eq_toNat_cond, BitVec.toNat_ofNat]
  obtain ⟨k, rfl⟩ : ∃ k, w = k + 1 := ⟨w - 1, by omega⟩
  have h2 : 2 ^ (k + 1) = 2 * 2 ^ k := by rw [pow_succ]; omega
  simp only [Nat.add_sub_cancel]
  split <;> split <;> first | rfl | omega

/-- The field that is extracted, as a word of its own width. -/
theorem extractField_eq (o : Bf) (a : W64) :
    extractField o a = ((a >>> o.pos.toNat).setWidth (fieldWidth o.pos o.wm1)).toNat := by
  rw [BitVec.toNat_setWidth, BitVec.toNat_ushiftRight, extractField]

theorem fieldWidth_pos (pos wm1 : BitVec 6) : 0 < fieldWidth pos wm1 := by
  have := pos.isLt
  rw [fieldWidth]; omega

/-- BFXZ: the field zero-extended. -/
theorem ofNat_extractField (o : Bf) (a : W64) : BitVec.ofNat 64 (extractField o a) =
    ((a >>> o.pos.toNat).setWidth (min (o.wm1.toNat + 1) (64 - o.pos.toNat))).setWidth 64 := by
  rw [extractField_eq, BitVec.ofNat_toNat, fieldWidth]

/-- BFX: the field sign-extended. -/
theorem ofInt_signExt_extractField (o : Bf) (a : W64) :
    BitVec.ofInt 64 (Num.signExt (extractField o a) (fieldWidth o.pos o.wm1)) =
      ((a >>> o.pos.toNat).setWidth (min (o.wm1.toNat + 1) (64 - o.pos.toNat))).signExtend 64 := by
  rw [signExt_eq_toInt _ _ (fieldWidth_pos _ _), extractField_eq, BitVec.ofNat_toNat, BitVec.setWidth_eq, fieldWidth]
  rfl

/-- A bit count, a bit field, a selection, a move or a special-register read. -/
theorem moveEffect_yields (v : Env) (i : Instr) (e : Effect) (he : moveEffect v i = some e) : YieldsOnly (semOf i) v e := by
  cases i
  case clz h o =>
    obtain rfl := Option.some.inj he
    rw [← leadingZeros_64]
    exact alu1_yields o 1 (fun a => BitVec.ofNat 64 (leadingZeros 64 a.toNat)) v
  case ctz h o =>
    obtain rfl := Option.some.inj he
    exact alu1_yields o 1 (fun a => BitVec.ofNat 64 (trailingZeros a.toNat)) v
  case popc h o =>
    obtain rfl := Option.some.inj he
    exact alu1_yields o 1 (fun a => BitVec.ofNat 64 (setBits 64 a.toNat)) v
  case bfx h o =>
    obtain rfl := Option.some.inj he
    rw [← ofInt_signExt_extractField]
    exact alu1_yields ⟨o.d, o.a⟩ 1 (fun a => BitVec.ofInt 64 (Num.signExt (extractField o a) (fieldWidth o.pos o.wm1))) v
  case bfxz h o =>
    obtain rfl := Option.some.inj he
    rw [← ofNat_extractField]
    exact alu1_yields ⟨o.d, o.a⟩ 1 (fun a => BitVec.ofNat 64 (extractField o a)) v
  case bfi h o =>
    obtain rfl := Option.some.inj he
    exact aluR_yields ⟨o.d, o.a, o.b⟩ 1 _ v
  case fshl h o =>
    obtain rfl := Option.some.inj he
    exact alu3_yields o (fun a b c => (concat128 a b <<< shiftCount c).extractLsb' 64 64) v
  case fshr h o =>
    obtain rfl := Option.some.inj he
    exact alu3_yields o (fun a b c => (concat128 a b >>> shiftCount c).extractLsb' 0 64) v
  case sel h o | selImm h o | movi h o | movhi h o | rdsr h o =>
    obtain rfl := Option.some.inj he
    exact { act := fun _ _ => rfl }
  all_goals cases he

theorem cmpR_yields (o : CmpR) (f : W64 → W64 → Bool) (v : Env) :
    YieldsOnly (cmpR o f) v (toPred v [o.a, o.b] o.pd 1 (f (v.src o.a) (v.src o.b))) :=
  { act := fun _ _ => rfl }

theorem cmpI_yields (o : CmpI) (f : W64 → W64 → Bool) (v : Env) :
    YieldsOnly (cmpI o f) v (toPred v [o.a] o.pd 1 (f (v.src o.a) (o.imm.signExtend 64))) :=
  { act := fun _ _ => rfl }

theorem predOp_yields (o : PredOp) (f : Bool → Bool → Bool) (v : Env) : YieldsOnly (predOp o f) v
    (toPred v [] o.pd 1 (f (v.x.pred o.pa.toNat != o.na) (v.x.pred o.pb.toNat != o.nb))) :=
  { act := fun _ _ => rfl }

/-- PSET puts its predicates into flight in the order of their numbers. -/
theorem semPset_act (o : PsetOp) (v : Env) (u : State) (f : Core → Core) : (semPset o).act v (u.modCore v.core f) =
    (u.modCore v.core f).landMany v.core ((psetTargets o.imm).map (fun k => res v (.pred k (o.imm.getLsbD k)) 1)) := by
  rw [← foldl_land, List.foldl_map]
  refine List.foldl_ext _ _ _ fun s k hk => ?_
  have h16 : k < 16 := List.mem_range.1 (List.mem_filter.1 hk).1
  rw [Env.landPred, BitVec.toNat_ofNat, Nat.mod_eq_of_lt h16]
  rfl

/-- A compare or a predicate operation. -/
theorem predEffect_yields (v : Env) (i : Instr) (e : Effect) (he : predEffect v i = some e) : YieldsOnly (semOf i) v e := by
  cases i
  case cmpeq h o | cmpne h o | cmplt h o | cmple h o | cmpltz h o | cmplez h o =>
    obtain rfl := Option.some.inj he
    exact cmpR_yields o _ v
  case cmpeqImm h o | cmpneImm h o | cmpltImm h o | cmpleImm h o | cmpltzImm h o | cmplezImm h o =>
    obtain rfl := Option.some.inj he
    exact cmpI_yields o _ v
  case pand h o | por h o | pxor h o =>
    obtain rfl := Option.some.inj he
    exact predOp_yields o _ v
  case pandn h o =>
    obtain rfl := Option.some.inj he
    exact predOp_yields o (fun x y => x && !y) v
  case pset h o =>
    obtain rfl := Option.some.inj he
    exact { act := semPset_act o v }
  all_goals cases he

/-- Settles O3: both tables hold operations that only yield results. -/
theorem movesAndPredicates : Obligations.MovesAndPredicates :=
  ⟨completes_of_yields moveEffect_yields, completes_of_yields predEffect_yields⟩

/-! ## FP32 (R66 to R70) -/

theorem fpR_yields (o : FpR) (l : Nat) (f : Num.Rnd → Nat → Nat → Nat × Nat) (v : Env) : YieldsOnly (fpR o l f) v
    (toRegF v [o.a, o.b] o.d l o.rm (f (scalarRound v o.rm) (low32 (v.src o.a)) (low32 (v.src o.b)))) :=
  { act := fun _ _ => rfl, wait := id }

theorem fpI_yields (o : FpI) (l : Nat) (f : Num.Rnd → Nat → Nat → Nat × Nat) (v : Env) : YieldsOnly (fpI o l f) v
    (toRegF v [o.a] o.d l o.rm (f (scalarRound v o.rm) (low32 (v.src o.a)) o.imm.toNat)) :=
  { act := fun _ _ => rfl, wait := id }

theorem fcmpR_yields (o : FcmpR) (c : Num.Cmp) (v : Env) : YieldsOnly (fcmpR o c) v
    (toPred v [o.a, o.b] o.pd 2 (Num.fcmp c (f32Of v o.a) (f32Of v o.b)).1 (Num.fcmp c (f32Of v o.a) (f32Of v o.b)).2) :=
  { act := fun _ _ => rfl }

theorem fcmpI_yields (o : FcmpI) (c : Num.Cmp) (v : Env) : YieldsOnly (fcmpI o c) v
    (toPred v [o.a] o.pd 2 (Num.fcmp c (f32Of v o.a) (Num.f32.val o.imm.toNat)).1
      (Num.fcmp c (f32Of v o.a) (Num.f32.val o.imm.toNat)).2) :=
  { act := fun _ _ => rfl }

/-- The limits of a conversion, one by one. -/
theorem cvtRange_eq (o : Fcvt) : let n := if o.wide then 64 else 32
    cvtRange o = (if Num.tySigned o.ty then -(2 ^ (n - 1)) else 0, if Num.tySigned o.ty then 2 ^ (n - 1) - 1 else 2 ^ n - 1) := by
  simp only [cvtRange]
  split <;> rfl

/-- An FP32 operation, a compare or a conversion. -/
theorem fpEffect_yields (v : Env) (i : Instr) (e : Effect) (he : fpEffect v i = some e) : YieldsOnly (semOf i) v e := by
  cases i
  case fadd h o => obtain rfl := Option.some.inj he; exact fpR_yields o 4 fpAdd v
  case fsub h o => obtain rfl := Option.some.inj he; exact fpR_yields o 4 fpSub v
  case fmul h o => obtain rfl := Option.some.inj he; exact fpR_yields o 4 fpMul v
  case fmin h o => obtain rfl := Option.some.inj he; exact fpR_yields o 2 fpMin v
  case fmax h o => obtain rfl := Option.some.inj he; exact fpR_yields o 2 fpMax v
  case faddImm h o => obtain rfl := Option.some.inj he; exact fpI_yields o 4 fpAdd v
  case fsubImm h o => obtain rfl := Option.some.inj he; exact fpI_yields o 4 fpSub v
  case fmulImm h o => obtain rfl := Option.some.inj he; exact fpI_yields o 4 fpMul v
  case fminImm h o => obtain rfl := Option.some.inj he; exact fpI_yields o 2 fpMin v
  case fmaxImm h o => obtain rfl := Option.some.inj he; exact fpI_yields o 2 fpMax v
  case fcmpeq h o | fcmplt h o | fcmple h o =>
    obtain rfl := Option.some.inj he
    exact fcmpR_yields o _ v
  case fcmpeqImm h o | fcmpltImm h o | fcmpleImm h o =>
    obtain rfl := Option.some.inj he
    exact fcmpI_yields o _ v
  case fma h o | fcvtf h o =>
    obtain rfl := Option.some.inj he
    exact { act := fun _ _ => rfl, wait := id }
  case fcvti h o =>
    obtain rfl := Option.some.inj he
    have hy : YieldsOnly (semFcvti o) v
      { srcs := [srcRef o.a], dsts := [.reg o.d.toNat], mode := o.rm.toNat,
        results := [res v (.sreg o.d.toNat (BitVec.ofInt 64 (Num.toInt (cvtRange o).1 (cvtRange o).2 (scalarRound v o.rm)
          (f32Of v o.a)).1)) 4 (Num.toInt (cvtRange o).1 (cvtRange o).2 (scalarRound v o.rm) (f32Of v o.a)).2] } :=
      { act := fun _ _ => rfl, wait := id }
    rw [cvtRange_eq] at hy
    exact hy
  all_goals cases he

end Sys2Proof
end

section
/-! SUPPORT. What no landing touches of a core (R7, R186). -/

namespace Sys2Proof

open Sys2Proof.Machine Sys2Proof.Claims

/-! ## What landings leave as it was -/

/-- What landings leave of a context: all but registers, predicates, special registers and what is in flight or awaited. -/
def CtxLandFrame (x y : Ctx) : Prop :=
  { y with s := x.s, p := x.p, sr := x.sr, flight := x.flight, landed := x.landed, vars := x.vars } = x

/-- What landings leave of a core: all but masks, tiles, ports, the array and the context the core is in. -/
def LandFrame (c d : Core) : Prop :=
  { d with prog := c.prog, sup := c.sup, k := c.k, tiles := c.tiles, ports := c.ports, arr := c.arr } = c ∧
  (if c.inSup then d.prog = c.prog else d.sup = c.sup) ∧ CtxLandFrame c.ctx d.ctx

theorem CtxLandFrame.trans {x y z : Ctx} (h : CtxLandFrame x y) (g : CtxLandFrame y z) : CtxLandFrame x z := by
  have := congrArg (fun w : Ctx =>
    { w with s := x.s, p := x.p, sr := x.sr, flight := x.flight, landed := x.landed, vars := x.vars }) g
  exact this.trans h

theorem LandFrame.inSup {c d : Core} (h : LandFrame c d) : d.inSup = c.inSup := by
  have := congrArg Core.inSup h.1
  exact this

theorem LandFrame.refl (c : Core) : LandFrame c c := ⟨rfl, by split <;> rfl, rfl⟩

theorem LandFrame.trans {c d e : Core} (h : LandFrame c d) (g : LandFrame d e) : LandFrame c e := by
  refine ⟨?_, ?_, h.2.2.trans g.2.2⟩
  · have := congrArg (fun w : Core =>
      { w with prog := c.prog, sup := c.sup, k := c.k, tiles := c.tiles, ports := c.ports, arr := c.arr }) g.1
    exact this.trans h.1
  · have h2 := h.2.1
    have g2 := g.2.1
    rw [h.inSup] at g2
    cases hs : c.inSup <;> simp only [hs, if_true, Bool.false_eq_true, if_false] at h2 g2 ⊢ <;> exact g2.trans h2

/-- A landing that changes the core's context alone. -/
theorem landFrame_setCtx {c : Core} {y : Ctx} (h : CtxLandFrame c.ctx y) : LandFrame c (c.setCtx y) := by
  refine ⟨?_, ?_, by rw [Core.ctx_setCtx]; exact h⟩
  · unfold Core.setCtx; split <;> rfl
  · unfold Core.setCtx; split <;> rfl

/-- A landing that changes masks, tiles, ports or the array. -/
theorem landFrame_of_ctx {c d : Core}
    (h : { d with k := c.k, tiles := c.tiles, ports := c.ports, arr := c.arr } = c) : LandFrame c d := by
  have hp : d.prog = c.prog := congrArg (·.prog) h
  have hs : d.sup = c.sup := congrArg (·.sup) h
  have hi : d.inSup = c.inSup := by
    have hm : d.mode = c.mode := congrArg (·.mode) h
    unfold Core.inSup
    rw [hm]
  refine ⟨?_, by split <;> assumption, ?_⟩
  · have := congrArg (fun w : Core => { w with prog := c.prog, sup := c.sup }) h
    exact this
  · rw [show d.ctx = c.ctx by unfold Core.ctx; rw [hi, hp, hs]]
    rfl

theorem landEff_frame (c : Core) (e : Eff) : LandFrame c (c.landEff e) := by
  cases e with
  | void => exact .refl c
  | sreg r v => exact landFrame_setCtx (by unfold Ctx.setSreg; split <;> rfl)
  | pred p v => exact landFrame_setCtx (by unfold Ctx.setPred; split <;> rfl)
  | mask k v en => exact landFrame_of_ctx (by simp only [Core.landEff, Core.setMask]; split <;> rfl)
  | lines spec en data => exact landFrame_of_ctx rfl
  | antidiag spec en data => exact landFrame_of_ctx rfl
  | special n v => exact landFrame_setCtx rfl
  | tclr m => exact landFrame_setCtx rfl
  | push p l => exact landFrame_of_ctx (by simp only [Core.landEff]; split <;> rfl)
  | beat b => exact landFrame_of_ctx rfl

theorem landList_frame (fs : List Flight) (c : Core) (a b : Nat) : LandFrame c (c.landList fs a b).1 := by
  induction fs generalizing c a b with
  | nil => exact .refl c
  | cons f fs ih => exact (landEff_frame c f.eff).trans (ih _ _ _)

theorem ctxLandFrame_flags (x : Ctx) (a b : Nat) : CtxLandFrame x ((x.orFlags a).orAcc b) := by
  unfold Ctx.orFlags Ctx.orAcc
  split <;> split <;> rfl

/-- What lands at an issue leaves the frame. -/
theorem landDue_frame (c : Core) : LandFrame c c.landDue := by
  unfold Core.landDue
  simp only
  split
  · exact .refl c
  · refine LandFrame.trans (landFrame_setCtx ?_) (LandFrame.trans (landList_frame _ _ _ _) (landFrame_setCtx ?_))
    · rfl
    · exact ctxLandFrame_flags _ _ _

/-! ## What an operation sees of the core -/

/-- The core as an issue begins. -/
theorem begun_core (i : Instr) (s : State) : (begun i s).core s.turn =
    ((s.core s.turn).setCtx { (s.core s.turn).ctx with cur := some (soloBundle i) }).landDue := by
  rw [begun, State.core_modCore_same, State.core_modCtx_same]

/-- The repetition and the bundle under way, as an operation sees them. -/
theorem seen_rep_cur (i : Instr) (h : Hdr) (s : State) :
    (seen i h s).x.rep = (s.ctx s.turn).rep ∧ (seen i h s).x.cur = some (soloBundle i) := by
  have hx : (seen i h s).x = ((begun i s).core s.turn).ctx := rfl
  have hf := (landDue_frame ((s.core s.turn).setCtx { (s.core s.turn).ctx with cur := some (soloBundle i) })).2.2
  rw [← begun_core, Core.ctx_setCtx, ← hx] at hf
  have hrep : (seen i h s).x.rep = (s.core s.turn).ctx.rep := congrArg (·.rep) hf
  have hcur : (seen i h s).x.cur = some (soloBundle i) := congrArg (·.cur) hf
  exact ⟨hrep, hcur⟩

/-- A bundle that holds one operation alone is in its last repetition from the first on. -/
theorem seen_lastRep (i : Instr) (h : Hdr) (s : State) : (seen i h s).lastRep = true := by
  rw [Env.lastRep, (seen_rep_cur i h s).2]
  simp [soloBundle_rep]

end Sys2Proof
end

section
/-! SUPPORT. Where a result for trapcause lands (R71, R74, R186). -/

namespace Sys2Proof

open Sys2Proof.Machine Sys2Proof.Claims

/-- A result that writes every bit of trapcause, due now. -/
def causeResult : Flight := ⟨.special SR.trapcause (BitVec.allOnes 64), 0, 0, false, 0, none⟩

/-- A core in program mode in which nothing else is in flight. -/
def causeCore : Core := { Core.start with mode := .program, prog := { Core.start.prog with flight := [causeResult] } }

/-- The register keeps the 22 bits of its fields. -/
theorem causeCore_lands : causeCore.landDue.ctx.spec SR.trapcause = 0x3FFFFF := by decide

/-- The claim has the register keep the whole word. -/
theorem causeCore_claimed : specWritten SR.trapcause causeResult = some (BitVec.allOnes 64) := by decide

/-- The result is the only one due. -/
theorem causeCore_due : dueResults causeCore = [causeResult] := by rfl

/-- Refutes O34: a result for trapcause lands cut to the 22 bits of R74's fields, where the statement, whose list of reserved
bits leaves trapcause out, has the whole word land. -/
theorem not_resultsLand : ¬ Obligations.ResultsLand := by
  rintro ⟨h, -⟩
  obtain ⟨-, -, -, -, -, hothers, -⟩ := h causeCore 1 (by decide)
  obtain ⟨-, -, -, hspec, -⟩ := hothers
  have hlast : LandsLast causeCore (fun g => (specWritten SR.trapcause g).isSome) causeResult := by
    rw [LandsLast, causeCore_due]
    exact ⟨List.mem_singleton_self _, fun g hg _ => .inl (List.mem_singleton.1 hg)⟩
  have := (hspec SR.trapcause (by decide)).2 _ _ hlast causeCore_claimed
  rw [causeCore_lands] at this
  exact absurd this (by decide)

end Sys2Proof
end

section
/-! SUPPORT. A loop-stack image in a memory that lists a byte twice (R4, R82). -/

namespace Sys2Proof

open Sys2Proof.Machine Sys2Proof.Claims

/-- Core 0 in program mode, and a memory that is not canonical: byte 151 of its unit scratchpad is listed twice, each time
as 0x80, so that a read of the eight bytes from 144 on comes to 2^64. -/
def twiceListed : State :=
  { State.reset with
    cores := [(0, { Core.start with mode := .program })], mem := [(unitKey 0 + 151, 0x80), (unitKey 0 + 151, 0x80)] }

/-- The header of slot 8, guarded by p0. -/
def loadHdr : Hdr := ⟨8, false, 0⟩

/-- LLOAD of the image at address 0. -/
def loadAtZero : Instr := .lload loadHdr ⟨⟨0, false⟩, 0⟩

theorem loadAtZero_canIssue : CanIssue loadAtZero loadHdr twiceListed :=
  ⟨by decide, by decide, ⟨by decide, by decide, by decide⟩, by decide, by decide⟩

/-- Whether core 0 has entered its trap handler. -/
def handling (o : Host.Outcome State Fault Refusal) : Bool :=
  match o with
  | .next t => (t.core 0).progBank.isSome
  | _ => false

/-- The image's last word, read alone, is above six. -/
theorem twiceListed_depth : 6 < twiceListed.read (unitKey 0 + 144) 8 := by decide +kernel

/-- As a word of the image it is 0: LLOAD completes. -/
theorem loadAtZero_completes : handling (exec loadAtZero twiceListed) = false := by decide +kernel

/-- The trap of LOVF with NUM 2 would have entered the handler. -/
theorem depthTrap_handles : handling (.next ((begun loadAtZero twiceListed).trap twiceListed.turn ⟨1, 2, false, 0⟩
    (twiceListed.ctx twiceListed.turn).pc (twiceListed.ctx twiceListed.turn).rep)) = true := by decide +kernel

/-- Refutes O5: where memory lists a byte twice, a read of the depth alone can come to 2^64 while the depth that LLOAD takes
out of its image is 0; the statement has no premise that memory is canonical. -/
theorem not_specialRegisterWrites : ¬ Obligations.SpecialRegisterWrites := by
  rintro ⟨-, h⟩
  obtain ⟨-, -, hload⟩ := h loadAtZero loadHdr twiceListed loadAtZero_canIssue
  have htrap := hload loadHdr ⟨⟨0, false⟩, 0⟩ ⟨unitKey 0, true, true, none⟩ rfl
    ⟨by decide, nofun, trivial⟩ ⟨by decide, trivial⟩ (by rfl) (by exact twiceListed_depth)
  have hnot := loadAtZero_completes
  rw [htrap, depthTrap_handles] at hnot
  exact absurd hnot (by decide)

end Sys2Proof
end

section
/-! SUPPORT. The privilege traps of program mode (R73, R81, R83, R192), and what EXIT does (R179). -/

namespace Sys2Proof

open Sys2Proof.Machine Sys2Proof.Claims

/-! ## Privilege -/

/-- Program mode has every operation. -/
theorem modeHas_of_program {i : Instr} {h : Hdr} {s : State} (hs : (s.core s.turn).inSup = false) : ModeHas i h s :=
  fun hsup => absurd hsup (by rw [hs]; decide)

/-- In program mode an operation without destinations whose sources are ready and whose wait is met takes the trap of its own
check. -/
theorem traps_of_check {i : Instr} {h : Hdr} {s : State} {srcs : List SrcRef} {t : Trap} (hcan : CanIssue i h s)
    (hsup : (s.core s.turn).inSup = false) (hdel : (semOf i).delivery = false) (hsrcs : (semOf i).srcs = srcs)
    (hdsts : (semOf i).dsts = []) (hpushes : (semOf i).pushes = []) (hready : SrcsReady (seen i h s).c [] srcs)
    (hw : (semOf i).wait (seen i h s) = false) (hk : (semOf i).check (seen i h s) = some t) : TrapsAs i s t := by
  refine traps_of hcan (exec_slot (canIssue_hdr hcan) s) (fun hd => ?_) (fun fe => ?_) (fun d hd => ?_) (fun p hp => ?_) hw
    (slotPrivilege_modeHas (modeHas_of_program hsup)) ?_
  · rw [hdel] at hd; cases hd
  · rw [hsrcs]; exact firstEmpty_ready _ fe _ _ 0 hready
  · rw [hdsts] at hd; cases hd
  · rw [hpushes] at hp; cases hp
  · simp only [opCheck, hk]

/-- Settles O37: the operation's own check fails, and it is the only one that does. -/
theorem programModePrivilege : Obligations.ProgramModePrivilege := by
  intro i h s num hcan hsup hi
  have hsup' : (seen i h s).c.inSup = false := (seen_inSup i h s).trans hsup
  cases i
  case wrsr h' o =>
    obtain ⟨hready, hro, rfl⟩ := hi
    refine traps_of_check hcan hsup rfl rfl rfl rfl hready rfl ?_
    exact if_pos (by rw [hro, hsup']; rfl)
  case svsave h' o =>
    obtain ⟨hready, rfl⟩ := hi
    refine traps_of_check hcan hsup rfl rfl rfl rfl hready ?_ ?_
    · show ((seen (.svsave h' o) h s).c.inSup && _ && _) = false
      rw [hsup', Bool.false_and, Bool.false_and]
    · exact if_neg (by rw [hsup']; decide)
  case svload h' o =>
    obtain ⟨hready, rfl⟩ := hi
    refine traps_of_check hcan hsup rfl rfl rfl rfl hready rfl ?_
    exact if_neg (by rw [hsup']; decide)
  case reti h' =>
    obtain ⟨-, hbank, rfl⟩ := hi
    refine traps_of_check hcan hsup rfl rfl rfl rfl trivial ?_ ?_
    · show ((seen (.reti h') h s).c.inSup && _ && _) = false
      rw [hsup', Bool.false_and, Bool.false_and]
    · exact if_pos (by rw [hsup', seen_lastRep, hbank]; rfl)
  all_goals exact hi.elim

/-! ## EXIT -/

/-- What EXIT leaves of its core: the results in flight come nearer, the issue is counted, and the core is exiting. -/
def exitCore (b : Bundle) (rep : Nat) (c : Core) : Core :=
  { (tick (stickyAt b rep c.ctx.sticky) c).countIssue with mode := .exiting }

/-- The issue of EXIT where its tests pass: neither the branch resolution nor the loop-end test is made. -/
theorem issueOps_exit {n : Nat} {b : Bundle} {a : Active} {s0 : State} {v : Env}
    (hv : v = { core := n, slot := a.slot.val, word := a.word, s := s0.modCore n Core.landDue, pc := (s0.ctx n).pc,
                popped := [], pushed := [] })
    (hfull : (s0.core n).landFull = false) (hg : guardTrue v.x a.word = true)
    (hd : v.x.spec SR.fpflags &&& v.x.spec SR.fpenable = 0) (he : findEmptyTrap [(a, v)] = none)
    (hs : opStalls a v = false) (hc : findCheck [(a, v)] = none) (hsem : a.sem = semExit) :
    issueOps n b [a] noBranch s0 = v.s.modCore n (exitCore b (s0.ctx n).rep) := by
  have hx : v.x = ((s0.modCore n Core.landDue).core n).ctx := by rw [hv]; rfl
  have hflow : (Flow.exit == Flow.exit) = true := rfl
  have hstep : (Flow.exit == Flow.step) = false := rfl
  have hcopy : ∀ (t : State) (f : Core → Core), (t.modCore n f).modCtx n (fun x => x) = t.modCore n f := fun t f => by
    rw [State.modCtx, State.modCore_modCore]
    simp only [Core.setCtx_ctx]
  rw [hx] at hg hd
  have hact : ∀ (w : Env) (t : State), a.sem.act w t = t := fun w t => by rw [hsem]; rfl
  have hatom : ∀ (w : Env) (t : State), a.sem.atom w t = t := fun w t => by rw [hsem]; rfl
  have hstore : ∀ (w : Env) (t : State), a.sem.store w t = t := fun w t => by rw [hsem]; rfl
  have hsrcs : a.sem.srcs = [] := by rw [hsem]; rfl
  have hfl : a.sem.flow = .exit := by rw [hsem]; rfl
  unfold issueOps
  rw [if_neg (by simp [hfull])]
  simp only [List.filter_cons, List.filter_nil, hg, if_true, envs]
  rw [← hv]
  simp only [List.any_cons, List.any_nil, Bool.or_false, he, hs, hc, hflow, hstep, Bool.not_true, Bool.and_false,
    Bool.false_and, List.flatMap_cons, List.flatMap_nil, List.append_nil, runPhase, List.foldl_cons, List.foldl_nil, hd,
    ne_eq, not_true_eq_false, false_and, and_false, Bool.false_eq_true, if_false, if_true, hact, hatom, hstore, hsrcs, hfl,
    popsOf, List.filterMap_nil, popPorts, finishFlow]
  rw [hcopy, State.modCore_modCore, hcopy, State.modCore_modCore]
  rw [hv]
  rfl

/-- EXIT where no flag is due. -/
theorem exec_exit {h : Hdr} {s : State} (hcan : CanIssue (.exit h) h s) (hsup : (s.core s.turn).inSup = false)
    (hdue : flagsDue (seen (.exit h) h s) = 0) : exec (.exit h) s =
      .next ((begun (.exit h) s).modCore s.turn (exitCore (soloBundle (.exit h)) (s.ctx s.turn).rep)) := by
  have hp := slotPrivilege_modeHas (modeHas_of_program (i := .exit h) (h := h) hsup)
  have hcheck : semExit.check (seen (.exit h) h s) = none := if_neg (by rw [seen_inSup, hsup]; decide)
  obtain ⟨he, hs, hc⟩ := ready_tests (i := .exit h) (h := h) (s := s) (sem := semExit) trivial nofun nofun rfl hcheck hp
  obtain ⟨hrun, hfull, -, hi, hg⟩ := hcan
  have hrep : ((s.modCtx s.turn (fun x => { x with cur := some (soloBundle (.exit h)) })).ctx s.turn).rep =
      (s.ctx s.turn).rep := by simp [State.ctx]
  rw [exec_slot hi, issueSlot, issueBundle, if_pos hrun, show semOf (.exit h) = semExit from rfl,
    issueOps_exit (v := seen (.exit h) h s) (by simp [seen, begun, State.ctx]) (by rw [landFull_under_way, hfull])
      (by rw [guardTrue_encode _ h hi]; show (((begun (.exit h) s).ctx s.turn).pred h.pred.toNat != h.neg) = true
          rw [hg]; cases h.neg <;> rfl) hdue he hs hc rfl, hrep]
  rfl

/-- Settles O26: the core of an EXIT is the core as the issue begins, counted and exiting. -/
theorem exitStopsTheCore : Obligations.ExitStopsTheCore := by
  intro h s hcan hsup hdue
  refine ⟨_, exec_exit hcan hsup hdue, rfl, fun m hm => ?_, ?_⟩
  · rw [State.core_modCore_ne _ _ _ _ hm, begun, State.core_modCore_ne _ _ _ _ hm, State.core_modCtx_ne _ _ _ _ hm]
  · simp only [State.core_modCore_same]
    have hc : ((begun (.exit h) s).core s.turn).inSup = false := (seen_inSup (.exit h) h s).trans hsup
    generalize (begun (.exit h) s).core s.turn = c at hc ⊢
    generalize hst : stickyAt (soloBundle (.exit h)) (s.ctx s.turn).rep c.ctx.sticky = st
    have ht : tick st c = { c with prog := { c.prog.countDown with sticky := st } } := by
      simp only [tick, Core.setCtx, Core.ctx, hc, Bool.false_eq_true, if_false]
    have hd : exitCore (soloBundle (.exit h)) (s.ctx s.turn).rep c = { c with
        mode := .exiting,
        prog := { c.prog.countDown with sticky := st }.putSpec SR.issues (c.prog.spec SR.issues + 1),
        handlerIssues := if c.progBank.isSome then c.handlerIssues + 1 else c.handlerIssues } := by
      have hi : ({ c with prog := { c.prog.countDown with sticky := st } } : Core).inSup = false := hc
      rw [exitCore, hst, ht, Core.countIssue, hi]
      rfl
    rw [hd]
    refine ⟨rfl, rfl, rfl, rfl, rfl, rfl, rfl, rfl, rfl, FMap.look_put_same _ _ _ _, fun k hk => ?_⟩
    exact FMap.look_put_ne _ _ _ _ _ hk

end Sys2Proof
end

section
/-! SUPPORT. Program traps and the return from them (R74, R81, R195 to R198), and what commutes with the count-down of an
issue. -/

namespace Sys2Proof

open Sys2Proof.Machine Sys2Proof.Claims

/-! ## A trap noted in the trap registers (R74) -/

/-- The fields of trapcause. -/
theorem cause_fields {t : Trap} {rep : Nat} (hfits : Claims.Trap.Fits t rep) : causeFields (t.cause rep) rep t.sys t.cls t.num := by
  obtain ⟨hcls, hnum, hrep⟩ := hfits
  have hsys : t.sys.toNat ≤ 1 := by cases t.sys <;> decide
  have hn : (t.cause rep).toNat = rep * 2 ^ 16 + t.sys.toNat * 2 ^ 15 + t.cls * 2 ^ 8 + t.num := by
    rw [Trap.cause, BitVec.toNat_ofNat, Nat.mod_eq_of_lt hrep, Nat.mod_eq_of_lt hcls, Nat.mod_eq_of_lt hnum,
      Nat.mod_eq_of_lt (by omega)]
  unfold causeFields
  rw [hn]
  refine ⟨?_, ?_, ?_, ?_, ?_⟩ <;> omega

/-- A context in which a trap is noted: its own registers hold the trap, its other special registers are as they were. -/
theorem trapNoted_noteTrap {t : Trap} {rep : Nat} (hfits : Claims.Trap.Fits t rep) (pc : W64) (x y : Ctx)
    (hy : y.sr = (x.noteTrap t pc rep).sr) : TrapNoted t pc rep x y := by
  have hs : ∀ k, y.spec k = (x.noteTrap t pc rep).spec k := fun k => by rw [Ctx.spec, hy]; rfl
  have hne : SR.trapcause ≠ SR.trappc ∧ SR.trapcause ≠ SR.trapinfo ∧ SR.trappc ≠ SR.trapinfo := by decide
  refine ⟨?_, ?_, ?_, fun k hk => ?_⟩
  · rw [hs, Ctx.noteTrap, Ctx.spec_putSpec, if_neg hne.2.1, Ctx.spec_putSpec, if_neg hne.1, Ctx.spec_putSpec_same]
    exact cause_fields hfits
  · rw [hs, Ctx.noteTrap, Ctx.spec_putSpec, if_neg hne.2.2, Ctx.spec_putSpec_same]
  · rw [hs, Ctx.noteTrap, Ctx.spec_putSpec_same]
  · simp only [List.mem_cons, List.not_mem_nil, or_false, not_or] at hk
    obtain ⟨h1, h2, h3⟩ := hk
    rw [hs, Ctx.noteTrap, Ctx.spec_putSpec, if_neg h3, Ctx.spec_putSpec, if_neg h2, Ctx.spec_putSpec, if_neg h1]

/-! ## Returns -/

/-- RESREP as a number. -/
theorem resrep_eq (x : W64) : (fld 6 x 16).toNat = x.toNat / 2 ^ 16 % 64 := by
  rw [fld, BitVec.toNat_ofNat, Nat.shiftRight_eq_div_pow]

/-- Leaving the handler is the return of R81. -/
theorem returns_leaveHandler (c : Core) (b : Bank) : Returns c (c.leaveHandler b) b := by
  refine ⟨rfl, rfl, rfl, rfl, ?_, rfl, rfl, rfl, rfl, rfl, rfl, rfl⟩
  exact resrep_eq _

/-- Leaving supervisor mode is the return of R81 and R200. -/
theorem leavesSupervisor_leaveSupervisor (c : Core) : LeavesSupervisor c c.leaveSupervisor := by
  refine ⟨rfl, rfl, rfl, rfl, rfl, ?_, rfl, ?_, rfl⟩
  · rw [← resrep_eq]; rfl
  · cases h : c.sysBank <;> simp [Core.leaveSupervisor, h, Bank.reinject]

/-- What a later change does at one core does not see how it is written elsewhere. -/
theorem modCore_congr {u : State} {n : Nat} {f g : Core → Core} (h : f (u.core n) = g (u.core n)) :
    u.modCore n f = u.modCore n g := by
  unfold State.modCore
  rw [h]

/-- An issue leaves the mode, the banks and everything else but contexts and ports. -/
theorem issued_core {n len : Nat} {fl : List Flight} {pops pushes : List Nat} {u w : State}
    (hw : Issued n len fl pops pushes u w) : (w.core n).inSup = (u.core n).inSup ∧ (w.core n).progBank = (u.core n).progBank := by
  obtain ⟨-, -, hframe, -⟩ := hw
  have hmode : (w.core n).mode = (u.core n).mode := congrArg (·.mode) hframe
  have hbank : (w.core n).progBank = (u.core n).progBank := congrArg (·.progBank) hframe
  exact ⟨by unfold Core.inSup; rw [hmode], hbank⟩

/-- RETI issues, and then returns, where its wait is met and its privilege given. -/
theorem reti_completes {h : Hdr} {s : State} (hcan : CanIssue (.reti h) h s)
    (hw : semReti.wait (seen (.reti h) h s) = false) (hk : semReti.check (seen (.reti h) h s) = none) :
    ∃ w, Issued s.turn 2 [] [] [] (begun (.reti h) s) w ∧ exec (.reti h) s = .next (finishFlow s.turn true .reti w) := by
  obtain ⟨-, -, hwf, hi, -⟩ := id hcan
  have hslot := slot_C (Option.some.inj (slot_of_class hwf hi)).symm
  exact completes_with (sem := semReti) (e := { after := finishFlow s.turn true .reti }) hcan (exec_slot hi s) (by decide)
    (fun _ => rfl) nofun nofun rfl rfl rfl (fun st => (landMany_nil _ _ _).symm) (SameCourse.refl _) hw hk
    (slotPrivilege_low _ _ _ (by omega)) trivial ⟨nofun, nofun⟩

/-- In program mode RETI returns from the handler. -/
theorem reti_leavesHandler {h : Hdr} {s : State} {b : Bank} (hcan : CanIssue (.reti h) h s)
    (hsup : (s.core s.turn).inSup = false) (hbank : ((begun (.reti h) s).core s.turn).progBank = some b) :
    ∃ w, Issued s.turn 2 [] [] [] (begun (.reti h) s) w ∧
      exec (.reti h) s = .next (w.modCore s.turn (fun c => c.leaveHandler b)) := by
  have hsup' : ((begun (.reti h) s).core s.turn).inSup = false := (seen_inSup (.reti h) h s).trans hsup
  obtain ⟨w, hw, hexec⟩ := reti_completes hcan
    (by show (Core.inSup ((begun (.reti h) s).core s.turn) && _ && _) = false
        rw [hsup', Bool.false_and, Bool.false_and])
    (if_neg (by
      show ¬(!Core.inSup ((begun (.reti h) s).core s.turn) && _ && ((begun (.reti h) s).core s.turn).progBank.isNone) = true
      rw [hbank, Option.isNone_some, Bool.and_false]; decide))
  obtain ⟨hin, hb⟩ := issued_core hw
  refine ⟨w, hw, ?_⟩
  rw [hexec, finishFlow, if_pos rfl]
  exact congrArg _ (modCore_congr (by simp only [hin, hsup', hb, hbank, Bool.false_eq_true, if_false]))

/-- Settles O35: the return is `Core.leaveHandler`, which RETI makes after its issue; a trap with the return right after it
puts back what it froze. -/
theorem programTrapAndReturn : Obligations.ProgramTrapAndReturn := by
  refine ⟨fun c b _ => returns_leaveHandler c b, fun h s b hcan hsup hbank _ => ?_, fun c t pc rep hnone hsys hfits => ?_⟩
  · obtain ⟨w, hw, hexec⟩ := reti_leavesHandler hcan hsup hbank
    refine ⟨w, _, hw, hexec, rfl, fun m hm => State.core_modCore_ne _ _ _ _ hm, ?_⟩
    rw [State.core_modCore_same]
    exact returns_leaveHandler _ _
  · have htake : c.takeTrap t pc rep = c.enterHandler t pc rep := by simp [Core.takeTrap, hnone, hsys]
    have hnoted : TrapNoted t pc rep c.prog (c.enterHandler t pc rep).prog := trapNoted_noteTrap hfits pc _ _ rfl
    simp only [htake]
    refine ⟨rfl, rfl, rfl, rfl, rfl, rfl, rfl, rfl, rfl, hnoted, fun b hb => ?_⟩
    obtain rfl : c.prog.bank = b := Option.some.inj hb
    obtain ⟨⟨-, -, -, hrep, -⟩, hpc, -, -⟩ := hnoted
    have hret := returns_leaveHandler (c.enterHandler t pc rep) c.prog.bank
    refine ⟨hret, ?_, ?_, rfl, rfl⟩
    · obtain ⟨-, -, hpc', -⟩ := hret
      exact hpc'.trans hpc
    · obtain ⟨-, -, -, -, hrep', -⟩ := hret
      exact hrep'.trans hrep

/-! ## The supervisor's return -/

/-- In supervisor mode RETI returns to the program, no load being under way. -/
theorem reti_leavesSupervisor {h : Hdr} {s : State} (hcan : CanIssue (.reti h) h s) (hsup : (s.core s.turn).inSup = true)
    (hloads : ∀ k ∈ ((begun (.reti h) s).core s.turn).svCmds, k.save = true) :
    ∃ w, Issued s.turn 2 [] [] [] (begun (.reti h) s) w ∧
      exec (.reti h) s = .next (w.modCore s.turn Core.leaveSupervisor) := by
  have hsup' : ((begun (.reti h) s).core s.turn).inSup = true := (seen_inSup (.reti h) h s).trans hsup
  have hany : ((begun (.reti h) s).core s.turn).svCmds.any (fun k => !k.save) = false := by
    rw [List.any_eq_false]; exact fun k hk => by rw [hloads k hk]; decide
  obtain ⟨w, hw, hexec⟩ := reti_completes hcan
    (by show (_ && _ && ((begun (.reti h) s).core s.turn).svCmds.any (fun k => !k.save)) = false
        rw [hany, Bool.and_false])
    (if_neg (by
      show ¬(!Core.inSup ((begun (.reti h) s).core s.turn) && _ && _) = true
      rw [hsup', Bool.not_true, Bool.false_and, Bool.false_and]; decide))
  obtain ⟨hin, -⟩ := issued_core hw
  refine ⟨w, hw, ?_⟩
  rw [hexec, finishFlow, if_pos rfl]
  exact congrArg _ (modCore_congr (by simp only [hin, hsup', if_true]))

/-- A supervisor's RETI is the return of R81. -/
theorem supervisorReturns : SupervisorReturns := by
  intro h s hcan hsup _ hloads
  obtain ⟨w, hw, hexec⟩ := reti_leavesSupervisor hcan hsup hloads
  refine ⟨w, _, hw, hexec, rfl, fun m hm => State.core_modCore_ne _ _ _ _ hm, ?_⟩
  rw [State.core_modCore_same]
  exact leavesSupervisor_leaveSupervisor _

end Sys2Proof
end

section
/-! SUPPORT. Operations that change the machine at their issue and put nothing into flight: what their changes commute with. -/

namespace Sys2Proof

open Sys2Proof.Machine Sys2Proof.Claims

/-! ## Changes that an issue's count-down does not see -/

/-- A change that commutes with the count-down of an issue on core `n` and leaves the core's course as it was. -/
structure IssueNeutral (n : Nat) (f : State → State) : Prop where
  tick   : ∀ (u : State) (st : FMap W64), f (u.modCore n (tick st)) = (f u).modCore n (tick st)
  course : ∀ u : State, SameCourse (u.core n) ((f u).core n)

theorem issueNeutral_id (n : Nat) : IssueNeutral n id := ⟨fun _ _ => rfl, fun _ => .refl _⟩

theorem IssueNeutral.comp {n : Nat} {f g : State → State} (hf : IssueNeutral n f) (hg : IssueNeutral n g) :
    IssueNeutral n (fun u => f (g u)) :=
  ⟨fun u st => by rw [hg.tick, hf.tick], fun u => (hg.course u).trans (hf.course _)⟩

theorem tick_program {c : Core} (hs : c.inSup = false) (st : FMap W64) :
    tick st c = { c with prog := { c.prog.countDown with sticky := st } } := by
  simp only [tick, Core.setCtx, Core.ctx, hs, Bool.false_eq_true, if_false]

theorem tick_supervisor {c : Core} (hs : c.inSup = true) (st : FMap W64) :
    tick st c = { c with sup := { c.sup.countDown with sticky := st } } := by
  simp only [tick, Core.setCtx, Core.ctx, hs, if_true]

theorem ctx_program {c : Core} (hs : c.inSup = false) : c.ctx = c.prog := by
  simp only [Core.ctx, hs, Bool.false_eq_true, if_false]

theorem ctx_supervisor {c : Core} (hs : c.inSup = true) : c.ctx = c.sup := by simp only [Core.ctx, hs, if_true]

/-- A change of one core. -/
theorem issueNeutral_modCore {n : Nat} {g : Core → Core} (ht : ∀ st c, g (tick st c) = tick st (g c))
    (hc : ∀ c, SameCourse c (g c)) : IssueNeutral n (fun u => u.modCore n g) :=
  ⟨fun u st => State.modCore_comm_of _ _ _ _ (fun c => (ht st c).symm), fun u => by rw [State.core_modCore_same]; exact hc _⟩

/-- An operation that changes the machine at its issue as an effect says, and puts nothing into flight, completes. -/
theorem completes_changing {i : Instr} {h : Hdr} {s : State} {e : Effect} (hcan : CanIssue i h s) (hm : ModeHas i h s)
    (hflow : (semOf i).flow ≠ .exit) (hafter : ∀ w, finishFlow s.turn true (semOf i).flow w = e.after w)
    (hstep : (semOf i).flow = .step → ¬((seen i h s).c.preempt = some false ∧ (seen i h s).c.progBank = none ∧
      (seen i h s).c.inSup = false))
    (hdel : (semOf i).delivery = true → flagsDue (seen i h s) = 0) (hsrcs : (semOf i).srcs = e.srcs)
    (hdsts : (semOf i).dsts = e.dsts) (hpushes : (semOf i).pushes = []) (hnone : e.pushes = []) (hres : e.results = [])
    (hrun : ∀ st, (semOf i).store (seen i h s) ((semOf i).atom (seen i h s) ((semOf i).act (seen i h s)
      ((begun i s).modCore s.turn (tick st)))) = e.change ((begun i s).modCore s.turn (tick st)))
    (hn : IssueNeutral s.turn e.change) (hw : (semOf i).wait (seen i h s) = false)
    (hk : (semOf i).check (seen i h s) = none) (hsrc : SrcsReady (seen i h s).c [] e.srcs)
    (hdst : DstsReady (seen i h s).c e.dsts e.pushes) :
    ∃ w, Issued s.turn 2 e.results (popsOf e.srcs) e.pushes (e.change (begun i s)) w ∧ exec i s = .next (e.after w) :=
  completes_with hcan (exec_slot (canIssue_hdr hcan) s) hflow hafter hstep hdel hsrcs hdsts (hpushes.trans hnone.symm)
    (fun st => by rw [hrun, hn.tick, hnone, hres, landMany_nil]; rfl) (hn.course _) hw hk (slotPrivilege_modeHas hm) hsrc hdst

/-! ## Fences (R172) -/

theorem fenceAct_eq_fenced (v : Env) (acq rel : Bool) (u : State) : fenceAct v acq rel u = fenced v acq rel u := rfl

/-- A fence changes the orderings of both contexts alone. -/
theorem issueNeutral_fenced (v : Env) (acq rel : Bool) : IssueNeutral v.core (fenced v acq rel) := by
  show IssueNeutral v.core (fun u => u.modCore v.core (fun c => c.takeFence (v.c.fence acq rel)))
  refine issueNeutral_modCore (fun st c => ?_) (fun c => ?_)
  · cases hs : c.inSup
    · rw [tick_program hs, tick_program (c := c.takeFence (v.c.fence acq rel)) hs]; rfl
    · rw [tick_supervisor hs, tick_supervisor (c := c.takeFence (v.c.fence acq rel)) hs]; rfl
  · cases hs : c.inSup
    · rw [SameCourse, ctx_program hs, ctx_program (c := c.takeFence (v.c.fence acq rel)) hs]
      exact ⟨rfl, rfl, fun _ _ => rfl⟩
    · rw [SameCourse, ctx_supervisor hs, ctx_supervisor (c := c.takeFence (v.c.fence acq rel)) hs]
      exact ⟨rfl, rfl, fun _ _ => rfl⟩

/-! ## Supervisor commands (R83) -/

/-- A command joins those of the core, and its tag counts as a copy's. -/
def acceptCommand (k : Nat → SvCmd) (t : Nat) (c : Core) : Core :=
  { c with svCmds := c.svCmds ++ [k c.sup.nextId],
           sup := { (c.sup.tagAccept c.sup.nextId t) with nextId := c.sup.nextId + 1 } }

/-- The acceptance of a copy's tag commutes with the count-down. -/
theorem tagAccept_countDown (x : Ctx) (st : FMap W64) (before t : Nat) :
    ({ x.countDown with sticky := st } : Ctx).tagAccept before t =
      { (x.tagAccept before t).countDown with sticky := st } := rfl

theorem acceptCommand_inSup (k : Nat → SvCmd) (t : Nat) (c : Core) : (acceptCommand k t c).inSup = c.inSup := by
  unfold Core.inSup acceptCommand
  rfl

theorem acceptCommand_prog (k : Nat → SvCmd) (t : Nat) (c : Core) : (acceptCommand k t c).prog = c.prog := by
  unfold acceptCommand
  rfl

theorem issueNeutral_acceptCommand (n : Nat) (k : Nat → SvCmd) (t : Nat) :
    IssueNeutral n (fun u => u.modCore n (acceptCommand k t)) := by
  refine issueNeutral_modCore (fun st c => ?_) (fun c => ?_)
  · cases hs : c.inSup <;> have hs' := (acceptCommand_inSup k t c).trans hs
    · rw [tick_program hs, tick_program hs']; rfl
    · rw [tick_supervisor hs, tick_supervisor hs', acceptCommand, acceptCommand, tagAccept_countDown]
      rfl
  · cases hs : c.inSup <;> have hs' := (acceptCommand_inSup k t c).trans hs
    · rw [SameCourse, hs, hs', ctx_program hs, ctx_program hs', acceptCommand_prog]
      exact ⟨rfl, rfl, fun _ _ => rfl⟩
    · rw [SameCourse, hs, hs', ctx_supervisor hs, ctx_supervisor hs', acceptCommand]
      refine ⟨rfl, rfl, fun j hj => ?_⟩
      exact FMap.look_put_ne _ _ _ _ _ (by unfold loopReg at hj; simp only [SR.tagmap]; omega)

/-- The command that SVSAVE or SVLOAD hands over. -/
def svCommand (o : SvOp) (save : Bool) (v : Env) (id : Nat) : SvCmd :=
  { id := id, save := save, part := o.part.toNat, tag := o.tag.toNat, addr := v.src o.base,
    waits := (v.c.commandWaits (ordAcq o.ord) (ordRel o.ord)).2, failed := save && !contextFits v.s v.core o.part.toNat,
    image := if save then contextImage v.s v.core o.part.toNat else [],
    earlier := if ordRel o.ord && save then (v.s.copiesBy v.core).map (·.id) else [] }

theorem svIssue_eq (o : SvOp) (save : Bool) (v : Env) (u : State) : svIssue o save v u =
    (fenced v (ordAcq o.ord) (ordRel o.ord) u).modCore v.core (acceptCommand (svCommand o save v) o.tag.toNat) := rfl

theorem issueNeutral_svIssue (o : SvOp) (save : Bool) (v : Env) : IssueNeutral v.core (svIssue o save v) :=
  (issueNeutral_acceptCommand v.core (svCommand o save v) o.tag.toNat).comp
    (issueNeutral_fenced v (ordAcq o.ord) (ordRel o.ord))

/-- A copy at rest has parked and is not to complete as failed. -/
theorem rests_of_parked {c : Copy} (hf : c.failed = false) (hp : ∃ p r sp a w, c.phase = .parked p r sp a w) :
    c.rests = true := by
  obtain ⟨p, r, sp, a, w, hp⟩ := hp
  rw [Copy.rests, hf, hp]
  rfl

/-- The place of a command's image passes the checks. -/
theorem svCheck_none {o : SvOp} {v : Env} {t : Target} (hsup : v.c.inSup = true) (h3 : ¬3 < (v.src o.base).toNat >>> 56)
    (ht : resolveAccess v.c v.core false (v.src o.base) (partSize o.part.toNat) 512 = .ok t) : svCheck o v = none := by
  rw [svCheck, if_pos hsup, svTarget, if_neg h3, ht]
  rfl

/-- The wait of a save is met. -/
theorem svsave_waits {o : SvOp} {v : Env} (hr : o.part = 0 → ∀ c ∈ v.s.copies, c.core = v.core → c.sup = false →
    c.orphan = false → c.failed = false ∧ ∃ p r sp a w, c.phase = .parked p r sp a w) : (semSvsave o).wait v = false := by
  show (v.c.inSup && o.part == 0 && !(v.s.copiesOf v.core false).all Copy.rests) = false
  by_cases hp : o.part = 0
  · have hall : (v.s.copiesOf v.core false).all Copy.rests = true := by
      rw [List.all_eq_true]
      intro c hc
      simp only [State.copiesOf, List.mem_filter, Bool.and_eq_true, beq_iff_eq, Bool.not_eq_true'] at hc
      obtain ⟨hmem, ⟨hcore, hsup⟩, horphan⟩ := hc
      obtain ⟨hf, hp⟩ := hr hp c hmem hcore hsup horphan
      exact rests_of_parked hf hp
    rw [hall, Bool.not_true, Bool.and_false]
  · rw [beq_false_of_ne hp, Bool.and_false, Bool.false_and]

/-- TRAP, RETI, SVSAVE and SVLOAD complete. -/
theorem completes_system : Completes systemEffect := by
  intro i h s e hcan hm he hsrc hdst hst hr
  cases i
  case trap h' o =>
    obtain rfl := Option.some.inj he
    exact completes_changing hcan hm (by exact nofun) (fun _ => rfl) nofun nofun rfl rfl rfl rfl rfl (fun _ => rfl)
      (issueNeutral_id _) rfl rfl hsrc hdst
  case reti h' =>
    obtain rfl : h' = h := Option.some.inj (canIssue_hdr hcan)
    dsimp only [systemEffect] at he
    split at he
    · next hsup =>
      obtain rfl := Option.some.inj he
      exact reti_leavesSupervisor hcan ((seen_inSup _ _ _).symm.trans hsup) hr
    · next hsup =>
      obtain ⟨b, hb, rfl⟩ := Option.map_eq_some_iff.1 he
      exact reti_leavesHandler hcan ((seen_inSup _ _ _).symm.trans (Bool.eq_false_of_not_eq_true hsup)) hb
  case svsave h' o =>
    dsimp only [systemEffect] at he
    split at he
    · cases he
    · next h3 =>
      split at he
      · cases he
      · next t ht =>
        obtain rfl := Option.some.inj he
        obtain ⟨hsup, hcopies⟩ := hr
        exact completes_changing hcan hm (by exact nofun) (fun _ => rfl) nofun nofun rfl rfl rfl rfl rfl (fun _ => rfl)
          (issueNeutral_svIssue o true (seen (.svsave h' o) h s)) (svsave_waits (hcopies rfl))
          (svCheck_none hsup h3 ht) hsrc hdst
  case svload h' o =>
    dsimp only [systemEffect] at he
    split at he
    · cases he
    · next h3 =>
      split at he
      · cases he
      · next t ht =>
        obtain rfl := Option.some.inj he
        obtain ⟨hsup, -⟩ := hr
        exact completes_changing hcan hm (by exact nofun) (fun _ => rfl) nofun nofun rfl rfl rfl rfl rfl (fun _ => rfl)
          (issueNeutral_svIssue o false (seen (.svload h' o) h s)) rfl (svCheck_none hsup h3 ht) hsrc hdst
  all_goals cases he

/-- Settles O25: each operation's change commutes with the count-down, and RETI makes its return after its issue. -/
theorem systemInstructions : Obligations.SystemInstructions := ⟨completes_system, supervisorReturns⟩

end Sys2Proof
end

section
/-! SUPPORT. Fences, barriers and steps (R70, R165, R172 to R178): their waits, and what they change. -/

namespace Sys2Proof

open Sys2Proof.Machine Sys2Proof.Claims

/-! ## Changes of a context, of the package and of a launch -/

/-- A core changes its context alone, and in it nothing of what the count-down and the course of an issue are about. -/
theorem issueNeutral_modCtx {n : Nat} {k : Ctx → Ctx}
    (ht : ∀ x st, k { x.countDown with sticky := st } = { (k x).countDown with sticky := st })
    (hpc : ∀ x, (k x).pc = x.pc) (hsr : ∀ x, (k x).sr = x.sr) : IssueNeutral n (fun u => u.modCtx n k) :=
  issueNeutral_modCore (g := fun c => c.setCtx (k c.ctx))
    (fun st c => by simp only [tick, Core.ctx_setCtx, Core.setCtx_setCtx, ht])
    (fun c => ⟨by simp, by simp [hpc], fun j _ => by simp [Ctx.spec, hsr]⟩)

/-- A change of the package beside its cores. -/
theorem issueNeutral_of_cores {n : Nat} {f : State → State} (ht : ∀ u g, f (u.modCore n g) = (f u).modCore n g)
    (hc : ∀ u, (f u).core n = u.core n) : IssueNeutral n f :=
  ⟨fun u st => ht u (tick st), fun u => by rw [hc]; exact .refl _⟩

theorem issueNeutral_foldl {α : Type} {n : Nat} {f : α → State → State} (hf : ∀ a, IssueNeutral n (f a)) (l : List α) :
    IssueNeutral n (fun u => l.foldl (fun u a => f a u) u) := by
  induction l with
  | nil => exact issueNeutral_id n
  | cons a l ih => exact ih.comp (hf a)

theorem modLaunch_core (u : State) (l : Nat) (f : Launch → Launch) (n : Nat) : (u.modLaunch l f).core n = u.core n := by
  unfold State.modLaunch
  split <;> rfl

theorem issueNeutral_modLaunch (n l : Nat) (f : Launch → Launch) : IssueNeutral n (fun u => u.modLaunch l f) := by
  refine issueNeutral_of_cores (fun u g => ?_) (fun u => modLaunch_core u l f n)
  have hl : (u.modCore n g).launch l = u.launch l := rfl
  unfold State.modLaunch
  rw [hl]
  split <;> rfl

/-- The count-down leaves a core's launch and its claim. -/
theorem tick_claim (st : FMap W64) (c : Core) : (tick st c).launch = c.launch ∧ (tick st c).claim = c.claim := by
  cases hs : c.inSup
  · rw [tick_program hs]; exact ⟨rfl, rfl⟩
  · rw [tick_supervisor hs]; exact ⟨rfl, rfl⟩

/-- A change of a core's claim. -/
theorem issueNeutral_claim (n : Nat) (k : Option (Nat × Bool)) :
    IssueNeutral n (fun u => u.modCore n (fun c => { c with claim := k })) := by
  refine issueNeutral_modCore (fun st c => ?_) (fun c => ?_)
  · cases hs : c.inSup
    · rw [tick_program hs, tick_program (c := { c with claim := k }) hs]
    · rw [tick_supervisor hs, tick_supervisor (c := { c with claim := k }) hs]
  · exact ⟨rfl, rfl, fun _ _ => rfl⟩

/-- The retirement of a step changes its launch and the core's claim (R177). -/
theorem issueNeutral_retireStep (n : Nat) : IssueNeutral n (fun u => u.retireStep n) := by
  have hretire : ∀ l t, IssueNeutral n (fun u => (u.modLaunch l (·.retire t)).modCore n (fun c => { c with claim := none })) :=
    fun l t => (issueNeutral_claim n none).comp (issueNeutral_modLaunch n l _)
  refine ⟨fun u st => ?_, fun u => ?_⟩
  · obtain ⟨hl, hc⟩ := tick_claim st (u.core n)
    simp only [State.retireStep, State.core_modCore_same, hl, hc]
    split
    · exact (hretire _ _).tick u st
    · rfl
  · simp only [State.retireStep]
    split
    · exact (hretire _ _).course u
    · exact .refl _

/-! ## Awaited results (R187) -/

theorem issueNeutral_awaited (v : Env) (k : VarKind) : IssueNeutral v.core (awaited v k) :=
  issueNeutral_modCtx (fun _ _ => rfl) (fun _ => rfl) (fun _ => rfl)

/-- A result awaited by a core that is in its handler as the operation sees it. -/
theorem addVar_eq_awaited {v : Env} {u : State} (hu : (u.core v.core).progBank = v.c.progBank) (k : VarKind) :
    addVar v k u = awaited v k u := by
  unfold addVar awaited State.modCtx
  exact modCore_congr (by simp only [hu])

theorem issueNeutral_setEmpty (n r : Nat) : IssueNeutral n (fun u => u.modCtx n (·.setEmpty r)) := by
  refine issueNeutral_modCtx (fun x st => ?_) (fun x => ?_) (fun x => ?_) <;> unfold Ctx.setEmpty <;> split <;> rfl

/-! ## FENCE and DRAIN (R172 to R174) -/

/-- The wait of a DRAIN is met. -/
theorem drainWait_met {v : Env} {nt cp : Bool} (hp : v.c.pendingIds = []) (h1 : v.c.prog.statusOut = false)
    (h2 : v.c.sup.statusOut = false) (hcp : cp = true → ∀ c ∈ v.s.copies, c.core = v.core → c.orphan = true)
    (hnt : nt = true → ∀ w ∈ v.s.nt, w.core = v.core → cp = false ∧ ∃ c ∈ v.s.copies, c.id = w.copy) :
    drainWait v nt cp = false := by
  have hcopies : (cp && (v.s.copiesBy v.core).any (fun c => !c.orphan)) = false := by
    cases hc : cp
    · rfl
    · rw [Bool.true_and, List.any_eq_false]
      intro c hm
      obtain ⟨hmem, hcore⟩ := List.mem_filter.1 hm
      rw [hcp hc c hmem (by simpa using hcore)]; decide
  have hlines : (nt && v.s.nt.any (fun w => w.core == v.core && (cp || !v.s.copies.any (fun c => c.id == w.copy)))) = false := by
    cases hn : nt
    · rfl
    · rw [Bool.true_and, List.any_eq_false]
      intro w hm
      by_cases hcore : w.core = v.core
      · obtain ⟨hc, c, hmem, hid⟩ := hnt hn w hm hcore
        have : v.s.copies.any (fun c => c.id == w.copy) = true := List.any_eq_true.2 ⟨c, hmem, by simpa using hid⟩
        rw [hc, this]; simp
      · rw [beq_false_of_ne hcore]; simp
  rw [drainWait, hp, h1, h2, hcopies, hlines]
  rfl

theorem completes_fence : Completes fenceEffect := by
  intro i h s e hcan hm he hsrc hdst hst hr
  cases i
  case fence h' o =>
    obtain rfl := Option.some.inj he
    exact completes_changing hcan hm (by exact nofun) (fun _ => rfl) nofun (fun _ => hr) rfl rfl rfl rfl rfl (fun _ => rfl)
      (issueNeutral_fenced (seen (.fence h' o) h s) _ _) rfl rfl hsrc hdst
  case fenceInstr h' =>
    obtain rfl := Option.some.inj he
    exact completes_changing hcan hm (by exact nofun) (fun _ => rfl) nofun (fun _ => hr) rfl rfl rfl rfl rfl (fun _ => rfl)
      (issueNeutral_id _) rfl rfl hsrc hdst
  case drain h' o =>
    obtain rfl := Option.some.inj he
    obtain ⟨hdue, hp, h1, h2, hcp, hnt⟩ := hr
    exact completes_changing hcan hm (by exact nofun) (fun _ => rfl) nofun (fun _ => hdue) rfl rfl rfl rfl rfl (fun _ => rfl)
      (issueNeutral_fenced (seen (.drain h' o) h s) true true) (drainWait_met hp h1 h2 hcp hnt) rfl hsrc hdst
  all_goals cases he

/-! ## Barriers (R175) -/

/-- A barrier operation of a group that is installed with the core as a member passes its check in program mode. -/
theorem groupMember_none {v : Env} {g : BitVec 8} {k : Group} (hg : barrierGroup v g = some k) (hsup : v.c.inSup = false) :
    groupMember v g = none := by
  have hg' : v.s.groupOf g.toNat v.core = some k := hg
  rw [groupMember, programOnly, hsup, hg']
  rfl

theorem groups_find {v : Env} {g : BitVec 8} {k : Group} (hg : barrierGroup v g = some k) :
    v.s.groups.find g.toNat = some k := (Option.filter_eq_some_iff.1 hg).1

theorem barrierMet_eq {v : Env} {g : BitVec 8} {k : Group} (hg : barrierGroup v g = some k) : barrierMet v.s g.toNat v.core =
    (k.present v.s).all (fun m => decide (0 ≤ (k.arrivals.look 0 m - k.arrivals.look 0 v.core).toInt)) := by
  have hg' : v.s.groupOf g.toNat v.core = some k := hg
  rw [barrierMet, hg']
  rfl

/-- The wait of BARRIVE is met. -/
theorem barrive_waits {v : Env} {o : GroupOp} {k : Group} (hg : barrierGroup v o.group = some k)
    (hp : v.c.pendingIds = [])
    (hm : ∀ m ∈ k.present v.s, (k.arrivals.look 0 v.core - k.arrivals.look 0 m).toInt < (65535 : Int)) :
    (semBarrive o).wait v = false := by
  have hg' : v.s.groupOf o.group.toNat v.core = some k := hg
  have hany : (k.present v.s).any (fun m => decide (65535 ≤ k.lead v.core m)) = false := by
    rw [List.any_eq_false]
    intro m hmem
    have := hm m hmem
    exact fun hge => absurd (of_decide_eq_true hge) (not_le.2 this)
  simp only [semBarrive, hg', hp, hany]
  simp

theorem completes_barrier : Completes barrierEffect := by
  intro i h s e hcan hm he hsrc hdst hst hr
  cases i
  case barrive h' o =>
    obtain ⟨k, hg, rfl⟩ := Option.map_eq_some_iff.1 he
    obtain ⟨hsup, hp, hlead⟩ := hr
    refine completes_changing hcan hm (by exact nofun) (fun _ => rfl) nofun nofun rfl rfl rfl rfl rfl (fun st => ?_)
      (issueNeutral_of_cores (fun _ _ => rfl) (fun _ => rfl)) (barrive_waits hg hp hlead) (groupMember_none hg hsup) hsrc hdst
    have hfind : ((begun (.barrive h' o) s).modCore s.turn (tick st)).groups.find o.group.toNat = some k := groups_find hg
    show (match ((begun (.barrive h' o) s).modCore s.turn (tick st)).groups.find o.group.toNat with
      | some g => _
      | none => _) = _
    rw [hfind]
  case bwait h' o =>
    obtain ⟨k, hg, rfl⟩ := Option.map_eq_some_iff.1 he
    obtain ⟨hsup, hdue, hmet⟩ := hr
    refine completes_changing hcan hm (by exact nofun) (fun _ => rfl) nofun (fun _ => hdue) rfl rfl rfl rfl rfl (fun st => rfl)
      (issueNeutral_id _) ?_ (groupMember_none hg hsup) hsrc hdst
    have hall : (k.present (seen (.bwait h' o) h s).s).all (fun m => decide (0 ≤
        (k.arrivals.look 0 m - k.arrivals.look 0 (seen (.bwait h' o) h s).core).toInt)) = true :=
      List.all_eq_true.2 (fun m hmem => decide_eq_true (hmet m hmem))
    show (!_ && !barrierMet _ _ _) = false
    rw [barrierMet_eq hg, hall, Bool.not_true, Bool.and_false]
  case btest h' o =>
    obtain ⟨k, hg, rfl⟩ := Option.map_eq_some_iff.1 he
    have hy : YieldsOnly (semBtest o) (seen (.btest h' o) h s)
        { dsts := [.pred o.pd.toNat], ready := (seen (.btest h' o) h s).c.inSup = false,
          results := [res (seen (.btest h' o) h s)
            (.pred o.pd.toNat (barrierMet (seen (.btest h' o) h s).s o.group.toNat (seen (.btest h' o) h s).core)) 1] } :=
      { act := fun _ _ => rfl, check := fun hsup => groupMember_none hg hsup }
    rw [barrierMet_eq hg] at hy
    exact completes_yielding hcan hm hy hsrc hdst hst hr
  all_goals cases he

/-! ## STEP and TRIGGER (R176 to R178) -/

theorem retireStep_progBank (u : State) (n : Nat) : ((u.retireStep n).core n).progBank = (u.core n).progBank := by
  unfold State.retireStep
  split
  · rw [State.core_modCore_same, modLaunch_core]
  · rfl

theorem tick_progBank (st : FMap W64) (c : Core) : (tick st c).progBank = c.progBank := by
  cases hs : c.inSup
  · rw [tick_program hs]
  · rw [tick_supervisor hs]

/-- STEP's registers become empty, its answer is awaited, and the step claimed is retired. -/
theorem semStep_act {v : Env} {u : State} (o : StepOp) (hu : (u.core v.core).progBank = v.c.progBank) :
    (semStep o).act v u = (List.range 7).foldl (fun u k => u.modCtx v.core (·.setEmpty (o.d.toNat + k)))
      (awaited v (.step o.d.toNat none) (u.retireStep v.core)) := by
  rw [← addVar_eq_awaited ((retireStep_progBank u v.core).trans hu)]
  simp only [semStep, stepRegs, List.foldl_map]
  rfl

/-- TRIGGER marks the step that the operation sees claimed. -/
theorem semTrigger_act {v : Env} {u : State} (o : Order)
    (hu : (u.core v.core).launch = v.c.launch ∧ (u.core v.core).claim = v.c.claim) : (semTrigger o).act v u =
      match v.c.launch, v.c.claim with
      | some l, some (k, false) => (u.modLaunch l (fun z => { z with triggered := z.triggered + 1 })).modCore v.core
          (fun c => { c with claim := some (k, true) })
      | _, _ => u := by
  show u.markTriggered v.core = _
  rw [State.markTriggered, hu.1, hu.2] <;> rfl

/-- The operation's own core after the count-down. -/
theorem core_ticked (i : Instr) (h : Hdr) (s : State) (st : FMap W64) :
    ((begun i s).modCore s.turn (tick st)).core (seen i h s).core = tick st (seen i h s).c :=
  State.core_modCore_same _ _ _

theorem completes_step : Completes stepEffect := by
  intro i h s e hcan hm he hsrc hdst hst hr
  cases i
  case step h' o =>
    obtain rfl := Option.some.inj he
    obtain ⟨hsup, hpre⟩ := hr
    refine completes_changing hcan hm (by exact nofun) (fun _ => rfl) ?_ nofun rfl ?_ rfl rfl rfl (fun st => ?_)
      ((issueNeutral_foldl (fun k => issueNeutral_setEmpty s.turn (o.d.toNat + k)) (List.range 7)).comp
        ((issueNeutral_awaited (seen (.step h' o) h s) _).comp (issueNeutral_retireStep s.turn))) rfl
      (if_neg (by rw [hsup]; decide)) hsrc hdst
    · rintro - ⟨h1, h2, -⟩; exact hpre h1 h2
    · show (stepRegs o.d).map DstRef.reg = _
      rw [stepRegs, List.map_map]
      rfl
    · exact semStep_act (v := seen (.step h' o) h s) o (by rw [core_ticked, tick_progBank])
  case trigger h' o =>
    obtain rfl := Option.some.inj he
    obtain ⟨hsup, hwait⟩ := hr
    refine completes_changing hcan hm (by exact nofun) (fun _ => rfl) nofun nofun rfl rfl rfl rfl rfl (fun st => ?_) ?_ ?_
      (if_neg (by rw [hsup]; decide)) hsrc hdst
    · exact semTrigger_act (v := seen (.trigger h' o) h s) o (by rw [core_ticked]; exact tick_claim st _)
    · dsimp only
      split
      · exact (issueNeutral_claim s.turn _).comp (issueNeutral_modLaunch s.turn _ _)
      · exact issueNeutral_id _
    · show (!_ && !(Core.waitIds _ _ _).isEmpty) = false
      rw [hwait, Bool.not_true, Bool.and_false]
  all_goals cases he

/-! ## The floating-point trap (R70, R165) -/

theorem flagsTrap : FlagsTrap := by
  intro i h s hcan hi hdue
  have hstops := (solo_stops hcan (exec_slot (canIssue_hdr hcan) s)).1
  cases i
  case fence | fenceInstr | drain | bwait | exit => exact hstops rfl hdue
  all_goals exact hi.elim

/-- Settles O22: the waits are met, each change commutes with the count-down, and a delivery point's flags trap first. -/
theorem fencesBarriersAndSteps : Obligations.FencesBarriersAndSteps :=
  ⟨completes_fence, completes_barrier, completes_step, flagsTrap⟩

end Sys2Proof
end

section
/-! SUPPORT. The image of the loop stack in memory (R82). -/

namespace Sys2Proof

open Sys2Proof.Machine Sys2Proof.Claims

/-- A write of memory leaves the cores as they were. -/
theorem issueNeutral_write (n k m x : Nat) : IssueNeutral n (fun u => u.write k m x) :=
  issueNeutral_of_cores (fun _ _ => rfl) (fun _ => rfl)

/-- The words of an image, joined. -/
theorem joinBits_words (ws : List W64) : joinBits 64 (ws.map BitVec.toNat) = wordsValue ws := by
  induction ws with
  | nil => rfl
  | cons w ws ih => rw [List.map_cons, joinBits, wordsValue, ih, Nat.shiftLeft_eq, Nat.mul_comm]

theorem loopImage_eq (x : Ctx) : loopImage x = wordsValue (imageRegs.map x.spec) := by
  rw [← joinBits_words, List.map_map]
  rfl

/-- Word `k` of an image that is read from memory. -/
def imageWord (u : State) (key k : Nat) : W64 := BitVec.ofNat 64 (u.read key 152 >>> (64 * k))

theorem loopWords_eq {o : LoopMem} {v : Env} {t : Target} (ht : loopTarget o v = .ok t) :
    loopWords o v = (List.range 19).map (imageWord v.s t.key) := by
  rw [loopWords, ht]
  simp only
  rw [splitBits_eq, List.map_map]
  refine List.map_congr_left fun k _ => BitVec.eq_of_toNat_eq ?_
  simp only [Function.comp_apply, imageWord, BitVec.toNat_ofNat, Nat.mod_mod]

/-- The registers of the image with their words. -/
theorem zip_loopWords {o : LoopMem} {v : Env} {t : Target} (ht : loopTarget o v = .ok t) :
    loopImageRegs.zip (loopWords o v) = imageRegs.zipIdx.map (fun r => (r.1, imageWord v.s t.key r.2)) := by
  rw [loopWords_eq ht]
  rfl

/-- LLOAD puts the registers of the image into flight in their order. -/
theorem semLload_act {o : LoopMem} {v : Env} {t : Target} (ht : loopTarget o v = .ok t) (u : State) (f : Core → Core) :
    (semLload o).act v (u.modCore v.core f) = (u.modCore v.core f).landMany v.core
      (imageRegs.zipIdx.map (fun r => res v (.special r.1 (imageWord v.s t.key r.2)) 1)) := by
  rw [← foldl_land, List.foldl_map]
  simp only [semLload, zip_loopWords ht, List.foldl_map]
  rfl

/-- The image of an LLOAD passes its checks where its depth is six at most. -/
theorem semLload_check {o : LoopMem} {v : Env} {t : Target} (ht : loopTarget o v = .ok t)
    (hd : (imageWord v.s t.key 18).toNat ≤ 6) : (semLload o).check v = none := by
  have hword : (loopWords o v).getD 18 0 = imageWord v.s t.key 18 := by rw [loopWords_eq ht]; rfl
  simp only [semLload, ht, accessTrap, hword]
  exact if_neg (by omega)

/-- LSAVE stores the image at its place. -/
theorem semLsave_store {o : LoopMem} {v : Env} {t : Target} (ht : loopTarget o v = .ok t) (u : State) :
    (semLsave o).store v u = u.write t.key 160 (wordsValue (imageRegs.map v.x.spec)) := by
  simp only [semLsave, ht, loopImage_eq]

theorem semLsave_check {o : LoopMem} {v : Env} {t : Target} (ht : loopTarget o v = .ok t) :
    (semLsave o).check v = none := by
  simp only [semLsave, ht, accessTrap]

/-- An image waits for what orders it. -/
theorem loopWait_met {o : LoopMem} {v : Env} {t : Target} {write : Bool} (ht : loopTarget o v = .ok t)
    (hw : (v.c.waitIds false write).isEmpty = true) : localWait (loopTarget o v) v.c false write = false := by
  rw [ht]
  exact localWait_of _ _ _ _ (fun _ => hw)

/-- Settles O24: LSAVE writes the image at its store, LLOAD only yields the registers of one. -/
theorem loopImages : Obligations.LoopImages := by
  intro i h s e hcan hm he hsrc hdst hst hr
  cases i
  case lsave h' o =>
    dsimp only [loopEffect] at he
    split at he
    · cases he
    · next t ht =>
      have ht' : loopTarget o (seen (.lsave h' o) h s) = .ok t := ht
      obtain rfl := Option.some.inj he
      refine completes_changing hcan hm (by exact nofun) (fun _ => rfl) nofun nofun rfl rfl rfl rfl rfl (fun st => ?_)
        (issueNeutral_write s.turn t.key 160 _) (loopWait_met ht' hr) ?_ hsrc hdst
      · exact semLsave_store ht' _
      · exact semLsave_check ht'
  case lload h' o =>
    dsimp only [loopEffect] at he
    split at he
    · cases he
    · next t ht =>
      have ht' : loopTarget o (seen (.lload h' o) h s) = .ok t := ht
      obtain rfl := Option.some.inj he
      obtain ⟨hwait, hdepth⟩ := id hr
      exact completes_yielding hcan hm { act := semLload_act ht', wait := fun _ => loopWait_met ht' hwait,
                                         check := fun _ => semLload_check ht' hdepth } hsrc hdst hst hr
  all_goals cases he

end Sys2Proof
end

section
/-! SUPPORT. What the operations of ten tables read and write, as their records have it (R58, R189). -/

namespace Sys2Proof

open Sys2Proof.Machine Sys2Proof.Claims

/-- An operation that is no delivery point reads and writes what an effect says. -/
structure ReadsAndWrites (sem : OpSem) (e : Effect) : Prop where
  srcs     : sem.srcs = e.srcs := by rfl
  dsts     : sem.dsts = e.dsts := by rfl
  delivery : sem.delivery = false := by rfl

theorem YieldsOnly.readsAndWrites {sem : OpSem} {v : Env} {e : Effect} (h : YieldsOnly sem v e) : ReadsAndWrites sem e :=
  ⟨h.srcs, h.dsts, h.delivery⟩

theorem elementEffect_operands {v : Env} {i : Instr} {e : Effect} (he : elementEffect v i = some e) :
    ReadsAndWrites (semOf i) e := by
  cases i
  case vadd | vsub | vmul | vadds | vsubs | vmin | vmax | vmulh | vand | vor | vxor | vshl | vshr | vsar | vbfx | vbfxz
      | vfma | vfshr | vabs | vneg | vclz | vpopc | vmov =>
    obtain rfl := Option.some.inj he
    exact {}
  all_goals cases he

theorem permuteEffect_operands {v : Env} {i : Instr} {e : Effect} (he : permuteEffect v i = some e) :
    ReadsAndWrites (semOf i) e := by
  cases i
  case vsel | vbcast | vperm | vrot | viota | vins | vextr | vrsum | vrmax | vrmin | vror | vscan =>
    obtain rfl := Option.some.inj he
    exact {}
  all_goals cases he

theorem functionEffect_operands {v : Env} {i : Instr} {e : Effect} (he : functionEffect v i = some e) :
    ReadsAndWrites (semOf i) e := by
  cases i
  case xrcp | xrsq | xsqrt | xexp2 | xlog2 | xtanh | xsig | xdiv =>
    obtain rfl := Option.some.inj he
    exact {}
  case xcvt h o =>
    dsimp only [functionEffect] at he
    split at he <;> obtain rfl := Option.some.inj he <;> exact {}
  all_goals cases he

/-- A scalar load or store of any form, where its address passes the checks. -/
theorem scalarLoad_operands {v : Env} {srcs : List Src} {a : W64} {d : BitVec 6} {size : Nat} {sx : Bool} {ord : BitVec 2}
    {inc : List Flight} {e : Effect} (he : scalarLoad v srcs a d size sx ord inc = some e) :
    e.srcs = srcs.map srcRef ∧ e.dsts = [.reg d.toNat] := by
  rw [scalarLoad] at he
  split at he
  · cases he
  · obtain rfl := Option.some.inj he; exact ⟨rfl, rfl⟩

theorem scalarStore_operands {v : Env} {srcs : List Src} {a data : W64} {size : Nat} {ord : BitVec 2} {inc : List Flight}
    {e : Effect} (he : scalarStore v srcs a data size ord inc = some e) : e.srcs = srcs.map srcRef ∧ e.dsts = [] := by
  rw [scalarStore] at he
  split at he
  · cases he
  · obtain rfl := Option.some.inj he; exact ⟨rfl, rfl⟩

theorem lineLoad_operands {v : Env} {a : W64} {o : LineMem} {inc : List Flight} {e : Effect}
    (he : lineLoad v a o inc = some e) : e.srcs = [srcRef o.base] ∧ e.dsts = [.line o.line 1 o.ad] := by
  rw [lineLoad] at he
  split at he
  · cases he
  · obtain rfl := Option.some.inj he; exact ⟨rfl, rfl⟩

theorem lineStore_operands {v : Env} {a : W64} {o : LineMem} {inc : List Flight} {e : Effect}
    (he : lineStore v a o inc = some e) : e.srcs = [.line o.line 1 64 o.ad false, srcRef o.base] ∧ e.dsts = [] := by
  rw [lineStore] at he
  split at he
  · cases he
  · obtain rfl := Option.some.inj he; exact ⟨rfl, rfl⟩

theorem loadEffect_operands {v : Env} {i : Instr} {e : Effect} (he : loadEffect v i = some e) :
    ReadsAndWrites (semOf i) e := by
  cases i
  case ld | ldIndexed | ldPostinc =>
    obtain ⟨hsrcs, hdsts⟩ := scalarLoad_operands he
    exact { srcs := hsrcs.symm, dsts := hdsts.symm }
  all_goals cases he

theorem storeEffect_operands {v : Env} {i : Instr} {e : Effect} (he : storeEffect v i = some e) :
    ReadsAndWrites (semOf i) e := by
  cases i
  case st | stIndexed | stPostinc =>
    obtain ⟨hsrcs, hdsts⟩ := scalarStore_operands he
    exact { srcs := hsrcs.symm, dsts := hdsts.symm }
  all_goals cases he

theorem lineMemEffect_operands {v : Env} {i : Instr} {e : Effect} (he : lineMemEffect v i = some e) :
    ReadsAndWrites (semOf i) e := by
  cases i
  case ldl | ldlPostinc =>
    obtain ⟨hsrcs, hdsts⟩ := lineLoad_operands he
    exact { srcs := hsrcs.symm, dsts := hdsts.symm }
  case stl | stlPostinc =>
    obtain ⟨hsrcs, hdsts⟩ := lineStore_operands he
    exact { srcs := hsrcs.symm, dsts := hdsts.symm }
  all_goals cases he

/-- What an operation of the ten tables reads and writes. -/
theorem operandsOf_operands {v : Env} {i : Instr} {e : Effect} (he : operandsOf v i = some e) :
    ReadsAndWrites (semOf i) e := by
  obtain ⟨f, hf, hfe⟩ := List.exists_of_findSome?_eq_some he
  simp only [List.mem_cons, List.not_mem_nil, or_false] at hf
  rcases hf with rfl | rfl | rfl | rfl | rfl | rfl | rfl | rfl | rfl | rfl
  · exact (intEffect_yields _ _ _ hfe).readsAndWrites
  · exact (moveEffect_yields _ _ _ hfe).readsAndWrites
  · exact (predEffect_yields _ _ _ hfe).readsAndWrites
  · exact (fpEffect_yields _ _ _ hfe).readsAndWrites
  · exact elementEffect_operands hfe
  · exact permuteEffect_operands hfe
  · exact functionEffect_operands hfe
  · exact loadEffect_operands hfe
  · exact storeEffect_operands hfe
  · exact lineMemEffect_operands hfe

/-- The issue of an operation alone, one of whose sources with FE is empty (R190). -/
theorem issueOps_emptyTrap {n : Nat} {b : Bundle} {a : Active} {s0 : State} {v : Env} {t : Trap}
    (hv : v = { core := n, slot := a.slot.val, word := a.word, s := s0.modCore n Core.landDue, pc := (s0.ctx n).pc,
                popped := [], pushed := [] })
    (hfull : (s0.core n).landFull = false) (hg : guardTrue v.x a.word = true) (hd : a.sem.delivery = false)
    (he : findEmptyTrap [(a, v)] = some t) : issueOps n b [a] noBranch s0 = v.s.trap n t v.pc (s0.ctx n).rep := by
  have hx : v.x = ((s0.modCore n Core.landDue).core n).ctx := by rw [hv]; rfl
  have hpc : v.pc = (s0.ctx n).pc := by rw [hv]
  have hs : v.s = s0.modCore n Core.landDue := by rw [hv]
  rw [hx] at hg
  unfold issueOps
  rw [if_neg (by simp [hfull])]
  simp only [List.filter_cons, List.filter_nil, hg, if_true, envs]
  rw [← hv, hpc, hs]
  simp only [List.any_cons, List.any_nil, Bool.or_false, hd, Bool.false_eq_true, and_false, if_false, he]

/-- An operation that is no delivery point takes the full/empty trap of its first empty source with FE. -/
theorem emptyTrap_of {i : Instr} {h : Hdr} {s : State} (hcan : CanIssue i h s) (hd : (semOf i).delivery = false) {k : Nat}
    {r : SrcRef} (he : firstEmpty (seen i h s).c true [] 0 (semOf i).srcs = some (k, r)) :
    exec i s = .next ((begun i s).trap s.turn (emptyTrap h.slot.val k r) (s.ctx s.turn).pc (s.ctx s.turn).rep) := by
  obtain ⟨hrun, hfull, -, hi, hg⟩ := hcan
  have hrep : ((s.modCtx s.turn (fun x => { x with cur := some (soloBundle i) })).ctx s.turn).rep = (s.ctx s.turn).rep := by
    simp [State.ctx]
  rw [exec_slot hi, issueSlot, issueBundle, if_pos hrun,
    issueOps_emptyTrap (v := seen i h s) (t := emptyTrap h.slot.val k r) (by simp [seen, begun, State.ctx])
      (by rw [landFull_under_way, hfull])
      (by rw [guardTrue_encode i h hi]; show (((begun i s).ctx s.turn).pred h.pred.toNat != h.neg) = true
          rw [hg]; cases h.neg <;> rfl) hd
      (by have hp : (seen i h s).popped = [] := rfl
          simp only [findEmptyTrap, hp, he]), hrep]
  rfl

/-- Settles O32: the first test of the issue finds the empty source with FE; where there is none, the second stalls. -/
theorem emptyOperandsStopTheIssue : Obligations.EmptyOperandsStopTheIssue := by
  intro i h s e hcan he
  obtain ⟨hsrcs, hdsts, hdel⟩ := operandsOf_operands he
  refine ⟨fun k r hk => emptyTrap_of hcan hdel (by rw [hsrcs]; exact hk), fun hnone hempty => ?_⟩
  have hp : (seen i h s).popped = [] := rfl
  refine ((solo_stops hcan (exec_slot (canIssue_hdr hcan) s)).2 (fun hd => ?_) ?_).1 ?_
  · rw [hdel] at hd; cases hd
  · simp only [findEmptyTrap, hp, hsrcs, hnone]
  · simp only [opStalls, hp, hsrcs, hdsts, Bool.or_eq_true, List.any_eq_true]
    rcases hempty with hsrc | hdst
    · exact .inl (.inl (.inl (Option.isSome_iff_ne_none.2 hsrc)))
    · exact .inl (.inl (.inr hdst))

end Sys2Proof
end

section
/-! SUPPORT. The loop stack (R75, R76): what the loop-end test leaves of a context, and what LOOP, LPOP and a bundle without a
branch word make of it. -/

namespace Sys2Proof

open Sys2Proof.Machine Sys2Proof.Claims

/-! ## The loop-end test -/

theorem spec_putSpec (x : Ctx) (j : Nat) (v : W64) (k : Nat) : (x.putSpec j v).spec k = if k = j then v else x.spec k := by
  rw [Ctx.putSpec, Ctx.spec]
  exact FMap.look_put _ _ _ _ _

/-- The loop-end test alone does what `LoopTested` says. -/
theorem loopEnd_loopTested (len : Nat) (x : Ctx) :
    LoopTested len x { (loopEnd x.pc 7 x).1 with
      pc := (loopEnd x.pc 7 x).2.getD (x.pc + BitVec.ofNat 64 (8 * len)) } := by
  obtain ⟨-, -, -, -, -, -, -, -, -, -, -, -, -, -, -, -, htested⟩ := endCtx_issued len [] 0 [] x (Nat.zero_le 1)
  have hspec : ∀ k, (endCtx ((loopEnd x.pc 7 x).2.getD (x.pc + BitVec.ofNat 64 (8 * len))) (loopEnd x.pc 7 x).1 [] [] 0 x).spec k =
      (loopEnd x.pc 7 x).1.spec k := fun k => by
    rw [endCtx_spec _ _ _ _ _ (Nat.zero_le 1) x (fun k hk => loopEnd_frame _ _ _ k hk)]
    split <;> exact BitVec.add_zero _
  unfold LoopTested at htested
  simp only [hspec] at htested
  exact htested

theorem levelsLeft_le (x : Ctx) : levelsLeft x ≤ (x.spec SR.ldepth).toNat := by
  unfold levelsLeft
  dsimp only
  split
  · exact Nat.sub_le _ _
  · exact Nat.le_refl _

/-- The depth after the loop-end test, as a number. -/
theorem loopEnd_depth (x : Ctx) : ((loopEnd x.pc 7 x).1.spec SR.ldepth).toNat = levelsLeft x := by
  obtain ⟨-, hdepth, -⟩ := loopEnd_loopTested 2 x
  have h : (loopEnd x.pc 7 x).1.spec SR.ldepth = BitVec.ofNat 64 (levelsLeft x) := hdepth
  rw [h, BitVec.toNat_ofNat]
  exact Nat.mod_eq_of_lt (lt_of_le_of_lt (levelsLeft_le x) (x.spec SR.ldepth).isLt)

/-- The next bundle of a loop operation, which is two words long. -/
theorem loopEnd_past (x : Ctx) : (loopEnd x.pc 7 x).2.getD (x.pc + 16) = pastLoopOp x :=
  (loopEnd_loopTested 2 x).1

/-- Where no level ends, none goes. -/
theorem levelsLeft_noLoopEnd {x : Ctx} (hn : NoLoopEnd x) : levelsLeft x = (x.spec SR.ldepth).toNat := by
  have hnone : loopEnd x.pc 7 x = (x, none) := loopEnd_none _ _ _ hn
  rw [← loopEnd_depth, hnone]

theorem pastLoopOp_noLoopEnd {x : Ctx} (hn : NoLoopEnd x) : pastLoopOp x = x.pc + 16 := by
  have hnone : loopEnd x.pc 7 x = (x, none) := loopEnd_none _ _ _ hn
  rw [← loopEnd_past, hnone]
  rfl

/-! ## What a branch word that links nowhere leaves of its context -/

/-- The context after a branch word without a link is the resolved one, but for the count of issues. -/
structure BranchLeaves (next : W64) (xl : Ctx) (counts : Nat) (x y : Ctx) : Prop where
  kept : BranchKept counts x y
  s    : y.s = x.s
  pc   : y.pc = next
  spec : ∀ k, k ≠ SR.issues → y.spec k = xl.spec k

theorem branchCtx_leaves {next : W64} {xl : Ctx} {st : FMap W64} {counts : Nat} {x : Ctx} (hc : counts ≤ 1)
    (hx : ∀ k, k ∉ loopStackRegs → xl.spec k = x.spec k) : BranchLeaves next xl counts x (branchCtx 0 next xl st counts x) :=
  ⟨branchCtx_kept hc hx, rfl, rfl, fun _ hk => branchCtx_spec_ne hc hx hk⟩

/-- What a branch leaves goes into the statement about the core whose turn it is. -/
theorem ctxIssued_of_leaves {u : State} {n : Nat} {next : W64} {xl : Ctx} {st : Core → FMap W64} {P : Nat → Ctx → Ctx → Prop}
    (hx : ∀ k, k ∉ loopStackRegs → xl.spec k = (u.core n).ctx.spec k)
    (hP : ∀ counts y, BranchLeaves next xl counts (u.core n).ctx y → P counts (u.core n).ctx y) :
    CtxIssued n P u (u.modCore n (fun c => branchEnd 0 next xl (st c) c)) :=
  branchEnd_ctxIssued (hP _ _ (branchCtx_leaves (by split <;> decide) hx))

/-- The registers that the loop-end test and a change of the loop stack leave are those of the context. -/
theorem leaves_tested {next : W64} {xl : Ctx} {counts : Nat} {x y : Ctx} {keep : Nat → Prop}
    (hy : BranchLeaves next xl counts x y) (hx : ∀ k, k ∉ loopStackRegs → xl.spec k = x.spec k)
    (hkeep : ∀ l, l < 6 → keep l → xl.spec (SR.ls l) = (loopEnd x.pc 7 x).1.spec (SR.ls l) ∧
      xl.spec (SR.le l) = (loopEnd x.pc 7 x).1.spec (SR.le l) ∧ xl.spec (SR.lc l) = (loopEnd x.pc 7 x).1.spec (SR.lc l)) :
    LevelsTested keep x y := by
  obtain ⟨-, -, htested⟩ := loopEnd_loopTested 2 x
  refine ⟨fun k hk hi => (hy.spec k hi).trans (hx k hk), fun l hl hk => ?_⟩
  obtain ⟨hls, hle, hlc⟩ := hkeep l hl hk
  rw [hy.spec _ (by simp only [SR.ls, SR.issues]; omega), hy.spec _ (by simp only [SR.le, SR.issues]; omega),
    hy.spec _ (by simp only [SR.lc, SR.issues]; omega), hls, hle, hlc]
  exact htested l hl

/-! ## The issue of a loop operation -/

/-- The registers of the loop stack: the depth, and three of each level. -/
theorem not_loopStackReg {d k : Nat} (hd : d < 6) (hk : k ∉ loopStackRegs) :
    k ≠ SR.ldepth ∧ k ≠ SR.lc d ∧ k ≠ SR.ls d ∧ k ≠ SR.le d := by
  simp only [loopStackRegs, List.mem_cons, List.not_mem_nil, or_false] at hk
  simp only [SR.ldepth, SR.lc, SR.ls, SR.le]
  omega

/-- A level pushed above `d` others. -/
def pushLevel (count start fin : W64) (d : Nat) (x : Ctx) : Ctx :=
  (((x.putSpec (SR.lc d) count).putSpec (SR.ls d) start).putSpec (SR.le d) fin).putSpec SR.ldepth (BitVec.ofNat 64 (d + 1))

theorem pushLevel_spec (count start fin : W64) (d : Nat) (x : Ctx) (k : Nat) : (pushLevel count start fin d x).spec k =
    if k = SR.ldepth then BitVec.ofNat 64 (d + 1) else if k = SR.le d then fin else if k = SR.ls d then start
    else if k = SR.lc d then count else x.spec k := by
  rw [pushLevel, spec_putSpec, spec_putSpec, spec_putSpec, spec_putSpec]

theorem pushLevel_other {count start fin : W64} {d : Nat} {x : Ctx} {k : Nat}
    (hk : k ≠ SR.ldepth ∧ k ≠ SR.lc d ∧ k ≠ SR.ls d ∧ k ≠ SR.le d) : (pushLevel count start fin d x).spec k = x.spec k := by
  obtain ⟨h1, h2, h3, h4⟩ := hk
  rw [pushLevel_spec, if_neg h1, if_neg h4, if_neg h3, if_neg h2]

/-- What the branch word of a loop operation, alone in its bundle, sees. -/
theorem branchSeen_eq (i : Instr) (s : State) : branchSeen i s =
    ⟨s.turn, 9, 0, (underWay i s).modCore s.turn Core.landDue, ((underWay i s).ctx s.turn).pc, [], [], []⟩ := by
  rw [underWay_pc]
  rfl

/-- The context whose loop stack a branch word of core `turn` resolves. -/
theorem branchSeen_x (i : Instr) (s : State) : ((begun i s).core s.turn).ctx = (branchSeen i s).x := rfl

theorem branchSeen_pc (i : Instr) (s : State) : (branchSeen i s).pc = (branchSeen i s).x.pc := (begun_pc i s).symm

/-- A branch word that links nowhere, whose register is full and which resolves, completes with what its resolution
leaves. -/
theorem branch_completes {i : Instr} {s : State} {xl : Ctx} {next : W64} {P : Nat → Ctx → Ctx → Prop} (hcan : CanBranch i s)
    (hb : branchForm i ≠ 0) (hlink : (branchSemOf i).link = 0)
    (hreg : ∀ r, (branchSemOf i).reg = some r → (branchSeen i s).x.isEmpty r = false)
    (hres : resolve (branchSemOf i) (branchSeen i s) (branchSeen i s).x.pc (soloBundle i).len (lengthAt (begun i s) s.turn)
      (branchSeen i s).x = .ok (xl, next))
    (hx : ∀ k, k ∉ loopStackRegs → xl.spec k = (branchSeen i s).x.spec k)
    (hP : ∀ counts y, BranchLeaves next xl counts (branchSeen i s).x y → P counts (branchSeen i s).x y) :
    ∃ t, CtxIssued s.turn P (begun i s) t ∧ exec i s = .next t := by
  obtain ⟨hrun, hfull, -, -⟩ := hcan
  have hissue := issueOps_branch (branchSeen_eq i s) (underWay_landFull hfull) rfl hreg
    ((branchSeen_pc i s).symm ▸ hres)
  refine ⟨_, ?_, (exec_branch_runs hb hrun).trans (congrArg _ hissue)⟩
  rw [hlink]
  exact ctxIssued_of_leaves (st := fun c => stickyAt _ _ c.ctx.sticky) hx hP

/-- A branch word whose register is full and whose resolution traps takes that trap at its bundle. -/
theorem branch_traps {i : Instr} {s : State} {t : Trap} (hcan : CanBranch i s) (hb : branchForm i ≠ 0)
    (hreg : ∀ r, (branchSemOf i).reg = some r → (branchSeen i s).x.isEmpty r = false)
    (hres : resolve (branchSemOf i) (branchSeen i s) (branchSeen i s).x.pc (soloBundle i).len (lengthAt (begun i s) s.turn)
      (branchSeen i s).x = .error t) : TrapsAs i s t := by
  obtain ⟨hrun, hfull, -, -⟩ := hcan
  have hissue := issueOps_branch_trap (branchSeen_eq i s) (underWay_landFull hfull) rfl hreg
    ((branchSeen_pc i s).symm ▸ hres)
  have hrep : ((underWay i s).ctx s.turn).rep = (s.ctx s.turn).rep := by
    rw [underWay, State.ctx, State.core_modCtx_same, Core.ctx_setCtx]
    rfl
  rw [TrapsAs, exec_branch_runs hb hrun, hissue, hrep]
  rfl

/-! ## LOOP and LOOPI -/

/-- What LOOP and LOOPI ask of the resolution. -/
structure LoopSem (br : BranchSem) (v : Env) (r : Option (BitVec 6)) (count fin : W64) : Prop where
  reg    : br.reg = r.map BitVec.toNat
  target : ∀ len, br.target v len = none
  link   : br.link = 0
  push   : br.push v = some (count, fin)

theorem loopOf_sem {v : Env} {i : Instr} {r : Option (BitVec 6)} {count fin : W64} (hl : loopOf v i = some (r, count, fin)) :
    branchForm i ≠ 0 ∧ (soloBundle i).len = 2 ∧ LoopSem (branchSemOf i) v r count fin := by
  cases i
  case loop e q =>
    obtain ⟨rfl, rfl, rfl⟩ : some q = r ∧ v.x.sreg q.toNat = count ∧ v.pc + e.signExtend 64 * 8 = fin := by
      simpa only [loopOf, Option.some.injEq, Prod.mk.injEq] using hl
    exact ⟨Nat.one_ne_zero, rfl, rfl, fun _ => rfl, rfl, rfl⟩
  case loopImm e n =>
    obtain ⟨rfl, rfl, rfl⟩ : none = r ∧ n.setWidth 64 = count ∧ v.pc + e.signExtend 64 * 8 = fin := by
      simpa only [loopOf, Option.some.injEq, Prod.mk.injEq] using hl
    exact ⟨Nat.one_ne_zero, rfl, rfl, fun _ => rfl, rfl, rfl⟩
  all_goals cases hl

section
variable {br : BranchSem} {v : Env} {r : Option (BitVec 6)} {count fin : W64} (hb : LoopSem br v r count fin)
  (la : W64 → Except Trap Nat) (x : Ctx)
include hb

theorem resolve_loop_pushes (hc : count ≠ 0) (hd : levelsLeft x < 6) : resolve br v x.pc 2 la x =
    .ok (pushLevel count (x.pc + 16) fin (levelsLeft x) (loopEnd x.pc 7 x).1, pastLoopOp x) := by
  have hlt : ¬levelsLeft x ≥ 6 := by omega
  have hpast := loopEnd_past x
  simp only [resolve, hb.push, if_neg hc, hb.link, Ctx.setSreg, if_true, loopEnd_depth, if_neg hlt]
  rw [← hpast]
  rfl

theorem resolve_loop_full (hc : count ≠ 0) (hd : 6 ≤ levelsLeft x) : resolve br v x.pc 2 la x = .error ⟨1, 0, false, 0⟩ := by
  simp only [resolve, hb.push, if_neg hc, hb.link, Ctx.setSreg, if_true, loopEnd_depth, ge_iff_le, if_pos hd]
  rfl

theorem resolve_loop_skips (hc : count = 0) {len : Nat} (hlen : la fin = .ok len) : resolve br v x.pc 2 la x =
    .ok ({ x with rep := 0 }, fin + BitVec.ofNat 64 (8 * len)) := by
  simp only [resolve, hb.push, if_pos hc, hb.link, Ctx.setSreg, if_true, hlen]
  rfl

theorem resolve_loop_faults (hc : count = 0) {t : Trap} (hlen : la fin = .error t) : resolve br v x.pc 2 la x = .error t := by
  simp only [resolve, hb.push, if_pos hc, hlen]

end

/-- What a pushed level leaves outside the loop stack. -/
theorem pushLevel_frame {count start fin : W64} {x : Ctx} (hd : levelsLeft x < 6) {k : Nat} (hk : k ∉ loopStackRegs) :
    (pushLevel count start fin (levelsLeft x) (loopEnd x.pc 7 x).1).spec k = x.spec k :=
  (pushLevel_other (not_loopStackReg hd hk)).trans (loopEnd_frame _ _ _ k hk)

/-- A loop that starts beside levels that end or repeat at its bundle. -/
theorem loopPushed_of_leaves {count fin : W64} {counts : Nat} {x y : Ctx} (hd : levelsLeft x < 6)
    (hy : BranchLeaves (pastLoopOp x) (pushLevel count (x.pc + 16) fin (levelsLeft x) (loopEnd x.pc 7 x).1) counts x y) :
    LoopPushed count fin counts x y := by
  refine ⟨hy.kept, hy.s, hy.pc, ?_, ?_, ?_, ?_, leaves_tested hy (fun k hk => pushLevel_frame hd hk) fun l hl hne => ?_⟩
  · rw [hy.spec _ (by decide), pushLevel_spec, if_pos rfl]
  · rw [hy.spec _ (by simp only [SR.lc, SR.issues]; omega), pushLevel_spec,
      if_neg (by simp only [SR.lc, SR.ldepth]; omega), if_neg (by simp only [SR.lc, SR.le]; omega),
      if_neg (by simp only [SR.lc, SR.ls]; omega), if_pos rfl]
  · rw [hy.spec _ (by simp only [SR.ls, SR.issues]; omega), pushLevel_spec,
      if_neg (by simp only [SR.ls, SR.ldepth]; omega), if_neg (by simp only [SR.ls, SR.le]; omega), if_pos rfl]
  · rw [hy.spec _ (by simp only [SR.le, SR.issues]; omega), pushLevel_spec,
      if_neg (by simp only [SR.le, SR.ldepth]; omega), if_pos rfl]
  · refine ⟨pushLevel_other ?_, pushLevel_other ?_, pushLevel_other ?_⟩ <;>
      simp only [SR.ldepth, SR.lc, SR.ls, SR.le] <;> omega

/-- A loop that starts where no level ends. -/
theorem loopStarts_of_leaves {count fin : W64} {counts : Nat} {x y : Ctx} (hn : NoLoopEnd x) (hd : levelsLeft x < 6)
    (hy : BranchLeaves (pastLoopOp x) (pushLevel count (x.pc + 16) fin (levelsLeft x) (loopEnd x.pc 7 x).1) counts x y) :
    LoopStarts count fin counts x y := by
  obtain ⟨hkept, hs, hpc, hdepth, hlc, hls, hle, -⟩ := loopPushed_of_leaves hd hy
  have hnone : loopEnd x.pc 7 x = (x, none) := loopEnd_none _ _ _ hn
  have hspec := hy.spec
  rw [hnone, levelsLeft_noLoopEnd hn] at hspec
  rw [levelsLeft_noLoopEnd hn] at hdepth hlc hls hle
  refine ⟨hkept, hs, hpc.trans (pastLoopOp_noLoopEnd hn), hlc, hls, hle, ?_, fun k hk => ?_⟩
  · rw [hdepth]
    exact BitVec.eq_of_toNat_eq (by simp)
  · simp only [List.mem_cons, List.not_mem_nil, or_false, not_or] at hk
    obtain ⟨hi, h1, h2, h3, h4⟩ := hk
    rw [hspec k hi, pushLevel_other ⟨h4, h1, h2, h3⟩]

/-- A translation changes no core. -/
theorem wakeLine_cores (u : LineUse) (s : State) (pa : Nat) : (s.wakeLine u pa).cores = s.cores := by
  unfold State.wakeLine
  generalize s.lineChannels u pa = chs
  induction chs generalizing s with
  | nil => rfl
  | cons ch chs ih =>
    rw [List.foldl_cons, ih]
    rfl

theorem foldl_wakeLine_cores (u : LineUse) (s : State) (pas : List Nat) :
    (pas.foldl (State.wakeLine u) s).cores = s.cores := by
  induction pas generalizing s with
  | nil => rfl
  | cons pa pas ih => rw [List.foldl_cons, ih, wakeLine_cores]

theorem wakeWalk_cores (s : State) (va : Nat) : (s.wakeWalk va).cores = s.cores := by
  unfold State.wakeWalk
  split
  · rfl
  · exact foldl_wakeLine_cores _ _ _

theorem translate_cores (s : State) (va : Nat) (write : Bool) : (s.translate va write).1.cores = s.cores := by
  unfold State.translate
  dsimp only
  split
  · rfl
  · split <;> repeat' split
    all_goals simp only [wakeLine_cores, State.noteWalks, wakeWalk_cores]

/-- A word of code that the instruction cache does not hold otherwise is the word in memory. -/
theorem fetchWord_fresh {w v : State} {n k : Nat} {a : W64} (ht : w.translate a.toNat false = (v, .ok k))
    (hc : ∀ m, (w.core n).icache.find (a.toNat / 8) = some m → m = BitVec.ofNat 64 (v.read k 8)) :
    (fetchWord w n a).2 = .ok (BitVec.ofNat 64 (v.read k 8)) := by
  have hcore : v.core n = w.core n := by
    have h := translate_cores w a.toNat false
    rw [ht] at h
    rw [State.core, State.core, h]
  rw [fetchWord, ht]
  dsimp only
  rw [hcore]
  split
  · rfl
  next old hold => rw [if_pos (hc old hold)]

theorem lengthsOfEndBundles : LengthsOfEndBundles := by
  intro u n a w
  refine ⟨fun e he => ?_, fun v k ht hc => ?_⟩
  · obtain ⟨z, hz⟩ := fetchWord_untranslated (n := n) he
    rw [lengthAt, hz]
  · rw [lengthAt, fetchWord_fresh (w := w) ht hc, headerWords_eq]

/-- Settles O28: the resolution pushes on what the loop-end test leaves, passes an empty loop, or traps. -/
theorem loopsStart : Obligations.LoopsStart := by
  intro i s r count fin hcan hloop hfree
  obtain ⟨hb, hlen, hsem⟩ := loopOf_sem hloop
  have hreg : ∀ q, (branchSemOf i).reg = some q → (branchSeen i s).x.isEmpty q = false := by
    intro q hq
    obtain ⟨k, hk, rfl⟩ := Option.map_eq_some_iff.1 (hsem.reg.symm.trans hq)
    exact hfree k hk
  have hpush : count ≠ 0 → ∀ hd : levelsLeft (branchSeen i s).x < 6, _ := fun hc hd =>
    hlen.symm ▸ resolve_loop_pushes hsem (lengthAt (begun i s) s.turn) (branchSeen i s).x hc hd
  refine ⟨fun hc hd hn => ?_, fun hc hd => ?_, fun hc hd => ?_, fun len hc hla => ?_, fun t hc hla => ?_,
    lengthsOfEndBundles⟩
  · have hd' : levelsLeft (branchSeen i s).x < 6 := lt_of_le_of_lt (levelsLeft_le _) hd
    exact branch_completes hcan hb hsem.link hreg (hpush hc hd') (fun k hk => pushLevel_frame hd' hk)
      (fun _ _ hy => loopStarts_of_leaves hn hd' hy)
  · exact branch_completes hcan hb hsem.link hreg (hpush hc hd) (fun k hk => pushLevel_frame hd hk)
      (fun _ _ hy => loopPushed_of_leaves hd hy)
  · exact branch_traps hcan hb hreg (hlen.symm ▸ resolve_loop_full hsem _ _ hc hd)
  · exact branch_completes (xl := { (branchSeen i s).x with rep := 0 }) hcan hb hsem.link hreg
      (hlen.symm ▸ resolve_loop_skips hsem _ _ hc hla) (fun _ _ => rfl) (fun _ _ hy => ⟨hy.kept, hy.s, hy.pc, hy.spec⟩)
  · exact branch_traps hcan hb hreg (hlen.symm ▸ resolve_loop_faults hsem _ _ hc hla)

/-! ## LPOP -/

/-- The levels that LPOP leaves of those that the loop-end test leaves. -/
def popLevels (n : Nat) (x : Ctx) : Ctx :=
  if n = 0 then (loopEnd x.pc 7 x).1 else (loopEnd x.pc 7 x).1.putSpec SR.ldepth (BitVec.ofNat 64 (levelsLeft x - n))

theorem popLevels_spec (n : Nat) (x : Ctx) {k : Nat} (hk : k ≠ SR.ldepth) :
    (popLevels n x).spec k = (loopEnd x.pc 7 x).1.spec k := by
  unfold popLevels
  split
  · rfl
  · rw [spec_putSpec, if_neg hk]

theorem popLevels_depth (n : Nat) (x : Ctx) : (popLevels n x).spec SR.ldepth = BitVec.ofNat 64 (levelsLeft x - n) := by
  unfold popLevels
  split
  next h0 =>
    obtain ⟨-, hdepth, -⟩ := loopEnd_loopTested 2 x
    rw [h0]
    exact hdepth
  · rw [spec_putSpec, if_pos rfl]

theorem popLevels_frame (n : Nat) (x : Ctx) {k : Nat} (hk : k ∉ loopStackRegs) : (popLevels n x).spec k = x.spec k :=
  (popLevels_spec n x fun h => hk (by rw [h]; decide)).trans (loopEnd_frame _ _ _ k hk)

theorem resolve_lpop (n : BitVec 3) (v : Env) (la : W64 → Except Trap Nat) (x : Ctx) (hn : n.toNat ≤ levelsLeft x) :
    resolve (semLpop n) v x.pc 2 la x = .ok (popLevels n.toNat x, pastLoopOp x) := by
  have hle : ¬n.toNat > levelsLeft x := Nat.not_lt.2 hn
  have hpast := loopEnd_past x
  simp only [resolve, semLpop, Ctx.setSreg, if_true, loopEnd_depth, if_neg hle]
  rw [← hpast]
  rfl

theorem resolve_lpop_below (n : BitVec 3) (v : Env) (la : W64 → Except Trap Nat) (x : Ctx) (hn : levelsLeft x < n.toNat) :
    resolve (semLpop n) v x.pc 2 la x = .error ⟨1, 1, false, 0⟩ := by
  simp only [resolve, semLpop, Ctx.setSreg, if_true, loopEnd_depth, gt_iff_lt, if_pos hn]
  rfl

theorem levelsPopped_of_leaves {n counts : Nat} {x y : Ctx} (hy : BranchLeaves (pastLoopOp x) (popLevels n x) counts x y) :
    LevelsPopped n counts x y := by
  refine ⟨hy.kept, hy.s, hy.pc, (hy.spec _ (by decide)).trans (popLevels_depth n x),
    leaves_tested hy (fun k hk => popLevels_frame n x hk) fun l _ _ => ?_⟩
  refine ⟨popLevels_spec n x ?_, popLevels_spec n x ?_, popLevels_spec n x ?_⟩ <;>
    simp only [SR.ldepth, SR.lc, SR.ls, SR.le] <;> omega

theorem levelsGone_of_leaves {n counts : Nat} {x y : Ctx} (hno : NoLoopEnd x) (hn : n ≤ levelsLeft x)
    (hy : BranchLeaves (pastLoopOp x) (popLevels n x) counts x y) : LevelsGone n counts x y := by
  have hnone : loopEnd x.pc 7 x = (x, none) := loopEnd_none _ _ _ hno
  refine ⟨hy.kept, hy.s, hy.pc.trans (pastLoopOp_noLoopEnd hno), ?_, fun k hi hk => ?_⟩
  · rw [hy.spec _ (by decide), popLevels_depth]
    rw [levelsLeft_noLoopEnd hno] at hn ⊢
    rw [← BitVec.ofNat_sub_ofNat_of_le _ _ (lt_of_le_of_lt hn (BitVec.isLt _)) hn, BitVec.ofNat_toNat, BitVec.setWidth_eq]
  · rw [hy.spec k hi, popLevels_spec n x hk, hnone]

/-- Settles O29: the resolution removes levels of those that the loop-end test leaves, or traps. -/
theorem levelsPop : Obligations.LevelsPop := by
  have hb : ∀ n, branchForm (.lpop n) ≠ 0 := fun _ => Nat.one_ne_zero
  have hreg : ∀ n s q, (branchSemOf (.lpop n)).reg = some q → (branchSeen (.lpop n) s).x.isEmpty q = false :=
    fun _ _ _ hq => nomatch hq
  have hpops : ∀ (n : BitVec 3) (s : State) (P : Nat → Ctx → Ctx → Prop), CanBranch (.lpop n) s →
      n.toNat ≤ levelsLeft (branchSeen (.lpop n) s).x →
      (∀ counts y, BranchLeaves (pastLoopOp (branchSeen (.lpop n) s).x) (popLevels n.toNat (branchSeen (.lpop n) s).x) counts
        (branchSeen (.lpop n) s).x y → P counts (branchSeen (.lpop n) s).x y) →
      ∃ t, CtxIssued s.turn P (begun (.lpop n) s) t ∧ exec (.lpop n) s = .next t := fun n s P hcan hn hP =>
    branch_completes hcan (hb n) rfl (hreg n s) (resolve_lpop n _ _ _ hn) (fun k hk => popLevels_frame _ _ hk) hP
  refine ⟨fun n s hcan => ⟨fun hn => ?_, fun hn => ?_⟩, fun n s hcan hno => ?_⟩
  · exact hpops n s _ hcan hn fun _ _ hy => levelsPopped_of_leaves hy
  · exact branch_traps hcan (hb n) (hreg n s) (resolve_lpop_below n _ _ _ hn)
  · rw [← levelsLeft_noLoopEnd hno]
    exact ⟨fun hn => hpops n s _ hcan hn fun _ _ hy => levelsGone_of_leaves hno hn hy,
      fun hn => branch_traps hcan (hb n) (hreg n s) (resolve_lpop_below n _ _ _ hn)⟩

end Sys2Proof
end

section
/-! SUPPORT. The loop-end test of a bundle without a branch word (R75, R76). -/

namespace Sys2Proof

open Sys2Proof.Machine Sys2Proof.Claims

/-! ## SNOP -/

/-- The issue of SNOP is the loop-end test and the count of the issue. -/
theorem exec_snop {h : Hdr} {s : State} (hcan : CanIssue (.snop h) h s) :
    let x := (seen (.snop h) h s).x
    exec (.snop h) s = .next ((begun (.snop h) s).modCore s.turn (fun c =>
      branchEnd 0 ((loopEnd x.pc 7 x).2.getD (x.pc + 16)) (loopEnd x.pc 7 x).1
        (stickyAt (soloBundle (.snop h)) (s.ctx s.turn).rep c.ctx.sticky) c)) := by
  intro x
  have hslot : h.slot.val < 4 := by
    obtain ⟨-, -, hwf, hi, -⟩ := hcan
    exact Nat.lt_of_lt_of_le (slot_S (Option.some.inj (slot_of_class hwf hi)).symm) (by decide)
  have hp := slotPrivilege_modeHas (i := .snop h) (h := h) (s := s) fun _ => .inl hslot
  obtain ⟨he, hs, hc⟩ := ready_tests (i := .snop h) (h := h) (s := s) (sem := semSnop) trivial nofun nofun rfl rfl hp
  have hpc : (seen (.snop h) h s).pc = x.pc := (begun_pc (.snop h) s).symm
  obtain ⟨hrun, hfull, -, hi, hg⟩ := hcan
  have hrep : ((s.modCtx s.turn (fun x => { x with cur := some (soloBundle (.snop h)) })).ctx s.turn).rep =
      (s.ctx s.turn).rep := by simp [State.ctx]
  rw [exec_slot hi, issueSlot, issueBundle, if_pos hrun, show semOf (.snop h) = semSnop from rfl,
    issueOps_one (v := seen (.snop h) h s) (by simp [seen, begun, State.ctx]) (by rw [landFull_under_way, hfull]) rfl
      (by rw [guardTrue_encode _ h hi]; show (((begun (.snop h) s).ctx s.turn).pred h.pred.toNat != h.neg) = true
          rw [hg]; cases h.neg <;> rfl) (fun hd => by cases hd) he hs hc (by exact nofun) (fun hf => by cases hf), hrep, hpc, soloBundle_len _ h hi, soloEnd_eq]
  exact congrArg Host.Outcome.next (State.modCore_modCore (begun (.snop h) s) s.turn
    (fun c => tick (stickyAt (soloBundle (.snop h)) (s.ctx s.turn).rep c.ctx.sticky) c)
    (endCore ((loopEnd x.pc 7 x).2.getD (x.pc + 16)) (loopEnd x.pc 7 x).1))

/-! ## The levels that end -/

/-- The levels above `k` end on their last trip, and `k` does not. -/
theorem endingLevels_above {x : Ctx} {k n : Nat} (hk : k < n)
    (habove : ∀ l, l < n → k < l → x.spec (SR.le l) = x.pc ∧ x.spec (SR.lc l) = 1)
    (hstay : ¬(x.spec (SR.le k) = x.pc ∧ x.spec (SR.lc k) = 1)) : endingLevels x n = n - (k + 1) := by
  induction n with
  | zero => omega
  | succ n ih =>
    unfold endingLevels
    by_cases h : k = n
    · rw [if_neg (h ▸ hstay)]
      omega
    · rw [if_pos (habove n (by omega) (by omega)), ih (by omega) fun l hl => habove l (by omega)]
      omega

/-- The depth of `n` levels, of which six may be in use. -/
theorem levelsLeft_of_depth {x : Ctx} {n : Nat} (hn : (x.spec SR.ldepth).toNat = n) (h6 : n ≤ 6) :
    levelsLeft x = n - endingLevels x n := by
  simp only [levelsLeft, hn, if_pos h6]

theorem levelRepeats_iff {x : Ctx} :
    levelRepeats x = true ↔ (0 < levelsLeft x ∧ levelsLeft x ≤ 6) ∧ x.spec (SR.le (levelsLeft x - 1)) = x.pc := by
  rw [levelRepeats, Bool.and_eq_true, decide_eq_true_iff, beq_iff_eq]

/-- The registers of the loop stack, by level. -/
theorem mem_loopStackRegs {k : Nat} (hk : k ∈ loopStackRegs) :
    k = SR.ldepth ∨ ∃ l, l < 6 ∧ (k = SR.lc l ∨ k = SR.ls l ∨ k = SR.le l) := by
  simp only [loopStackRegs, List.mem_cons, List.not_mem_nil, or_false] at hk
  simp only [SR.ldepth, SR.lc, SR.ls, SR.le]
  by_cases h : k = 0x1E
  · exact .inl h
  · exact .inr ⟨k % 8, by omega, by omega⟩

/-- A register other than the depth and the counts of the levels that end or repeat is left as it was. -/
theorem loopEnd_keeps {x : Ctx} {k : Nat} (hd : k ≠ SR.ldepth)
    (hl : ∀ l, l < (x.spec SR.ldepth).toNat → levelsLeft x ≤ l ∨ (levelRepeats x = true ∧ l + 1 = levelsLeft x) → k ≠ SR.lc l) :
    (loopEnd x.pc 7 x).1.spec k = x.spec k := by
  by_cases hk : k ∈ loopStackRegs
  swap
  · exact loopEnd_frame _ _ _ k hk
  obtain ⟨-, -, htested⟩ := loopEnd_loopTested 2 x
  obtain rfl | ⟨l, hl6, hreg⟩ := mem_loopStackRegs hk
  · exact absurd rfl hd
  obtain ⟨hls, hle, hlc⟩ := htested l hl6
  obtain rfl | rfl | rfl := hreg
  · refine hlc.trans ?_
    have hleft := levelsLeft_le x
    rw [if_neg fun h => hl l h.2 (.inl h.1) rfl, if_neg fun h => hl l (by omega) (.inr h) rfl]
  · exact hls
  · exact hle

/-- A level `k` that ends at the bundle with trips left, under levels on their last trip. -/
theorem levelsShareEnd_of_leaves {x y : Ctx} {counts d k : Nat} (hd : (x.spec SR.ldepth).toNat = d + 1) (h6 : d < 6) (hk : k ≤ d)
    (hlast : ∀ l, l ≤ d → k < l → x.spec (SR.lc l) = 1) (hend : ∀ l, l ≤ d → k ≤ l → x.spec (SR.le l) = x.pc)
    (hmore : x.spec (SR.lc k) ≠ 1)
    (hy : BranchLeaves ((loopEnd x.pc 7 x).2.getD (x.pc + 16)) (loopEnd x.pc 7 x).1 counts x y) :
    LevelsShareEnd k counts x y := by
  have hends : endingLevels x (d + 1) = d + 1 - (k + 1) := endingLevels_above (by omega)
    (fun l hl hkl => ⟨hend l (by omega) (by omega), hlast l (by omega) hkl⟩) fun h => hmore h.2
  have hleft : levelsLeft x = k + 1 := by
    rw [levelsLeft_of_depth hd (by omega), hends]
    omega
  have hrep : levelRepeats x = true := by
    rw [levelRepeats_iff, hleft]
    exact ⟨⟨by omega, by omega⟩, hend k hk (Nat.le_refl k)⟩
  obtain ⟨-, hdepth, htested⟩ := loopEnd_loopTested 2 x
  have hcount : ∀ l, l < 6 → y.spec (SR.lc l) = (loopEnd x.pc 7 x).1.spec (SR.lc l) := fun l hl =>
    hy.spec _ (by simp only [SR.lc, SR.issues]; omega)
  refine ⟨hy.kept, hy.s, ?_, ?_, ?_, fun l hl hkl => ?_, fun m hi hm hlc => ?_⟩
  · rw [hy.pc, loopEnd_past, pastLoopOp, if_pos hrep, hleft]
    rfl
  · rw [hy.spec _ (by decide), ← hleft]
    exact hdepth
  · rw [hcount k (by omega)]
    refine (htested k (by omega)).2.2.trans ?_
    rw [if_neg (by omega), if_pos ⟨hrep, hleft.symm⟩]
  · rw [hd] at hl
    rw [hcount l (by omega)]
    refine (htested l (by omega)).2.2.trans ?_
    rw [if_pos (by omega)]
  · rw [hy.spec m hi]
    exact loopEnd_keeps hm fun l hl h => hlc l (by omega) hl

/-- The innermost level ends, and the next does not. -/
theorem levelEnds_of_leaves {x y : Ctx} {counts d : Nat} (hd : (x.spec SR.ldepth).toNat = d + 1) (h6 : d < 6)
    (hend : x.spec (SR.le d) = x.pc) (hlast : x.spec (SR.lc d) = 1) (hnext : d = 0 ∨ x.spec (SR.le (d - 1)) ≠ x.pc)
    (hy : BranchLeaves ((loopEnd x.pc 7 x).2.getD (x.pc + 16)) (loopEnd x.pc 7 x).1 counts x y) :
    LevelEnds counts x y := by
  have hends : endingLevels x (d + 1) = 1 := by
    rw [endingLevels, if_pos ⟨hend, hlast⟩]
    cases d with
    | zero => rfl
    | succ d =>
      rw [endingLevels, if_neg fun h => hnext.elim (by omega) fun hne => hne h.1]
  have hleft : levelsLeft x = d := by
    rw [levelsLeft_of_depth hd (by omega), hends]
    rfl
  have hrep : ¬levelRepeats x = true := by
    rw [levelRepeats_iff, hleft]
    rintro ⟨⟨hpos, -⟩, he⟩
    exact hnext.elim (by omega) fun hne => hne he
  obtain ⟨-, hdepth, htested⟩ := loopEnd_loopTested 2 x
  have hlevel : (x.spec SR.ldepth).toNat - 1 = d := by omega
  refine ⟨hy.kept, hy.s, ?_, ?_, ?_, fun k hi hlc hk => ?_⟩
  · rw [hy.pc, loopEnd_past, pastLoopOp, if_neg hrep]
  · rw [hlevel, hy.spec _ (by simp only [SR.lc, SR.issues]; omega)]
    refine (htested d h6).2.2.trans ?_
    rw [if_pos (by omega)]
  · rw [hy.spec _ (by decide)]
    refine hdepth.trans ?_
    rw [hleft]
    refine BitVec.eq_of_toNat_eq ?_
    rw [BitVec.toNat_sub_of_le (by rw [BitVec.le_def, hd]; exact Nat.le_add_left 1 d), hd, BitVec.toNat_ofNat]
    exact Nat.mod_eq_of_lt (by omega)
  · rw [hy.spec k hi]
    refine loopEnd_keeps hk fun l hl h => ?_
    have : l = d := by
      rcases h with h | ⟨h, -⟩
      · omega
      · exact absurd h hrep
    rw [this, ← hlevel]
    exact hlc

/-- The innermost level repeats: levels share an end, and none is above it. -/
theorem levelRepeats_of_sharesEnd {x y : Ctx} {counts d : Nat} (hd : (x.spec SR.ldepth).toNat = d + 1)
    (hs : LevelsShareEnd d counts x y) : LevelRepeats counts x y := by
  obtain ⟨hkept, hregs, hpc, hdepth, hcount, -, hother⟩ := hs
  have hlevel : (x.spec SR.ldepth).toNat - 1 = d := by omega
  refine ⟨hkept, hregs, hlevel.symm ▸ hpc, hlevel.symm ▸ hcount, fun k hi hlc => ?_⟩
  by_cases hk : k = SR.ldepth
  · rw [hk, hdepth, ← hd, BitVec.ofNat_toNat, BitVec.setWidth_eq]
  · refine hother k hi hk fun l hdl hl => ?_
    rw [show l = (x.spec SR.ldepth).toNat - 1 by omega]
    exact hlc

/-- Settles O30: the issue of SNOP is the loop-end test, whose answer follows from the levels that end. -/
theorem loopEndTest : Obligations.LoopEndTest := by
  intro h s d hcan hdepth h6 hend
  have hpc : (s.ctx s.turn).pc = (seen (.snop h) h s).x.pc := (begun_pc (.snop h) s).symm
  have hd : ((seen (.snop h) h s).x.spec SR.ldepth).toNat = d + 1 := by
    rw [hdepth, BitVec.toNat_ofNat]
    exact Nat.mod_eq_of_lt (by omega)
  have hissue : ∀ P : Nat → Ctx → Ctx → Prop,
      (∀ counts y, BranchLeaves ((loopEnd (seen (.snop h) h s).x.pc 7 (seen (.snop h) h s).x).2.getD
        ((seen (.snop h) h s).x.pc + 16)) (loopEnd (seen (.snop h) h s).x.pc 7 (seen (.snop h) h s).x).1 counts
        (seen (.snop h) h s).x y → P counts (seen (.snop h) h s).x y) →
      ∃ t, CtxIssued s.turn P (begun (.snop h) s) t ∧ exec (.snop h) s = .next t := fun P hP =>
    ⟨_, ctxIssued_of_leaves (st := fun c => stickyAt _ _ c.ctx.sticky) (fun k hk => loopEnd_frame _ _ _ k hk) hP,
      exec_snop hcan⟩
  rw [hpc] at hend ⊢
  refine ⟨fun hmore => hissue _ fun _ _ hy => ?_, fun hlast hnext => hissue _ fun _ _ hy => ?_,
    fun k hk hlast hends hmore => hissue _ fun _ _ hy => ?_⟩
  · exact levelRepeats_of_sharesEnd hd (levelsShareEnd_of_leaves hd h6 (Nat.le_refl d) (fun l hl hdl => by omega)
      (fun l hl hdl => (Nat.le_antisymm hl hdl) ▸ hend) hmore hy)
  · exact levelEnds_of_leaves hd h6 hend hlast hnext hy
  · exact levelsShareEnd_of_leaves hd h6 hk hlast hends hmore hy

end Sys2Proof
end

section
/-! SUPPORT. Stores and atomics (R82, R89 to R94): what they leave of memory. -/

namespace Sys2Proof

open Sys2Proof.Machine Sys2Proof.Claims

/-! ## Memory outside some ranges of bytes -/

/-- A byte lies in none of the ranges. -/
def OutsideAll (rs : List (Nat × Nat)) (k : Nat) : Prop := ∀ r ∈ rs, k < r.1 ∨ r.1 + r.2 ≤ k

/-- From memory `m` to `m'` no byte outside the ranges changes, and the canonical form is kept. -/
def KeepsOutside (rs : List (Nat × Nat)) (m m' : List Host.Cell) : Prop :=
  memWf m = true → memWf m' = true ∧ ∀ k, OutsideAll rs k → memByte m' k = memByte m k

theorem KeepsOutside.refl (rs : List (Nat × Nat)) (m : List Host.Cell) : KeepsOutside rs m m := fun h => ⟨h, fun _ _ => rfl⟩

theorem KeepsOutside.of_eq {rs : List (Nat × Nat)} {m m' : List Host.Cell} (h : m' = m) : KeepsOutside rs m m' :=
  h ▸ KeepsOutside.refl rs m

theorem KeepsOutside.trans {rs : List (Nat × Nat)} {m1 m2 m3 : List Host.Cell} (h : KeepsOutside rs m1 m2)
    (h' : KeepsOutside rs m2 m3) : KeepsOutside rs m1 m3 := fun hw =>
  ⟨(h' (h hw).1).1, fun k hk => ((h' (h hw).1).2 k hk).trans ((h hw).2 k hk)⟩

/-- A write within one of the ranges. -/
theorem keepsOutside_memWrite {rs : List (Nat × Nat)} {r : Nat × Nat} (hr : r ∈ rs) (m : List Host.Cell) {k n : Nat} (v en : Nat)
    (hlo : r.1 ≤ k) (hhi : k + n ≤ r.1 + r.2) : KeepsOutside rs m (memWrite m k n v en) := fun hw =>
  ⟨memWrite_wf k n v en hw, fun j hj => by
    have hout := hj r hr
    rw [memByte_memWrite _ _ _ _ _ hw, if_neg]
    rintro ⟨h1, h2, -⟩
    omega⟩

theorem keepsOutside_writeEn {rs : List (Nat × Nat)} {k n : Nat} (hr : (k, n) ∈ rs) (u : State) (v en : Nat) :
    KeepsOutside rs u.mem (u.writeEn k n v en).mem := keepsOutside_memWrite hr u.mem v en (Nat.le_refl _) (Nat.le_refl _)

theorem keepsOutside_write {rs : List (Nat × Nat)} {k n : Nat} (hr : (k, n) ∈ rs) (u : State) (v : Nat) :
    KeepsOutside rs u.mem (u.write k n v).mem := keepsOutside_writeEn hr u v _

/-- A change made for each element of a list. -/
theorem keepsOutside_foldl {α : Type} {rs : List (Nat × Nat)} (f : State → α → State) (l : List α)
    (hf : ∀ u, ∀ x ∈ l, KeepsOutside rs u.mem (f u x).mem) (u : State) : KeepsOutside rs u.mem (l.foldl f u).mem := by
  induction l generalizing u with
  | nil => exact .refl _ _
  | cons x l ih =>
    rw [List.foldl_cons]
    exact (hf u x (.head _)).trans (ih (fun u y hy => hf u y (.tail _ hy)) _)

/-! ## What the operations do to memory -/

theorem addAccess_mem (s : State) (n : Nat) (k : Core) (kind : RKind) (acq rel write reads : Bool) (cells : List RCell)
    (dst : RDst) (pc : W64) (handle : Option Nat) :
    (s.addAccess n k kind acq rel write reads cells dst pc handle).mem = s.mem := by
  unfold State.addAccess
  split
  · rfl
  · exact State.modCore_mem _ _ _

theorem landReg_mem (v : Env) (s : State) (r : BitVec 6) (d : W64) (l flags : Nat) (site : Option W64) :
    (v.landReg s r d l flags site).mem = s.mem := State.land_mem _ _ _

/-- A scalar store writes the bytes that its address names, or none yet. -/
theorem keepsOutside_storeAct {rs : List (Nat × Nat)} {v : Env} {a : W64} {size : Nat}
    (hr : ∀ t, v.scalarTarget a size = .ok t → (t.key, 2 ^ size) ∈ rs) (data : W64) (ord : BitVec 2) (u : State) :
    KeepsOutside rs u.mem (storeAct v a data size ord u).mem := by
  unfold storeAct
  split
  · exact .refl _ _
  next t ht =>
    dsimp only
    split
    · exact keepsOutside_write (hr t ht) u _
    · exact .of_eq (addAccess_mem ..)

theorem keepsOutside_stlStore {rs : List (Nat × Nat)} {v : Env} {a : W64}
    (hr : ∀ t, v.lineTarget a = .ok t → (t.key, 512) ∈ rs) (o : LineMem) (u : State) :
    KeepsOutside rs u.mem (stlStore v a o u).mem := by
  unfold stlStore
  split
  · exact .refl _ _
  next t ht =>
    dsimp only
    split
    · exact keepsOutside_writeEn (hr t ht) u _ _
    · exact .of_eq (addAccess_mem ..)

/-- The cell of an atomic changes its own bytes alone. -/
theorem keepsOutside_performCell {rs : List (Nat × Nat)} {r : Nat × Nat} (hr : r ∈ rs) {kind : RKind} (hkind : kind ≠ .evadd)
    {c : RCell} (hlo : r.1 ≤ c.key) (hhi : c.key + c.bytes ≤ r.1 + r.2) (u : State) :
    KeepsOutside rs u.mem (u.performCell kind c).1.mem := by
  cases kind
  case load => exact .refl _ _
  case store => exact keepsOutside_memWrite hr _ _ _ hlo hhi
  case amo => exact keepsOutside_memWrite hr _ _ _ hlo hhi
  case cas =>
    unfold State.performCell
    dsimp only
    split
    · exact keepsOutside_memWrite hr _ _ _ hlo hhi
    · exact .refl _ _
  case amol => exact keepsOutside_memWrite hr _ _ _ hlo hhi
  case evadd => exact absurd rfl hkind

theorem keepsOutside_atomicAct {rs : List (Nat × Nat)} {v : Env} {a : W64} {size : Nat} {kind : RKind} (hkind : kind ≠ .evadd)
    (hr : ∀ t, v.scalarTarget a size = .ok t → (t.key, 2 ^ size) ∈ rs) (dest : BitVec 6) (ord : BitVec 2) (data exp : Nat)
    (u : State) : KeepsOutside rs u.mem (atomicAct v a dest size ord kind data exp u).mem := by
  unfold atomicAct
  split
  · exact .refl _ _
  next t ht =>
    have hcell := keepsOutside_performCell (hr t ht) hkind
      (c := newCell t.key (2 ^ size) data (allBytes (2 ^ size)) exp) (Nat.le_refl _) (Nat.le_refl _) u
    dsimp only
    split
    · split
      · exact hcell.trans (.of_eq (landReg_mem ..))
      · exact hcell.trans (.of_eq ((State.modCore_mem ..).trans (addAccess_mem ..)))
    · exact .of_eq ((State.modCore_mem ..).trans (addAccess_mem ..))

theorem keepsOutside_amolAct {rs : List (Nat × Nat)} {v : Env} {o : Amol}
    (hr : ∀ t, v.lineTarget (amolAddr o v) = .ok t → (t.key, 512) ∈ rs) (u : State) :
    KeepsOutside rs u.mem (amolAct v o u).mem := by
  unfold amolAct
  split
  · exact .refl _ _
  next t ht =>
    dsimp only
    split
    · refine (keepsOutside_foldl (fun s c => (s.performCell (.amol o.op.toNat o.ty) c).1) _ (fun w c hc => ?_) u).trans
        (.of_eq (State.land_mem ..))
      obtain ⟨i, hi, rfl⟩ := List.mem_map.1 hc
      have hlane : i < 128 := List.mem_range.1 (List.mem_of_mem_filter hi)
      exact keepsOutside_performCell (hr t ht) (by exact nofun) (by simp only [newCell]; omega) (by simp only [newCell]; omega) w
    · exact .of_eq (addAccess_mem ..)

theorem keepsOutside_stxStore {rs : List (Nat × Nat)} {v : Env} {o : Gather}
    (hr : ∀ t ∈ laneTargets o v true, (t.2.key, 2 ^ o.size.toNat) ∈ rs) (u : State) :
    KeepsOutside rs u.mem (stxStore v o u).mem := by
  unfold stxStore
  dsimp only
  split
  · exact keepsOutside_foldl _ _ (fun w t ht => keepsOutside_write (hr t ht) w _) u
  · exact .of_eq (addAccess_mem ..)

theorem keepsOutside_lsave {rs : List (Nat × Nat)} {v : Env} {o : LoopMem}
    (hr : ∀ t, loopTarget o v = .ok t → (t.key, 160) ∈ rs) (u : State) :
    KeepsOutside rs u.mem ((semLsave o).store v u).mem := by
  show KeepsOutside rs u.mem (match loopTarget o v with | .ok t => u.write t.key 160 (loopImage v.x) | .error _ => u).mem
  split
  next t ht => exact keepsOutside_write (hr t ht) u _
  · exact .refl _ _

/-! ## What one issue does to memory -/

/-- The three phases of an operation in its issue. -/
def runs3 (sem : OpSem) (v : Env) (u : State) : State := sem.store v (sem.atom v (sem.act v u))

/-- A range that a store's address names. -/
theorem mem_rangeOf {x : Except Nat Target} {n : Nat} (t : Target) (h : x = .ok t) :
    (t.key, n) ∈ (match x with | .ok t => [(t.key, n)] | .error _ => ([] : List (Nat × Nat))) := by
  rw [h]
  exact .head _

/-- The phases of a store or an atomic change no byte outside those that `storedAt` names. -/
theorem runs3_keepsOutside {v : Env} {i : Instr} (hi : isStore i = true) (u : State) :
    KeepsOutside (storedAt v i) u.mem (runs3 (semOf i) v u).mem := by
  cases i
  case st h o => exact keepsOutside_storeAct mem_rangeOf _ _ u
  case stPostinc h o =>
    exact (KeepsOutside.of_eq (landReg_mem v u ..)).trans (keepsOutside_storeAct mem_rangeOf _ _ _)
  case stIndexed h o => exact keepsOutside_storeAct mem_rangeOf _ _ u
  case stl h o => exact keepsOutside_stlStore mem_rangeOf _ u
  case stlPostinc h o => exact (KeepsOutside.of_eq (landReg_mem v u ..)).trans (keepsOutside_stlStore mem_rangeOf _ _)
  case stx h o => exact keepsOutside_stxStore (fun t ht => List.mem_map_of_mem ht) u
  case amo h o => exact keepsOutside_atomicAct (by exact nofun) mem_rangeOf _ _ _ _ u
  case cas h o => exact keepsOutside_atomicAct (by exact nofun) mem_rangeOf _ _ _ _ u
  case amol h o => exact keepsOutside_amolAct mem_rangeOf u
  case lsave h o => exact keepsOutside_lsave mem_rangeOf u
  all_goals cases hi

/-- Stores and atomics neither deliver nor change the flow. -/
theorem isStore_plain {i : Instr} (hi : isStore i = true) : (semOf i).delivery = false ∧ (semOf i).flow = .plain := by
  cases i
  case st | stPostinc | stIndexed | stl | stlPostinc | stx | amo | cas | amol | lsave => exact ⟨rfl, rfl⟩
  all_goals cases hi

theorem popPorts_mem (n : Nat) (ps : List Nat) (s : State) : (popPorts n ps s).mem = s.mem := by
  unfold popPorts
  induction ps generalizing s with
  | nil => rfl
  | cons p ps ih => rw [List.foldl_cons, ih, State.modCore_mem]

theorem supervisorFault_eq : State.supervisorFault = fun s n =>
    match s.classify 0x27 .core n with
    | (u, cnt, lasting) => (u.errorRecord 0x27 .core n 0 cnt 3 lasting).fenceCore n := rfl

theorem fenced_of_recorded (n : Nat) (x : State × Nat × Bool) :
    ((match x with
      | (u, cnt, lasting) => (u.errorRecord 0x27 .core n 0 cnt 3 lasting).fenceCore n).core n).mode = .fenced := by
  obtain ⟨u, cnt, lasting⟩ := x
  exact fenceCore_mode (u.errorRecord 0x27 .core n 0 cnt 3 lasting) n

/-- A supervisor's fault fences its core. The equation is used as an equation of states, since the kernel compares modes of
states by evaluating them. -/
theorem supervisorFault_inSup (s : State) (n : Nat) : ((s.supervisorFault n).core n).inSup = false := by
  have h : s.supervisorFault n = match s.classify 0x27 .core n with
    | (u, cnt, lasting) => (u.errorRecord 0x27 .core n 0 cnt 3 lasting).fenceCore n := congrFun (congrFun supervisorFault_eq s) n
  rw [h, Core.inSup, fenced_of_recorded]
  rfl

/-- A trap that leaves a supervisor in its mode, or of a program, changes no memory. -/
theorem trap_mem {s : State} {n : Nat} {t : Trap} {pc : W64} {rep : Nat}
    (h : (s.core n).inSup = true → ((s.trap n t pc rep).core n).inSup = true) : (s.trap n t pc rep).mem = s.mem := by
  unfold State.trap at h ⊢
  dsimp only at h ⊢
  split
  next hs =>
    rw [if_pos hs, supervisorFault_inSup] at h
    exact absurd (h hs) Bool.false_ne_true
  · rfl

/-- The issue of one operation that does not change the flow: a trap, an issue that changes no memory, or the operation's
phases. -/
theorem issueOps_plain_mem {n : Nat} {b : Bundle} {a : Active} {s0 : State} {v : Env}
    (hv : v = { core := n, slot := a.slot.val, word := a.word, s := s0.modCore n Core.landDue, pc := (s0.ctx n).pc,
                popped := [], pushed := [] })
    (hb : b.rep = 0) (hdel : a.sem.delivery = false) (hflow : a.sem.flow = .plain) :
    (∃ t, issueOps n b [a] noBranch s0 = v.s.trap n t v.pc (s0.ctx n).rep) ∨
    (issueOps n b [a] noBranch s0).mem = s0.mem ∨
    ∃ u, u.mem = s0.mem ∧ (issueOps n b [a] noBranch s0).mem = (runs3 a.sem v u).mem := by
  have hnever : a.sem.delivery = true → v.x.spec SR.fpflags &&& v.x.spec SR.fpenable = 0 := fun hd => by
    rw [hdel] at hd
    cases hd
  cases hfull : (s0.core n).landFull
  case true =>
    refine .inr (.inl ?_)
    unfold issueOps
    rw [if_pos hfull]
    exact State.modCore_mem _ _ _
  cases hg : guardTrue v.x a.word
  case false =>
    refine .inr (.inl ?_)
    rw [issueOps_guard_false (by rw [hv] at hg; exact hg), issueOps_idle hfull hb]
    rfl
  cases he : findEmptyTrap [(a, v)]
  case some t => exact .inl ⟨t, issueOps_emptyTrap hv hfull hg hdel he⟩
  obtain ⟨hstalls, hchecks⟩ := (issueOps_tests hv hfull hg).2 hnever he
  cases hs : opStalls a v
  case true => exact .inr (.inl (by rw [hstalls hs]; exact State.modCore_mem _ _ _))
  cases hc : findCheck [(a, v)]
  case some t => exact .inl ⟨t, hchecks hs t hc⟩
  refine .inr (.inr ⟨v.s.modCore n (fun c => tick (stickyAt b (s0.ctx n).rep c.ctx.sticky) c), by rw [hv]; rfl, ?_⟩)
  rw [issueOps_one hv hfull hb hg hnever he hs hc (by rw [hflow]; exact nofun) (fun hf => by rw [hflow] at hf; cases hf),
    hflow, soloEnd_eq]
  exact (State.modCore_mem _ _ _).trans (popPorts_mem _ _ _)

/-- Settles O42: the issue is a trap, which fences a supervisor, or changes no memory but by the operation's phases. -/
theorem storesKeepOtherBytes : Obligations.StoresKeepOtherBytes := by
  intro i h s t hstore hwf hi hsup hmem hx k hk
  obtain ⟨hdel, hflow⟩ := isStore_plain hstore
  rw [exec_slot hi, issueSlot, issueBundle] at hx
  obtain rfl := Host.Outcome.next.inj hx
  cases hrun : (s.core s.turn).runs
  case false => rfl
  rw [if_pos hrun] at hsup
  rw [if_pos rfl]
  obtain ⟨tr, ht⟩ | hsame | ⟨u, hu, ht⟩ := issueOps_plain_mem (n := s.turn) (b := soloBundle i)
    (a := ⟨h.slot, encodeWord i, semOf i⟩) (v := seen i h s)
    (s0 := s.modCtx s.turn (fun x => { x with cur := some (soloBundle i) })) (by simp [seen, begun, State.ctx]) rfl hdel hflow
  · rw [ht] at hsup ⊢
    exact congrArg (fun m => memByte m k) (trap_mem fun hs => hsup ((seen_inSup i h s).symm.trans hs))
  · rw [hsame]
    rfl
  · rw [ht]
    exact (((runs3_keepsOutside hstore u) (by rw [hu]; exact hmem)).2 k hk).trans (by rw [hu]; rfl)

end Sys2Proof
end

section
/-! SUPPORT. RoundTo over the rationals (R217 to R219, R222): the model's rounding of a magnitude `m * 2 ^ e` is the rounding of
that number. -/

namespace Sys2Proof

open Sys2Proof.Machine Sys2Proof.Claims

/-! ## The multiple to which a magnitude rounds (R217) -/

/-- Whether a magnitude of `lo` units and `rem` parts of `one` rounds to the next multiple, when it lies between two. -/
def roundsUp (r : Num.Rnd) (neg : Bool) (lo rem one : Nat) : Prop :=
  match r.mode with
  | 0 => one < 2 * rem ∨ (2 * rem = one ∧ lo % 2 = 1)
  | 1 => False
  | 2 => neg = true
  | 3 => neg = false
  | 4 => one ≤ 2 * rem
  | _ => 65536 ≤ rem * 65536 / one + r.rnd16

theorem two_zpow_pos (q : Int) : (0 : ℚ) < 2 ^ q := zpow_pos (by norm_num) q

/-- What lies between multiples of the last kept bit's weight, in parts of it. -/
theorem floor_units {u : ℚ} (hu : 0 < u) {lo rem one : Nat} (hrem : rem < one) :
    ⌊u * (lo + rem / one) / u⌋ = (lo : Int) := by
  have hone : (0 : ℚ) < one := by exact_mod_cast (Nat.zero_le rem).trans_lt hrem
  have hlt : (rem : ℚ) / one < 1 := (div_lt_one hone).2 (by exact_mod_cast hrem)
  have hge : (0 : ℚ) ≤ (rem : ℚ) / one := by positivity
  rw [mul_div_cancel_left₀ _ hu.ne', Int.floor_eq_iff]
  push_cast
  constructor <;> linarith

/-- The tests of R217, on what lies above the lower multiple. -/
theorem half_units {u : ℚ} (hu : 0 < u) {rem one : Nat} (hrem : rem < one) :
    (u * ((rem : ℚ) / one) < u / 2 ↔ 2 * rem < one) ∧ (u / 2 < u * ((rem : ℚ) / one) ↔ one < 2 * rem) := by
  have hone : (0 : ℚ) < one := by exact_mod_cast (Nat.zero_le rem).trans_lt hrem
  have hscale : u * ((rem : ℚ) / one) = u / 2 * ((2 * rem : Nat) / (one : ℚ)) := by
    push_cast
    ring
  have hhalf : 0 < u / 2 := half_pos hu
  rw [hscale]
  constructor
  · rw [mul_lt_iff_lt_one_right hhalf, div_lt_one hone, Nat.cast_lt]
  · rw [lt_mul_iff_one_lt_right hhalf, one_lt_div hone, Nat.cast_lt]

theorem stipple_units {u : ℚ} (hu : 0 < u) (rem one rnd : Nat) :
    65536 ≤ ⌊u * ((rem : ℚ) / one) * 2 ^ 16 / u⌋ + (rnd : Int) ↔ 65536 ≤ rem * 65536 / one + rnd := by
  have hscale : u * ((rem : ℚ) / one) * 2 ^ 16 / u = ((rem * 65536 : Nat) : ℚ) / (one : Nat) := by
    push_cast
    field_simp
    norm_num
  rw [hscale, Rat.floor_natCast_div_natCast]
  exact_mod_cast Iff.rfl

/-- Between two multiples the tests of R217 choose. -/
theorem roundTo_between {r : Num.Rnd} {neg : Bool} {lo rem one : Nat} (q : Int) (hrem : rem < one) (h0 : rem ≠ 0) :
    (roundsUp r neg lo rem one → roundTo r.mode r.rnd16 neg (2 ^ q * ((lo : ℚ) + rem / one)) q = (lo + 1 : Nat) * 2 ^ q) ∧
    (¬roundsUp r neg lo rem one → roundTo r.mode r.rnd16 neg (2 ^ q * ((lo : ℚ) + rem / one)) q = lo * 2 ^ q) := by
  have hu := two_zpow_pos q
  have hfloor := floor_units hu (lo := lo) hrem
  unfold roundTo
  dsimp only
  rw [hfloor]
  generalize (2 : ℚ) ^ q = u at hu hfloor ⊢
  have hdiff : u * ((lo : ℚ) + rem / one) - u * ((lo : Int) : ℚ) = u * (rem / one) := by
    push_cast
    ring
  have hne : u * ((lo : ℚ) + rem / one) ≠ u * ((lo : Int) : ℚ) := by
    rw [← sub_ne_zero, hdiff]
    have hone : (0 : ℚ) < one := by exact_mod_cast (Nat.zero_le rem).trans_lt hrem
    have hpos : (0 : ℚ) < rem := by exact_mod_cast Nat.pos_of_ne_zero h0
    positivity
  obtain ⟨hlt, hgt⟩ := half_units hu hrem
  have hlo : u * ((lo : Int) : ℚ) = lo * u := by
    push_cast
    ring
  have hhi : u * ((lo : Int) : ℚ) + u = (lo + 1 : Nat) * u := by
    push_cast
    ring
  rw [if_neg hne, hdiff, hlo, ← hhi, hlo]
  obtain ⟨mode, rnd, sat⟩ := r
  unfold roundsUp
  match mode with
  | 0 =>
    simp only [hlt, hgt]
    rcases lt_trichotomy (2 * rem) one with h | h | h
    · rw [if_pos h]
      exact ⟨fun hup => by omega, fun _ => rfl⟩
    · rw [if_neg h.not_lt, if_neg h.not_gt]
      by_cases heven : lo % 2 = 0
      · rw [if_pos (by omega)]
        exact ⟨fun hup => by omega, fun _ => rfl⟩
      · rw [if_neg (by omega)]
        exact ⟨fun _ => rfl, fun hup => absurd (.inr ⟨h, by omega⟩) hup⟩
    · rw [if_neg h.le.not_gt, if_pos h]
      exact ⟨fun _ => rfl, fun hup => absurd (.inl h) hup⟩
  | 1 => exact ⟨False.elim, fun _ => rfl⟩
  | 2 => cases neg <;> simp
  | 3 => cases neg <;> simp
  | 4 =>
    simp only [hlt]
    by_cases h : 2 * rem < one
    · rw [if_pos h]
      exact ⟨fun hup => absurd h (Nat.not_lt.2 hup), fun _ => rfl⟩
    · rw [if_neg h]
      exact ⟨fun _ => rfl, fun hup => absurd (Nat.not_lt.1 h) hup⟩
  | n + 5 =>
    simp only [stipple_units hu]
    by_cases h : 65536 ≤ rem * 65536 / one + rnd
    · rw [if_pos h]
      exact ⟨fun _ => rfl, fun hup => absurd h hup⟩
    · rw [if_neg h]
      exact ⟨fun hup => absurd hup h, fun _ => rfl⟩

/-- A multiple rounds to itself. -/
theorem roundTo_multiple (mode rnd16 : Nat) (neg : Bool) (lo : Nat) (q : Int) :
    roundTo mode rnd16 neg (2 ^ q * (lo : ℚ)) q = lo * 2 ^ q := by
  have hu := two_zpow_pos q
  have hfloor : ⌊2 ^ q * (lo : ℚ) / 2 ^ q⌋ = (lo : Int) := by
    rw [mul_div_cancel_left₀ _ hu.ne']
    exact Int.floor_natCast lo
  unfold roundTo
  dsimp only
  rw [hfloor, if_pos (by push_cast; rfl)]
  push_cast
  ring

/-! ## The model's rounding to a multiple -/

/-- A magnitude `m * 2 ^ e` in units of `2 ^ q`: whole ones, and parts of one. -/
structure Units (m : Nat) (e q : Int) (lo rem one : Nat) : Prop where
  value : (m : ℚ) * 2 ^ e = 2 ^ q * ((lo : ℚ) + rem / one)
  parts : rem < one

/-- The whole units of `roundMag`, its remainder and its unit. -/
def magUnits (m : Nat) (e q : Int) : Nat × Nat × Nat :=
  let s := (q - e).toNat
  if q ≤ e then (m * 2 ^ (e - q).toNat, 0, 1) else (m / 2 ^ s, m % 2 ^ s, 2 ^ s)

theorem magUnits_units (m : Nat) (e q : Int) :
    Units m e q (magUnits m e q).1 (magUnits m e q).2.1 (magUnits m e q).2.2 := by
  unfold magUnits
  dsimp only
  split
  next h =>
    refine ⟨?_, Nat.one_pos⟩
    obtain ⟨d, hd⟩ := Int.eq_ofNat_of_zero_le (sub_nonneg.2 h)
    rw [show e = q + d by omega, zpow_add₀ two_ne_zero, show (q + d - q).toNat = d by omega, zpow_natCast]
    push_cast
    ring
  next h =>
    obtain ⟨d, hd⟩ := Int.eq_ofNat_of_zero_le (sub_nonneg.2 (le_of_not_ge h))
    refine ⟨?_, Nat.mod_lt _ (Nat.two_pow_pos _)⟩
    rw [show q = e + d by omega, show (e + d - e).toNat = d by omega, zpow_add₀ two_ne_zero, zpow_natCast]
    have hm : (m : ℚ) = 2 ^ d * (m / 2 ^ d : Nat) + (m % 2 ^ d : Nat) := by exact_mod_cast (Nat.div_add_mod m (2 ^ d)).symm
    have hpos : (0 : ℚ) < 2 ^ d := by positivity
    push_cast
    field_simp
    rw [hm]

/-- What `roundMag` answers of units and parts. -/
def rounded (r : Num.Rnd) (neg : Bool) (lo rem one : Nat) (k : Nat) (exact : Bool) : Prop :=
  (rem = 0 → k = lo ∧ exact = true) ∧ (rem ≠ 0 → exact = false ∧
    (roundsUp r neg lo rem one → k = lo + 1) ∧ (¬roundsUp r neg lo rem one → k = lo))

/-- The last step of `roundMag`: one more where the test of the mode says so and the magnitude is no multiple. -/
theorem rounded_of_test {r : Num.Rnd} {neg up : Bool} {lo rem one : Nat} (hup : up = true ↔ roundsUp r neg lo rem one) :
    rounded r neg lo rem one (if up && !(rem == 0 && !false) then lo + 1 else lo) (rem == 0 && !false) := by
  by_cases h0 : rem = 0
  · subst h0
    exact ⟨fun _ => by simp, fun h => absurd rfl h⟩
  · refine ⟨fun h => absurd h h0, fun _ => ⟨by simpa using h0, fun h => ?_, fun h => ?_⟩⟩
    · rw [hup.2 h]
      simp [h0]
    · rw [Bool.eq_false_iff.2 fun hu => h (hup.1 hu)]
      simp

theorem roundMag_rounded (r : Num.Rnd) (neg : Bool) (m : Nat) (e q : Int) :
    rounded r neg (magUnits m e q).1 (magUnits m e q).2.1 (magUnits m e q).2.2 (Num.roundMag r neg m e false q).1
      (Num.roundMag r neg m e false q).2 := by
  have hunits : magUnits m e q = (if q ≤ e then m * 2 ^ (e - q).toNat else m / 2 ^ (q - e).toNat,
      if q ≤ e then 0 else m % 2 ^ (q - e).toNat, if q ≤ e then 1 else 2 ^ (q - e).toNat) := by
    unfold magUnits
    split <;> rfl
  rw [hunits]
  unfold Num.roundMag
  refine rounded_of_test ?_
  generalize (if q ≤ e then m * 2 ^ (e - q).toNat else m / 2 ^ (q - e).toNat) = lo
  generalize (if q ≤ e then 0 else m % 2 ^ (q - e).toNat) = rem
  generalize (if q ≤ e then 1 else 2 ^ (q - e).toNat) = one
  obtain ⟨mode, rnd, sat⟩ := r
  unfold roundsUp
  match mode with
  | 0 => simp
  | 1 => simp
  | 2 => simp
  | 3 => simp
  | 4 => simp
  | n + 5 => simp

/-- The model's rounding to a multiple of `2 ^ q` is that of R217, and it is exact where the number is a multiple. -/
theorem roundTo_roundMag (r : Num.Rnd) (neg : Bool) (m : Nat) (e q : Int) :
    roundTo r.mode r.rnd16 neg ((m : ℚ) * 2 ^ e) q = (Num.roundMag r neg m e false q).1 * 2 ^ q ∧
    ((Num.roundMag r neg m e false q).2 = true ↔ ((Num.roundMag r neg m e false q).1 : ℚ) * 2 ^ q = (m : ℚ) * 2 ^ e) := by
  have hround := roundMag_rounded r neg m e q
  obtain ⟨hvalue, hparts⟩ := magUnits_units m e q
  generalize (magUnits m e q).1 = lo at hround hvalue
  generalize (magUnits m e q).2.1 = rem at hround hvalue hparts
  generalize (magUnits m e q).2.2 = one at hround hvalue hparts
  generalize (Num.roundMag r neg m e false q).1 = k at hround ⊢
  generalize (Num.roundMag r neg m e false q).2 = exact at hround ⊢
  obtain ⟨hmultiple, hbetween⟩ := hround
  have hu := two_zpow_pos q
  rw [hvalue]
  by_cases h0 : rem = 0
  · obtain ⟨rfl, rfl⟩ := hmultiple h0
    rw [h0, Nat.cast_zero, zero_div, add_zero]
    exact ⟨roundTo_multiple .., fun _ => mul_comm _ _, fun _ => rfl⟩
  · obtain ⟨rfl, hup, hdown⟩ := hbetween h0
    obtain ⟨hto_up, hto_down⟩ := roundTo_between (r := r) (neg := neg) (lo := lo) q hparts h0
    have hone : (0 : ℚ) < one := by exact_mod_cast (Nat.zero_le rem).trans_lt hparts
    have hpos : (0 : ℚ) < (rem : ℚ) / one := div_pos (by exact_mod_cast Nat.pos_of_ne_zero h0) hone
    have hlt : (rem : ℚ) / one < 1 := (div_lt_one hone).2 (by exact_mod_cast hparts)
    have hcomm : ∀ j : Nat, (j : ℚ) * 2 ^ q = 2 ^ q * ((lo : ℚ) + rem / one) → (j : ℚ) = lo + rem / one := fun j h =>
      mul_left_cancel₀ hu.ne' ((mul_comm _ _).trans h)
    by_cases h : roundsUp r neg lo rem one
    · rw [hup h]
      refine ⟨hto_up h, nofun, fun heq => ?_⟩
      have := hcomm _ heq
      push_cast at this
      linarith
    · rw [hdown h]
      refine ⟨hto_down h, nofun, fun heq => ?_⟩
      have := hcomm _ heq
      linarith

/-- R222: rounding to an integer. -/
theorem roundInt_roundTo (r : Num.Rnd) (neg : Bool) (m : Nat) (e : Int) :
    ((Num.roundInt r neg m e).1 : ℚ) = (if neg then -roundTo r.mode r.rnd16 neg ((m : ℚ) * 2 ^ e) 0
      else roundTo r.mode r.rnd16 neg ((m : ℚ) * 2 ^ e) 0) ∧
    ((Num.roundInt r neg m e).2 = true ↔ roundTo r.mode r.rnd16 neg ((m : ℚ) * 2 ^ e) 0 = (m : ℚ) * 2 ^ e) := by
  obtain ⟨hto, hexact⟩ := roundTo_roundMag r neg m e 0
  rw [zpow_zero, mul_one] at hto hexact
  rw [hto]
  refine ⟨?_, hexact⟩
  unfold Num.roundInt
  cases neg <;> simp

end Sys2Proof
end

section
/-! SUPPORT. The formats of R215 as tables of numbers, and RoundTo in each of them (R217 to R219). -/

namespace Sys2Proof

open Sys2Proof.Machine Sys2Proof.Claims

/-! ## The numbers of a format -/

/-- A number of `K` units of the last bit in the binade `d` above the subnormals has the code `d * 2 ^ f + K`. -/
theorem magnitude_units (t : FloatRow) {d K : Nat} (hK : K ≤ 2 ^ (t.f + 1)) (hd : d = 0 ∨ 2 ^ t.f ≤ K) :
    t.magnitude (d * 2 ^ t.f + K) = K * (2 : ℚ) ^ (t.emin - t.f + d) := by
  have hpos : 0 < 2 ^ t.f := Nat.two_pow_pos _
  unfold FloatRow.magnitude
  rw [pow_succ] at hK
  split
  next hlt =>
    obtain rfl : d = 0 := by
      refine hd.resolve_right fun h => ?_
      omega
    simp
  next hge =>
    by_cases hsub : K < 2 ^ t.f
    · obtain rfl := hd.resolve_right (Nat.not_le.2 hsub)
      omega
    by_cases hnext : K = 2 ^ t.f * 2
    · have hdiv : (d * 2 ^ t.f + K) / 2 ^ t.f = d + 2 := by
        rw [hnext, Nat.mul_comm d, ← Nat.mul_add, Nat.mul_div_cancel_left _ hpos]
      have hmod : (d * 2 ^ t.f + K) % 2 ^ t.f = 0 := by
        rw [hnext, Nat.mul_comm d, ← Nat.mul_add, Nat.mul_mod_right]
      rw [hdiv, hmod, hnext, show t.emin + ((d + 2 : Nat) : Int) - 1 - t.f = (t.emin - t.f + d) + 1 by push_cast; ring,
        zpow_add_one₀ two_ne_zero]
      push_cast
      ring
    · obtain ⟨j, rfl⟩ := Nat.exists_eq_add_of_le (Nat.not_lt.1 hsub)
      have hj : j < 2 ^ t.f := by omega
      have hsum : d * 2 ^ t.f + (2 ^ t.f + j) = j + 2 ^ t.f * (d + 1) := by ring
      have hdiv : (d * 2 ^ t.f + (2 ^ t.f + j)) / 2 ^ t.f = d + 1 := by
        rw [hsum, Nat.add_mul_div_left _ _ hpos, Nat.div_eq_of_lt hj, Nat.zero_add]
      have hmod : (d * 2 ^ t.f + (2 ^ t.f + j)) % 2 ^ t.f = j := by
        rw [hsum, Nat.add_mul_mod_self_left, Nat.mod_eq_of_lt hj]
      rw [hdiv, hmod, show t.emin + ((d + 1 : Nat) : Int) - 1 - t.f = t.emin - t.f + d by push_cast; ring]

/-- The codes of a format are in the order of their numbers. -/
theorem magnitude_strictMono (t : FloatRow) : StrictMono t.magnitude := by
  refine strictMono_nat_of_lt_succ fun c => ?_
  obtain ⟨d, K, rfl, hK, hd⟩ : ∃ d K, c = d * 2 ^ t.f + K ∧ K + 1 ≤ 2 ^ (t.f + 1) ∧ (d = 0 ∨ 2 ^ t.f ≤ K) := by
    by_cases hc : c < 2 ^ t.f
    · exact ⟨0, c, by rw [Nat.zero_mul, Nat.zero_add], by rw [pow_succ]; omega, .inl rfl⟩
    · have hdiv := Nat.div_add_mod c (2 ^ t.f)
      have hmod := Nat.mod_lt c (Nat.two_pow_pos t.f)
      obtain ⟨n, hn⟩ : ∃ n, c / 2 ^ t.f = n + 1 :=
        Nat.exists_eq_succ_of_ne_zero (Nat.div_pos (Nat.not_lt.1 hc) (Nat.two_pow_pos t.f)).ne'
      refine ⟨n, 2 ^ t.f + c % 2 ^ t.f, ?_, by rw [pow_succ]; omega, .inr (Nat.le_add_right _ _)⟩
      rw [← Nat.add_assoc, ← Nat.succ_mul, Nat.succ_eq_add_one, ← hn, Nat.mul_comm]
      exact hdiv.symm
  rw [magnitude_units t (Nat.le_of_succ_le hK) hd, Nat.add_assoc, magnitude_units t hK (hd.imp_right Nat.le_succ_of_le)]
  have hpos := two_zpow_pos (t.emin - t.f + d)
  push_cast
  linarith

/-- What the model's format has of a row of R215. -/
structure RowOf (t : FloatRow) (g : Num.Fmt) : Prop where
  width    : g.w = t.w
  fraction : g.f = t.f
  emin     : 1 - (g.b : Int) = t.emin
  maxBits  : g.maxBits = t.topCode
  top      : t.magnitude t.topCode = t.top
  inf      : g.special = .ieee ↔ t.inf = true
  infBits  : t.inf = true → g.emax * 2 ^ g.f = t.topCode + 1
  finite   : ∀ neg, g.nonFinite (g.sign neg g.maxBits) = false
  infinite : t.inf = true → ∀ neg, g.nonFinite (g.inf neg) = true

theorem rowOf {t : FloatRow} (ht : t ∈ floatRows) : RowOf t (Num.fmtOf t.ty) := by
  simp only [floatRows, List.mem_cons, List.not_mem_nil, or_false] at ht
  rcases ht with rfl | rfl | rfl | rfl | rfl | rfl <;>
    exact ⟨rfl, rfl, rfl, rfl, by norm_num [FloatRow.magnitude], by decide, by decide, by decide, by decide⟩

/-! ## The binade of a number -/

/-- The exponent of a number that is not zero. -/
theorem log2_add_eq {m : Nat} {e k : Int} (hlo : (2 : ℚ) ^ k ≤ m * 2 ^ e) (hhi : (m : ℚ) * 2 ^ e < 2 ^ (k + 1)) :
    m ≠ 0 ∧ (Nat.log2 m : Int) + e = k := by
  have hm : m ≠ 0 := by
    rintro rfl
    have := two_zpow_pos k
    simp at hlo
    linarith
  have hle : ((2 : ℚ) ^ ((Nat.log2 m : Int) + e)) ≤ m * 2 ^ e := by
    rw [zpow_add₀ two_ne_zero, zpow_natCast]
    exact mul_le_mul_of_nonneg_right (by exact_mod_cast Nat.log2_self_le hm) (two_zpow_pos e).le
  have hlt : (m : ℚ) * 2 ^ e < 2 ^ ((Nat.log2 m : Int) + e + 1) := by
    rw [show (Nat.log2 m : Int) + e + 1 = ((Nat.log2 m + 1 : Nat) : Int) + e by push_cast; ring, zpow_add₀ two_ne_zero,
      zpow_natCast]
    exact mul_lt_mul_of_pos_right (by exact_mod_cast Nat.lt_log2_self) (two_zpow_pos e)
  have h1 := (zpow_lt_zpow_iff_right₀ (one_lt_two (α := ℚ))).1 (hlo.trans_lt hlt)
  have h2 := (zpow_lt_zpow_iff_right₀ (one_lt_two (α := ℚ))).1 (hle.trans_lt hhi)
  exact ⟨hm, by omega⟩

/-- A magnitude between multiples of the last bit's weight rounds between them. -/
theorem roundMag_bounds (r : Num.Rnd) (neg : Bool) (m : Nat) (e q : Int) (B : Nat) :
    ((m : ℚ) * 2 ^ e < B * 2 ^ q → (Num.roundMag r neg m e false q).1 ≤ B) ∧
    ((B : ℚ) * 2 ^ q ≤ m * 2 ^ e → B ≤ (Num.roundMag r neg m e false q).1) := by
  have hround := roundMag_rounded r neg m e q
  obtain ⟨hvalue, hparts⟩ := magUnits_units m e q
  generalize (magUnits m e q).1 = lo at hround hvalue
  generalize (magUnits m e q).2.1 = rem at hround hvalue hparts
  generalize (magUnits m e q).2.2 = one at hround hvalue hparts
  generalize (Num.roundMag r neg m e false q).1 = k at hround ⊢
  have hone : (0 : ℚ) < one := by exact_mod_cast (Nat.zero_le rem).trans_lt hparts
  have hnonneg : (0 : ℚ) ≤ (rem : ℚ) / one := by positivity
  have hlt : (rem : ℚ) / one < 1 := (div_lt_one hone).2 (by exact_mod_cast hparts)
  have hu := two_zpow_pos q
  have hk : lo ≤ k ∧ k ≤ lo + 1 := by
    obtain ⟨hmultiple, hbetween⟩ := hround
    by_cases h0 : rem = 0
    · obtain ⟨rfl, -⟩ := hmultiple h0
      omega
    · obtain ⟨-, hup, hdown⟩ := hbetween h0
      by_cases h : roundsUp r neg lo rem one
      · rw [hup h]
        omega
      · rw [hdown h]
        omega
  rw [hvalue, mul_comm (B : ℚ)]
  constructor <;> intro h
  · have hB : (lo : ℚ) < B := by
      have := lt_of_mul_lt_mul_left h hu.le
      linarith
    have : lo < B := by exact_mod_cast hB
    omega
  · have hB : (B : ℚ) < lo + 1 := by
      have := le_of_mul_le_mul_left h hu
      linarith
    have : B < lo + 1 := by exact_mod_cast hB
    omega

/-! ## RoundTo -/

/-- The overflowing result and its flags (R218). -/
theorem overflow_eq {t : FloatRow} {g : Num.Fmt} (hrow : RowOf t g) (r : Num.Rnd) (neg : Bool) (hmode : r.mode < 6) :
    (g.overflow r neg, Num.OF ||| Num.NX ||| Num.flagIf (g.nonFinite (g.overflow r neg)) Num.NF) =
      if t.inf = true ∧ r.sat = false ∧ r.mode ≠ 1 ∧ (r.mode = 2 → neg = true) ∧ (r.mode = 3 → neg = false) then
        ((if neg then 2 ^ (t.w - 1) else 0) + t.topCode + 1, 4 + 16 + 32)
      else ((if neg then 2 ^ (t.w - 1) else 0) + t.topCode, 4 + 16) := by
  have hinf : t.inf = true → g.inf neg = (if neg then 2 ^ (t.w - 1) else 0) + t.topCode + 1 := fun h => by
    rw [Num.Fmt.inf, Num.Fmt.sign, hrow.infBits h, hrow.width]
    cases neg <;> simp only [Bool.false_eq_true, if_false, if_true] <;> omega
  have hmax : g.sign neg g.maxBits = (if neg then 2 ^ (t.w - 1) else 0) + t.topCode := by
    rw [Num.Fmt.sign, hrow.maxBits, hrow.width]
    cases neg <;> simp only [Bool.false_eq_true, if_false, if_true] <;> omega
  have hover : g.overflow r neg = if t.inf = true ∧ r.sat = false ∧ r.mode ≠ 1 ∧ (r.mode = 2 → neg = true) ∧
      (r.mode = 3 → neg = false) then g.inf neg else g.sign neg g.maxBits := by
    unfold Num.Fmt.overflow
    obtain ⟨mode, rnd, sat⟩ := r
    have hs := hrow.inf
    by_cases hi : t.inf = true
    · have hg := hs.2 hi
      match mode with
      | 0 | 1 | 2 | 3 | n + 4 => cases sat <;> cases neg <;> simp [hi, hg]
    · have hg : g.special ≠ .ieee := fun h => hi (hs.1 h)
      simp [hi, hg]
  rw [hover]
  split
  next h =>
    rw [hinf h.1, ← hinf h.1, hrow.infinite h.1]
    rfl
  next h =>
    rw [hrow.finite, hmax]
    rfl

/-- The rounding of a magnitude that is not zero, by the code that its multiple of the last bit's weight has. -/
theorem round_eq {g : Num.Fmt} (r : Num.Rnd) (neg : Bool) {m d K : Nat} {exact : Bool} {e x : Int} (hm : m ≠ 0)
    (hx : (Nat.log2 m : Int) + e = x) (hd : max x (1 - (g.b : Int)) - g.f = g.qmin + d)
    (hK : Num.roundMag r neg m e false (g.qmin + d) = (K, exact)) (hzero : K = 0 → d = 0) :
    g.round r neg m e false =
      if g.maxBits < d * 2 ^ g.f + K then
        (g.overflow r neg, Num.OF ||| Num.NX ||| Num.flagIf (g.nonFinite (g.overflow r neg)) Num.NF)
      else (g.sign neg (d * 2 ^ g.f + K), Num.flagIf (!exact) Num.NX ||| Num.flagIf (!exact && (decide (x < 1 - (g.b : Int)) &&
        !(x == 1 - (g.b : Int) - 1 && (Num.roundMag r neg m e false (x - g.f)).1 == 2 ^ (g.f + 1)))) Num.UF) := by
  have hbits : (if K = 0 then (0 : Int) else (g.qmin + d - g.qmin) * 2 ^ g.f + K) = ((d * 2 ^ g.f + K : Nat) : Int) := by
    split
    next h => rw [h, hzero h, Nat.zero_mul, Nat.add_zero, Nat.cast_zero]
    next => push_cast; ring
  unfold Num.Fmt.round
  simp only [hm, decide_false, Bool.false_and, Bool.false_eq_true, if_false, hx, hd, hK, hbits, gt_iff_lt, Nat.cast_lt,
    Int.toNat_natCast]

/-- A number below the binade of the format's least normal one rounds to a tiny one, unless it rounds up to that (R219). -/
theorem tiny_iff {t : FloatRow} (r : Num.Rnd) (neg : Bool) {m : Nat} {e k : Int} (hlo : (2 : ℚ) ^ k ≤ m * 2 ^ e)
    (hhi : (m : ℚ) * 2 ^ e < 2 ^ (k + 1)) :
    (k < t.emin ∧ ¬(k = t.emin - 1 ∧ (Num.roundMag r neg m e false (k - t.f)).1 = 2 ^ (t.f + 1))) ↔
      roundTo r.mode r.rnd16 neg ((m : ℚ) * 2 ^ e) (k - t.f) < 2 ^ t.emin := by
  have hscale : ∀ j : Nat, ((2 ^ j : Nat) : ℚ) * 2 ^ (k - t.f) = 2 ^ (k - t.f + j) := fun j => by
    rw [zpow_add₀ two_ne_zero, zpow_natCast, mul_comm]
    push_cast
    rfl
  obtain ⟨hmax, -⟩ := roundMag_bounds r neg m e (k - t.f) (2 ^ (t.f + 1))
  obtain ⟨-, hmin⟩ := roundMag_bounds r neg m e (k - t.f) (2 ^ t.f)
  rw [hscale, show k - t.f + ((t.f + 1 : Nat) : Int) = k + 1 by push_cast; ring] at hmax
  rw [hscale, sub_add_cancel] at hmin
  replace hmax := hmax hhi
  replace hmin := hmin hlo
  rw [(roundTo_roundMag r neg m e (k - t.f)).1]
  generalize (Num.roundMag r neg m e false (k - t.f)).1 = K at hmax hmin ⊢
  have hu := two_zpow_pos (k - t.f)
  have hup : (K : ℚ) * 2 ^ (k - t.f) ≤ 2 ^ (k + 1) := by
    rw [show k + 1 = k - t.f + ((t.f + 1 : Nat) : Int) by push_cast; ring, ← hscale]
    exact mul_le_mul_of_nonneg_right (by exact_mod_cast hmax) hu.le
  have hdown : (2 : ℚ) ^ k ≤ K * 2 ^ (k - t.f) := by
    rw [← sub_add_cancel k (t.f : Int), ← hscale, add_sub_cancel_right]
    exact mul_le_mul_of_nonneg_right (by exact_mod_cast hmin) hu.le
  rcases lt_trichotomy k (t.emin - 1) with hk | hk | hk
  · refine ⟨fun _ => ?_, fun _ => ⟨by omega, fun h => by omega⟩⟩
    exact hup.trans_lt ((zpow_lt_zpow_iff_right₀ (one_lt_two (α := ℚ))).2 (by omega))
  · have hemin : t.emin = k - t.f + ((t.f + 1 : Nat) : Int) := by
      push_cast
      omega
    rw [hemin, ← hscale, mul_lt_mul_iff_left₀ hu, Nat.cast_lt, ← hemin]
    constructor
    · rintro ⟨-, hne⟩
      exact lt_of_le_of_ne hmax fun h => hne ⟨hk, h⟩
    · exact fun h => ⟨by omega, fun hne => h.ne hne.2⟩
  · refine ⟨fun h => by omega, fun h => absurd h (not_lt.2 ?_)⟩
    exact ((zpow_le_zpow_iff_right₀ (one_lt_two (α := ℚ))).2 (by omega)).trans hdown

/-- The flags of a result that does not overflow (R219). -/
theorem inexactFlags_eq (exact tiny : Bool) : Num.flagIf (!exact) Num.NX ||| Num.flagIf (!exact && tiny) Num.UF =
    if exact = true then 0 else if tiny = true then 16 + 8 else 16 := by
  cases exact <;> cases tiny <;> rfl

/-- R217 to R219: the model rounds a magnitude to the pattern of the rounded number, with its flags. -/
theorem round_roundsTo {t : FloatRow} {g : Num.Fmt} (hrow : RowOf t g) (r : Num.Rnd) (hmode : r.mode < 6) (neg : Bool) (m : Nat)
    (e : Int) : RoundsTo t r neg ((m : ℚ) * 2 ^ e) (g.round r neg m e false) := by
  have hsign : ∀ c, g.sign neg c = (if neg then 2 ^ (t.w - 1) else 0) + c := fun c => by
    rw [Num.Fmt.sign, hrow.width]
    cases neg <;> simp only [Bool.false_eq_true, if_false, if_true] <;> omega
  refine ⟨fun hx => ?_, fun k hlo hhi => ?_⟩
  · obtain rfl : m = 0 := by
      have := (mul_eq_zero.1 hx).resolve_right (two_zpow_pos e).ne'
      exact_mod_cast this
    have hround : g.round r neg 0 e false = (g.sign neg 0, 0) := rfl
    rw [hround, hsign, Nat.add_zero]
  obtain ⟨hm, hexp⟩ := log2_add_eq hlo hhi
  have hqmin : g.qmin = t.emin - t.f := by rw [Num.Fmt.qmin, hrow.emin, hrow.fraction]
  obtain ⟨d, hd⟩ := Int.eq_ofNat_of_zero_le (sub_nonneg.2 (le_max_right k t.emin))
  have hq : max k t.emin - t.f = t.emin - t.f + (d : Int) := by
    rw [show ((d : Nat) : Int) = max k t.emin - t.emin from hd.symm]
    ring
  obtain ⟨hto, hexact⟩ := roundTo_roundMag r neg m e (t.emin - t.f + d)
  obtain ⟨hmax, -⟩ := roundMag_bounds r neg m e (t.emin - t.f + d) (2 ^ (t.f + 1))
  obtain ⟨-, hmin⟩ := roundMag_bounds r neg m e (t.emin - t.f + d) (2 ^ t.f)
  have heq := round_eq (g := g) r neg hm hexp (d := d) (by rw [hrow.emin, hrow.fraction, hqmin, hq]) (Prod.mk.eta).symm
  rw [hqmin, hrow.fraction, hrow.maxBits, hrow.emin] at heq
  dsimp only
  rw [hq, hto]
  generalize (Num.roundMag r neg m e false (t.emin - t.f + d)).1 = K at *
  generalize (Num.roundMag r neg m e false (t.emin - t.f + d)).2 = exact at *
  have hK : K ≤ 2 ^ (t.f + 1) := by
    refine hmax (hhi.trans_le ?_)
    push_cast
    rw [← zpow_natCast, ← zpow_add₀ two_ne_zero]
    refine (zpow_le_zpow_iff_right₀ (one_lt_two (α := ℚ))).2 ?_
    push_cast
    omega
  have hnormal : d = 0 ∨ 2 ^ t.f ≤ K := by
    refine (Nat.eq_zero_or_pos d).imp_right fun hpos => hmin (le_trans ?_ hlo)
    push_cast
    rw [← zpow_natCast, ← zpow_add₀ two_ne_zero]
    exact (zpow_le_zpow_iff_right₀ (one_lt_two (α := ℚ))).2 (by omega)
  have hcode := magnitude_units t hK hnormal
  replace heq := heq fun h0 => hnormal.resolve_right (by rw [h0]; exact Nat.not_le.2 (Nat.two_pow_pos _))
  have hle : (K : ℚ) * 2 ^ (t.emin - t.f + d) ≤ t.top ↔ d * 2 ^ t.f + K ≤ t.topCode := by
    rw [← hcode, ← hrow.top]
    exact (magnitude_strictMono t).le_iff_le
  rw [heq]
  refine ⟨fun htop => ?_, fun htop => ?_⟩
  · have hc := hle.1 htop
    rw [if_neg (Nat.not_lt.2 hc)]
    refine ⟨_, hc, hcode, hsign _, ?_⟩
    have htiny := tiny_iff (t := t) r neg hlo hhi
    rw [inexactFlags_eq]
    refine if_congr hexact rfl (if_congr (Iff.trans ?_ htiny) rfl rfl)
    simp only [Bool.and_eq_true, decide_eq_true_eq, Bool.not_eq_true', Bool.and_eq_false_imp, beq_iff_eq, beq_eq_false_iff_ne,
      not_and, ne_eq]
  · have hc : ¬(d * 2 ^ t.f + K ≤ t.topCode) := fun h => not_le.2 htop (hle.2 h)
    rw [if_pos (Nat.not_le.1 hc)]
    exact overflow_eq hrow r neg hmode

end Sys2Proof
end

section
/-! SUPPORT. Sums, products and fused products (R220, R221): the operands of the formats that have them, and one rounding of the
exact result. -/

namespace Sys2Proof

open Sys2Proof.Machine Sys2Proof.Claims

/-! ## Operands -/

/-- A format of which operations take operands: it encodes specials as IEEE does. -/
structure IeeeRow (t : FloatRow) (g : Num.Fmt) : Prop where
  row  : RowOf t g
  inf  : t.inf = true
  nan  : g.nan = t.topCode + 1 + 2 ^ (t.f - 1)
  span : 2 ^ (t.w - 1) = t.topCode + 1 + 2 ^ t.f
  fpos : 0 < t.f
  fle  : t.f ≤ t.w - 1

theorem ieeeRow {t : FloatRow} (ht : t ∈ floatRows) (hty : t.ty ∈ ([8, 9, 10] : List (BitVec 4))) : IeeeRow t (Num.fmtOf t.ty) := by
  have hrow := rowOf ht
  simp only [floatRows, List.mem_cons, List.not_mem_nil, or_false] at ht
  rcases ht with rfl | rfl | rfl | rfl | rfl | rfl
  · exact ⟨hrow, rfl, rfl, rfl, by decide, by decide⟩
  · exact ⟨hrow, rfl, rfl, rfl, by decide, by decide⟩
  · exact ⟨hrow, rfl, rfl, rfl, by decide, by decide⟩
  all_goals exact absurd hty (by decide)

/-- A number with a sign. -/
def withSign (neg : Bool) (x : ℚ) : ℚ := if neg then -x else x

theorem withSign_mul (n1 n2 : Bool) (x y : ℚ) : withSign n1 x * withSign n2 y = withSign (n1 != n2) (x * y) := by
  cases n1 <;> cases n2 <;> simp [withSign]

theorem abs_withSign (neg : Bool) {x : ℚ} (hx : 0 ≤ x) : |withSign neg x| = x := by
  cases neg <;> simp [withSign, abs_of_nonneg hx]

/-- What a pattern is: a number, an infinity or a NaN, to the model and by its row. -/
inductive Operand (t : FloatRow) (g : Num.Fmt) (a : Nat) : Prop
  | num (m : Nat) (e : Int) (hval : g.val a = .num (t.negative a) m e)
      (hnumber : t.number a = withSign (t.negative a) ((m : ℚ) * 2 ^ e))
      (hfinite : t.finite a = true) (hinf : t.infinite a = false) (hnan : t.isNan a = false) (hsig : t.signalling a = false)
  | inf (hval : g.val a = .inf (t.negative a)) (hnumber : t.number a ≠ 0)
      (hfinite : t.finite a = false) (hinf : t.infinite a = true) (hnan : t.isNan a = false) (hsig : t.signalling a = false)
  | nan (hval : g.val a = .nan (t.signalling a)) (hnumber : t.number a ≠ 0)
      (hfinite : t.finite a = false) (hinf : t.infinite a = false) (hnan : t.isNan a = true)

/-- The number of a pattern, by its sign. -/
theorem number_eq (t : FloatRow) (a : Nat) : t.number a = withSign (t.negative a) (t.magnitude (a % 2 ^ (t.w - 1))) := by
  unfold FloatRow.number FloatRow.negative withSign
  simp only [beq_iff_eq]

theorem magnitude_zero (t : FloatRow) : t.magnitude 0 = 0 := by
  rw [FloatRow.magnitude, if_pos (Nat.two_pow_pos _), Nat.cast_zero, zero_mul]

/-- A pattern whose magnitude is not zero stands for no zero. -/
theorem number_ne_zero {t : FloatRow} {a : Nat} (ha : 0 < a % 2 ^ (t.w - 1)) : t.number a ≠ 0 := by
  have hpos : 0 < t.magnitude (a % 2 ^ (t.w - 1)) := magnitude_zero t ▸ magnitude_strictMono t ha
  rw [number_eq, withSign]
  split
  · exact (neg_neg_of_pos hpos).ne
  · exact hpos.ne'

/-- The model's value of a pattern, by its magnitude. -/
theorem val_eq {t : FloatRow} {g : Num.Fmt} (h : IeeeRow t g) (a : Nat) : g.val a =
    let mag := a % 2 ^ (t.w - 1)
    if mag / 2 ^ t.f = g.emax then
      (if mag % 2 ^ t.f = 0 then .inf (t.negative a) else .nan (mag % 2 ^ t.f < 2 ^ (t.f - 1)))
    else if mag / 2 ^ t.f = 0 then .num (t.negative a) (mag % 2 ^ t.f) (t.emin - t.f)
    else .num (t.negative a) (2 ^ t.f + mag % 2 ^ t.f) (t.emin - t.f + (mag / 2 ^ t.f : Nat) - 1) := by
  have hspecial := h.row.inf.2 h.inf
  have hqmin : g.qmin = t.emin - t.f := by rw [Num.Fmt.qmin, h.row.emin, h.row.fraction]
  unfold Num.Fmt.val
  rw [hspecial]
  simp only [h.row.width, h.row.fraction, hqmin]
  rfl

/-- The quiet bit of a NaN is the highest bit of its fraction. -/
theorem signalling_bit {t : FloatRow} {g : Num.Fmt} (h : IeeeRow t g) {a : Nat} (hnan : t.isNan a = true) :
    t.signalling a = decide (a % 2 ^ (t.w - 1) % 2 ^ t.f < 2 ^ (t.f - 1)) := by
  obtain ⟨f, hf⟩ := Nat.exists_eq_succ_of_ne_zero h.fpos.ne'
  have hmod : a % 2 ^ (t.w - 1) % 2 ^ t.f = a % 2 ^ t.f := Nat.mod_mod_of_dvd _ (Nat.pow_dvd_pow 2 h.fle)
  rw [FloatRow.signalling, hnan, Bool.true_and, hmod, hf, Nat.succ_sub_one, Nat.succ_eq_add_one, pow_succ]
  have hbit : a % (2 ^ f * 2) / 2 ^ f = a / 2 ^ f % 2 := Nat.mod_mul_right_div_self _ _ _
  have hpos := Nat.two_pow_pos f
  rw [← hbit, Bool.eq_iff_iff, beq_iff_eq, decide_eq_true_iff, Nat.div_eq_zero_iff]
  omega

/-- Every pattern is one of the three. -/
theorem operand {t : FloatRow} {g : Num.Fmt} (h : IeeeRow t g) (a : Nat) : Operand t g a := by
  have hval := val_eq h a
  have hemax := h.row.infBits h.inf
  rw [h.row.fraction] at hemax
  have hlt : a % 2 ^ (t.w - 1) < t.topCode + 1 + 2 ^ t.f := h.span ▸ Nat.mod_lt a (Nat.two_pow_pos _)
  have hpos := Nat.two_pow_pos t.f
  have hmag := Nat.div_add_mod (a % 2 ^ (t.w - 1)) (2 ^ t.f)
  have hfrac := Nat.mod_lt (a % 2 ^ (t.w - 1)) hpos
  rcases Nat.lt_trichotomy (a % 2 ^ (t.w - 1)) (t.topCode + 1) with hm | hm | hm
  · have hexp : ¬(a % 2 ^ (t.w - 1) / 2 ^ t.f = g.emax) := fun he => by
      rw [he, Nat.mul_comm, hemax] at hmag
      omega
    have hfinite : t.finite a = true := decide_eq_true (Nat.le_of_lt_succ hm)
    have hinf : t.infinite a = false := beq_eq_false_iff_ne.2 hm.ne
    have hnan : t.isNan a = false := decide_eq_false (Nat.not_lt.2 hm.le)
    have hsig : t.signalling a = false := by rw [FloatRow.signalling, hnan, Bool.false_and]
    dsimp only at hval
    rw [if_neg hexp] at hval
    have hnumber := number_eq t a
    by_cases hsub : a % 2 ^ (t.w - 1) / 2 ^ t.f = 0
    · rw [if_pos hsub] at hval
      refine .num _ _ hval ?_ hfinite hinf hnan hsig
      rw [hsub, Nat.mul_zero, Nat.zero_add] at hmag
      rw [hnumber, FloatRow.magnitude, if_pos (hmag ▸ hfrac), hmag]
    · rw [if_neg hsub] at hval
      refine .num _ _ hval ?_ hfinite hinf hnan hsig
      have hge : ¬(a % 2 ^ (t.w - 1) < 2 ^ t.f) := fun hlt => hsub (Nat.div_eq_of_lt hlt)
      rw [hnumber, FloatRow.magnitude, if_neg hge]
      congr 3
      ring
  · have hexp : a % 2 ^ (t.w - 1) / 2 ^ t.f = g.emax := by rw [hm, ← hemax, Nat.mul_div_cancel _ hpos]
    have hzero : a % 2 ^ (t.w - 1) % 2 ^ t.f = 0 := by rw [hm, ← hemax, Nat.mul_mod_left]
    have hnan : t.isNan a = false := decide_eq_false (Nat.not_lt.2 hm.le)
    dsimp only at hval
    rw [if_pos hexp, if_pos hzero] at hval
    exact .inf hval (number_ne_zero (by omega)) (decide_eq_false (by omega)) (beq_iff_eq.2 hm) hnan
      (by rw [FloatRow.signalling, hnan, Bool.false_and])
  · have hexp : a % 2 ^ (t.w - 1) / 2 ^ t.f = g.emax := by
      refine Nat.div_eq_of_lt_le ?_ ?_
      · rw [hemax]
        exact hm.le
      · rw [Nat.add_mul, hemax, Nat.one_mul]
        exact hlt
    have hzero : ¬(a % 2 ^ (t.w - 1) % 2 ^ t.f = 0) := fun hz => by
      rw [hz, hexp, Nat.mul_comm, hemax] at hmag
      omega
    have hnan : t.isNan a = true := decide_eq_true hm
    dsimp only at hval
    rw [if_pos hexp, if_neg hzero, ← signalling_bit h hnan] at hval
    exact .nan hval (number_ne_zero (by omega)) (decide_eq_false (by omega)) (beq_eq_false_iff_ne.2 hm.ne') hnan

/-! ## One rounding of the exact result (R220) -/

/-- A zero keeps its sign. -/
theorem roundsTo_zero {t : FloatRow} {g : Num.Fmt} (hrow : RowOf t g) (r : Num.Rnd) (neg : Bool) :
    RoundsTo t r neg 0 (g.sign neg 0, 0) := by
  refine ⟨fun _ => ?_, fun k hlo => absurd hlo (not_le.2 (two_zpow_pos k))⟩
  rw [Num.Fmt.sign, hrow.width, Nat.zero_add]

/-- A signed magnitude as a multiple of a lower power of two. -/
theorem signedAt_eq (n : Bool) (m : Nat) {e q : Int} (h : q ≤ e) :
    ((Num.signedAt n m e q : Int) : ℚ) * 2 ^ q = withSign n ((m : ℚ) * 2 ^ e) := by
  obtain ⟨d, hd⟩ := Int.eq_ofNat_of_zero_le (sub_nonneg.2 h)
  have he : (2 : ℚ) ^ e = 2 ^ d * 2 ^ q := by
    rw [← zpow_natCast, ← zpow_add₀ two_ne_zero]
    congr 1
    change e - q = (d : Int) at hd
    omega
  have hdn : (e - q).toNat = d := by rw [hd]; rfl
  unfold Num.signedAt withSign
  rw [hdn, he]
  cases n <;> simp only [Bool.false_eq_true, if_false, if_true] <;> push_cast <;> ring

/-- The sign of an exact sum (R220). -/
def sumSign (mode : Nat) (n1 n2 : Bool) (s : ℚ) : Bool :=
  if s = 0 then (if n1 = n2 then n1 else mode == 2) else decide (s < 0)

/-- Two terms of one sign come to zero only where both are. -/
theorem sum_zero_sign {n1 n2 : Bool} {x y : ℚ} (hx : 0 ≤ x) (hy : 0 ≤ y) (h : withSign n1 x + withSign n2 y = 0)
    (hn : n1 = n2) : x = 0 ∧ y = 0 := by
  subst hn
  have : x + y = 0 := by
    cases n1 <;> simp only [withSign, Bool.false_eq_true, if_false, if_true] at h <;> linarith
  constructor <;> linarith

/-- R220: the exact sum of two numbers is rounded once. -/
theorem addFinite_roundsTo {t : FloatRow} {g : Num.Fmt} (hrow : RowOf t g) (r : Num.Rnd) (hmode : r.mode < 6) (n1 n2 : Bool)
    (m1 m2 : Nat) (e1 e2 : Int) {s : ℚ} (hs : withSign n1 ((m1 : ℚ) * 2 ^ e1) + withSign n2 ((m2 : ℚ) * 2 ^ e2) = s) :
    RoundsTo t r (sumSign r.mode n1 n2 s) |s| (Num.addFinite g r n1 m1 e1 n2 m2 e2 0) := by
  have hu := two_zpow_pos (min e1 e2)
  have hsum : ((Num.signedAt n1 m1 e1 (min e1 e2) + Num.signedAt n2 m2 e2 (min e1 e2) : Int) : ℚ) * 2 ^ (min e1 e2) = s := by
    rw [← hs, ← signedAt_eq n1 m1 (min_le_left e1 e2), ← signedAt_eq n2 m2 (min_le_right e1 e2)]
    push_cast
    ring
  unfold Num.addFinite
  dsimp only
  generalize Num.signedAt n1 m1 e1 (min e1 e2) + Num.signedAt n2 m2 e2 (min e1 e2) = S at hsum ⊢
  by_cases hS : S = 0
  · have hs0 : s = 0 := by rw [← hsum, hS, Int.cast_zero, zero_mul]
    rw [if_pos hS, hs0, abs_zero, sumSign, if_pos rfl]
    have hsign : (if (decide (m1 = 0) && decide (m2 = 0)) = true then Num.zeroSign r n1 n2 else r.mode == 2) =
        if n1 = n2 then n1 else r.mode == 2 := by
      unfold Num.zeroSign
      split
      · rfl
      next hm =>
        rw [if_neg fun hn => hm ?_]
        obtain ⟨h1, h2⟩ := sum_zero_sign (by positivity) (by positivity) (hs.trans hs0) hn
        have h1' := (mul_eq_zero.1 h1).resolve_right (two_zpow_pos e1).ne'
        have h2' := (mul_eq_zero.1 h2).resolve_right (two_zpow_pos e2).ne'
        simpa using And.intro h1' h2'
    rw [hsign]
    exact roundsTo_zero hrow r _
  · have hs0 : s ≠ 0 := by
      rw [← hsum]
      exact mul_ne_zero (by exact_mod_cast hS) hu.ne'
    have hneg : decide (s < 0) = decide (S < 0) := by
      rw [← hsum, decide_eq_decide, ← not_le, mul_nonneg_iff_of_pos_right hu, not_le]
      exact_mod_cast Iff.rfl
    have habs : |s| = (S.natAbs : ℚ) * 2 ^ (min e1 e2) := by
      rw [← hsum, abs_mul, abs_of_pos hu, Nat.cast_natAbs, Int.cast_abs]
    rw [if_neg hS, sumSign, if_neg hs0, hneg, habs, add_zero]
    exact round_roundsTo hrow r hmode _ _ _

end Sys2Proof
end

section
/-! SUPPORT. Infinities and NaNs as operands (R221), and the scalar floating-point results as a whole. -/

namespace Sys2Proof

open Sys2Proof.Machine Sys2Proof.Claims

/-! ## Special results -/

section
variable {t : FloatRow} {g : Num.Fmt} (h : IeeeRow t g) {l : List Nat} {bad inf : Bool}
include h

/-- A signalling operand or an invalid operation gives the NaN with NV. -/
theorem special_invalid (hbad : l.any t.signalling = true ∨ bad = true) : SpecialResult t l bad inf (Num.nanRes g true) := by
  rw [SpecialResult, if_pos (Bool.or_eq_true_iff.2 hbad), Num.nanRes, h.nan]
  rfl

/-- Any other NaN among the operands gives the NaN. -/
theorem special_nan (hsig : l.any t.signalling = false) (hbad : bad = false) (hnan : l.any t.isNan = true) :
    SpecialResult t l bad inf (Num.nanRes g false) := by
  rw [SpecialResult, if_neg (by rw [hsig, hbad]; decide), if_pos hnan, Num.nanRes, h.nan]
  rfl

/-- Else the result is an infinity. -/
theorem special_inf (hsig : l.any t.signalling = false) (hbad : bad = false) (hnan : l.any t.isNan = false) {neg : Bool}
    (hneg : inf = neg) : SpecialResult t l bad inf (g.inf neg, Num.NF) := by
  have hbits : g.inf neg = (if neg then 2 ^ (t.w - 1) else 0) + t.topCode + 1 := by
    rw [Num.Fmt.inf, Num.Fmt.sign, h.row.infBits h.inf, h.row.width]
    cases neg <;> simp only [Bool.false_eq_true, if_false, if_true] <;> omega
  rw [SpecialResult, if_neg (by rw [hsig, hbad]; decide), if_neg (by rw [hnan]; decide), hbits, hneg]
  rfl

end

/-! ## NaN operands -/

theorem val_signalling {t : FloatRow} {g : Num.Fmt} (h : IeeeRow t g) (a : Nat) : (g.val a).signalling = t.signalling a := by
  rcases operand h a with ⟨m, e, hval, -, -, -, -, hsig⟩ | ⟨hval, -, -, -, -, hsig⟩ | ⟨hval, -, -, -, -⟩ <;> rw [hval]
  · exact hsig.symm
  · exact hsig.symm
  · rfl

theorem val_isNan {t : FloatRow} {g : Num.Fmt} (h : IeeeRow t g) (a : Nat) : (g.val a).isNan = t.isNan a := by
  rcases operand h a with ⟨m, e, hval, -, -, -, hnan, -⟩ | ⟨hval, -, -, -, hnan, -⟩ | ⟨hval, -, -, -, hnan⟩ <;>
    rw [hval, hnan] <;> rfl

theorem infinite_of_nan {t : FloatRow} {a : Nat} (hnan : t.isNan a = true) : t.infinite a = false :=
  beq_eq_false_iff_ne.2 (of_decide_eq_true hnan).ne'

theorem fadd_nan (g : Num.Fmt) (r : Num.Rnd) (z : Int) {x y : Num.FVal} (hx : x.signalling = false) (hy : y.signalling = false)
    (hn : x.isNan = true ∨ y.isNan = true) : Num.fadd g r z x y = Num.nanRes g false := by
  unfold Num.fadd
  rw [hx, hy]
  cases x with
  | nan s => rfl
  | inf | num =>
    cases y with
    | nan s => rfl
    | inf | num => exact absurd hn (by simp [Num.FVal.isNan])

theorem fmul_nan (g : Num.Fmt) (r : Num.Rnd) {x y : Num.FVal} (hx : x.signalling = false) (hy : y.signalling = false)
    (hn : x.isNan = true ∨ y.isNan = true) : Num.fmul g r x y = Num.nanRes g false := by
  unfold Num.fmul
  rw [hx, hy]
  cases x with
  | nan s => rfl
  | inf | num =>
    cases y with
    | nan s => rfl
    | inf | num => exact absurd hn (by simp [Num.FVal.isNan])

theorem ffma_nan (g : Num.Fmt) (r : Num.Rnd) {x y z : Num.FVal} (hx : x.signalling = false) (hy : y.signalling = false)
    (hz : z.signalling = false) (hzero : Num.zeroTimesInf x y = false)
    (hn : x.isNan = true ∨ y.isNan = true ∨ z.isNan = true) : Num.ffma g r x y z = Num.nanRes g false := by
  unfold Num.ffma
  rw [hx, hy, hz, hzero]
  cases x with
  | nan s => rfl
  | inf | num =>
    cases y with
    | nan s => rfl
    | inf | num =>
      cases z with
      | nan s => rfl
      | inf | num => exact absurd hn (by simp [Num.FVal.isNan])

/-- An operand that is no NaN is a number or an infinity. -/
theorem operand_plain {t : FloatRow} {g : Num.Fmt} (h : IeeeRow t g) {a : Nat} (hnan : t.isNan a = false) :
    (∃ m e, g.val a = .num (t.negative a) m e ∧ t.number a = withSign (t.negative a) ((m : ℚ) * 2 ^ e) ∧
      t.finite a = true ∧ t.infinite a = false) ∨
    (g.val a = .inf (t.negative a) ∧ t.number a ≠ 0 ∧ t.finite a = false ∧ t.infinite a = true) := by
  rcases operand h a with ⟨m, e, hval, hnum, hfin, hinf, -, -⟩ | ⟨hval, hnum, hfin, hinf, -, -⟩ | ⟨-, -, -, -, hnan'⟩
  · exact .inl ⟨m, e, hval, hnum, hfin, hinf⟩
  · exact .inr ⟨hval, hnum, hfin, hinf⟩
  · exact absurd (hnan.symm.trans hnan') Bool.false_ne_true

theorem withSign_eq_zero {n : Bool} {m : Nat} {e : Int} : withSign n ((m : ℚ) * 2 ^ e) = 0 ↔ m = 0 := by
  have he := (two_zpow_pos e).ne'
  cases n <;> simp [withSign, he]

/-- Whether a value is an infinity. -/
def valInfinite : Num.FVal → Bool
  | .inf _ => true
  | _ => false

/-- Whether a value is a zero. -/
def valZero : Num.FVal → Bool
  | .num _ m _ => m == 0
  | _ => false

theorem val_infinite {t : FloatRow} {g : Num.Fmt} (h : IeeeRow t g) (a : Nat) : valInfinite (g.val a) = t.infinite a := by
  rcases operand h a with ⟨m, e, hval, -, -, hinf, -, -⟩ | ⟨hval, -, -, hinf, -, -⟩ | ⟨hval, -, -, hinf, -⟩ <;>
    rw [hval, hinf] <;> rfl

theorem val_zero {t : FloatRow} {g : Num.Fmt} (h : IeeeRow t g) (a : Nat) : valZero (g.val a) = (t.number a == 0) := by
  rcases operand h a with ⟨m, e, hval, hnum, -, -, -, -⟩ | ⟨hval, hnum, -, -, -, -⟩ | ⟨hval, hnum, -, -, -⟩ <;> rw [hval]
  · rw [hnum, valZero, Bool.eq_iff_iff, beq_iff_eq, beq_iff_eq, withSign_eq_zero]
  · exact (beq_eq_false_iff_ne.2 hnum).symm
  · exact (beq_eq_false_iff_ne.2 hnum).symm

theorem zeroTimesInf_nan {x y : Num.FVal} (hn : x.isNan = true ∨ y.isNan = true) : Num.zeroTimesInf x y = false := by
  cases x with
  | nan s => rfl
  | inf | num =>
    cases y with
    | nan s => rfl
    | inf | num => exact absurd hn (by simp [Num.FVal.isNan])

/-- A product of zero and an infinity, by the rows. -/
theorem zeroTimesInf_eq {t : FloatRow} {g : Num.Fmt} (h : IeeeRow t g) (a b : Nat) : Num.zeroTimesInf (g.val a) (g.val b) =
    ((t.infinite a && t.number b == 0) || (t.infinite b && t.number a == 0)) := by
  rw [← val_infinite h, ← val_infinite h, ← val_zero h, ← val_zero h]
  generalize g.val a = x
  generalize g.val b = y
  cases x <;> cases y <;> simp [Num.zeroTimesInf, valInfinite, valZero]

/-! ## Sums, products and fused products of special operands -/

/-- The two ways in which a list of operands is special before infinities are looked at. -/
theorem special_cases {t : FloatRow} {g : Num.Fmt} (h : IeeeRow t g) {l : List Nat} {bad inf : Bool} {res : Nat × Nat}
    (hinvalid : l.any t.signalling = true → res = Num.nanRes g true)
    (hquiet : l.any t.signalling = false → l.any t.isNan = true → (bad = true ∧ res = Num.nanRes g true) ∨
      (bad = false ∧ res = Num.nanRes g false))
    (hplain : l.any t.isNan = false → (bad = true ∧ res = Num.nanRes g true) ∨ (bad = false ∧ res = (g.inf inf, Num.NF))) :
    SpecialResult t l bad inf res := by
  cases hs : l.any t.signalling
  case true => exact hinvalid hs ▸ special_invalid h (.inl hs)
  cases hn : l.any t.isNan
  case true =>
    obtain ⟨hbad, hres⟩ | ⟨hbad, hres⟩ := hquiet hs hn
    · exact hres ▸ special_invalid h (.inr hbad)
    · exact hres ▸ special_nan h hs hbad hn
  obtain ⟨hbad, hres⟩ | ⟨hbad, hres⟩ := hplain hn
  · exact hres ▸ special_invalid h (.inr hbad)
  · exact hres ▸ special_inf h hs hbad hn rfl

theorem any_pair (p : Nat → Bool) (a b : Nat) : [a, b].any p = (p a || p b) := by simp
theorem any_triple (p : Nat → Bool) (a b c : Nat) : [a, b, c].any p = (p a || p b || p c) := by simp [Bool.or_assoc]

section
variable {t : FloatRow} {g : Num.Fmt} (h : IeeeRow t g) (r : Num.Rnd)
include h

theorem fadd_special (a b : Nat) (hab : t.finite a = false ∨ t.finite b = false) :
    SpecialResult t [a, b] (t.infinite a && t.infinite b && t.negative a != t.negative b)
      (if t.infinite a then t.negative a else t.negative b) (Num.fadd g r 0 (g.val a) (g.val b)) := by
  refine special_cases h (fun hs => if_pos ?_) (fun hs hn => .inr ⟨?_, ?_⟩) fun hn => ?_
  · rwa [val_signalling h, val_signalling h, ← any_pair]
  · rw [any_pair, Bool.or_eq_true] at hn
    rcases hn with hn | hn <;> rw [infinite_of_nan hn] <;> simp only [Bool.false_and, Bool.and_false]
  · rw [any_pair, Bool.or_eq_false_iff] at hs
    rw [any_pair, Bool.or_eq_true] at hn
    exact fadd_nan g r 0 ((val_signalling h a).trans hs.1) ((val_signalling h b).trans hs.2)
      (hn.imp (val_isNan h a).trans (val_isNan h b).trans)
  · rw [any_pair, Bool.or_eq_false_iff] at hn
    rcases operand_plain h hn.1 with ⟨m, e, hva, -, hfa, hia⟩ | ⟨hva, -, -, hia⟩ <;>
      rcases operand_plain h hn.2 with ⟨m', e', hvb, -, hfb, hib⟩ | ⟨hvb, -, -, hib⟩ <;> rw [hva, hvb, hia, hib]
    · rw [hfa, hfb] at hab
      exact absurd hab (by decide)
    · exact .inr ⟨rfl, rfl⟩
    · exact .inr ⟨rfl, rfl⟩
    · by_cases hsign : t.negative a = t.negative b
      · exact .inr ⟨by rw [hsign]; simp, if_pos hsign⟩
      · exact .inl ⟨by simpa using hsign, if_neg hsign⟩

theorem fmul_special (a b : Nat) (hab : t.finite a = false ∨ t.finite b = false) :
    SpecialResult t [a, b] ((t.infinite a && t.number b == 0) || (t.infinite b && t.number a == 0))
      (t.negative a != t.negative b) (Num.fmul g r (g.val a) (g.val b)) := by
  rw [← zeroTimesInf_eq h]
  refine special_cases h (fun hs => if_pos ?_) (fun hs hn => .inr ⟨?_, ?_⟩) fun hn => ?_
  · rwa [val_signalling h, val_signalling h, ← any_pair]
  · rw [any_pair, Bool.or_eq_true, ← val_isNan h, ← val_isNan h] at hn
    generalize g.val a = x at hn ⊢
    generalize g.val b = y at hn ⊢
    exact zeroTimesInf_nan hn
  · rw [any_pair, Bool.or_eq_false_iff] at hs
    rw [any_pair, Bool.or_eq_true] at hn
    exact fmul_nan g r ((val_signalling h a).trans hs.1) ((val_signalling h b).trans hs.2)
      (hn.imp (val_isNan h a).trans (val_isNan h b).trans)
  · rw [any_pair, Bool.or_eq_false_iff] at hn
    rcases operand_plain h hn.1 with ⟨m, e, hva, -, hfa, hia⟩ | ⟨hva, -, -, hia⟩ <;>
      rcases operand_plain h hn.2 with ⟨m', e', hvb, -, hfb, hib⟩ | ⟨hvb, -, -, hib⟩ <;> rw [hva, hvb]
    · rw [hfa, hfb] at hab
      exact absurd hab (by decide)
    · by_cases hm : m = 0
      · exact .inl ⟨beq_iff_eq.2 hm, if_pos hm⟩
      · exact .inr ⟨beq_eq_false_iff_ne.2 hm, if_neg hm⟩
    · by_cases hm : m' = 0
      · exact .inl ⟨beq_iff_eq.2 hm, if_pos hm⟩
      · exact .inr ⟨beq_eq_false_iff_ne.2 hm, if_neg hm⟩
    · exact .inr ⟨rfl, rfl⟩

/-- A product that is infinite, of factors of the given signs. -/
inductive InfiniteProduct (x y : Num.FVal) (n1 n2 : Bool) : Prop
  | both (hx : x = .inf n1) (hy : y = .inf n2)
  | left {m : Nat} {e : Int} (hx : x = .inf n1) (hy : y = .num n2 m e) (hm : m ≠ 0)
  | right {m : Nat} {e : Int} (hx : x = .num n1 m e) (hy : y = .inf n2) (hm : m ≠ 0)

omit h in
/-- An infinite product with a third operand that is no NaN. -/
theorem ffma_infinite {x y : Num.FVal} {n1 n2 : Bool} (hp : InfiniteProduct x y n1 n2) :
    (∀ n m e, Num.ffma g r x y (.num n m e) = (g.inf (n1 != n2), Num.NF)) ∧
    ∀ n, Num.ffma g r x y (.inf n) = if n = (n1 != n2) then (g.inf n, Num.NF) else Num.nanRes g true := by
  rcases hp with ⟨rfl, rfl⟩ | ⟨rfl, rfl, hm⟩ | ⟨rfl, rfl, hm⟩
  · exact ⟨fun _ _ _ => rfl, fun _ => rfl⟩
  all_goals
    have hz := beq_eq_false_iff_ne.2 hm
    refine ⟨fun _ _ _ => ?_, fun _ => ?_⟩ <;>
      simp only [Num.ffma, Num.FVal.signalling, Num.zeroTimesInf, hz, Bool.or_self, Bool.false_eq_true, if_false]

/-- A fused product whose product is infinite (R221). -/
theorem infinite_product_special {a b c : Nat} {vast : Bool}
    (hp : InfiniteProduct (g.val a) (g.val b) (t.negative a) (t.negative b)) (hvast : vast = true) (hnc : t.isNan c = false) :
    ((vast && t.infinite c && (t.negative a != t.negative b) != t.negative c) = true ∧
      Num.ffma g r (g.val a) (g.val b) (g.val c) = Num.nanRes g true) ∨
    ((vast && t.infinite c && (t.negative a != t.negative b) != t.negative c) = false ∧
      Num.ffma g r (g.val a) (g.val b) (g.val c) =
        (g.inf (if vast then t.negative a != t.negative b else t.negative c), Num.NF)) := by
  obtain ⟨hnum, hinf⟩ := ffma_infinite (g := g) r hp
  generalize (t.negative a != t.negative b) = neg at hnum hinf ⊢
  rw [hvast, Bool.true_and, if_pos rfl]
  rcases operand_plain h hnc with ⟨m, e, hvc, -, -, hic⟩ | ⟨hvc, -, -, hic⟩ <;> rw [hvc, hic]
  · exact .inr ⟨rfl, hnum _ _ _⟩
  · rw [hinf, Bool.true_and]
    by_cases hsign : t.negative c = neg
    · exact .inr ⟨bne_eq_false_iff_eq.2 hsign.symm, by rw [if_pos hsign, hsign]⟩
    · exact .inl ⟨bne_iff_ne.2 (Ne.symm hsign), if_neg hsign⟩

/-- The fused product: an operand's NaN, 0 x inf and a sum of infinities of two signs come first (R221). -/
theorem ffma_special (a b c : Nat) (habc : t.finite a = false ∨ t.finite b = false ∨ t.finite c = false) :
    let times := (t.infinite a && t.number b == 0) || (t.infinite b && t.number a == 0)
    let vast := (t.infinite a || t.infinite b) && !t.isNan a && !t.isNan b
    SpecialResult t [a, b, c] (times || (vast && t.infinite c && (t.negative a != t.negative b) != t.negative c))
      (if vast then t.negative a != t.negative b else t.negative c) (Num.ffma g r (g.val a) (g.val b) (g.val c)) := by
  intro times vast
  have htimes : Num.zeroTimesInf (g.val a) (g.val b) = times := zeroTimesInf_eq h a b
  have hvast : vast = ((t.infinite a || t.infinite b) && !t.isNan a && !t.isNan b) := rfl
  clear_value times vast
  refine special_cases h (fun hs => if_pos ?_) (fun hs hn => ?_) fun hn => ?_
  · rw [val_signalling h, val_signalling h, val_signalling h, ← any_triple, hs, Bool.true_or]
  · rw [any_triple, Bool.or_eq_false_iff, Bool.or_eq_false_iff] at hs
    obtain ⟨⟨hsa, hsb⟩, hsc⟩ := hs
    rw [any_triple, Bool.or_eq_true, Bool.or_eq_true, or_assoc] at hn
    cases hz : times
    case true =>
      refine .inl ⟨rfl, if_pos ?_⟩
      rw [htimes, hz, Bool.or_true]
    case false =>
      refine .inr ⟨?_, ffma_nan g r ((val_signalling h a).trans hsa) ((val_signalling h b).trans hsb)
        ((val_signalling h c).trans hsc) (htimes.trans hz)
        (hn.imp (val_isNan h a).trans (Or.imp (val_isNan h b).trans (val_isNan h c).trans))⟩
      rcases hn with hn | hn | hn
      · rw [hvast, hn]
        simp
      · rw [hvast, hn]
        simp
      · rw [infinite_of_nan hn]
        simp
  · rw [any_triple, Bool.or_eq_false_iff, Bool.or_eq_false_iff] at hn
    obtain ⟨⟨hna, hnb⟩, hnc⟩ := hn
    cases hz : times
    case true =>
      refine .inl ⟨rfl, if_pos ?_⟩
      rw [htimes, hz, Bool.or_true]
    refine Or.imp (And.imp_left fun hb => by rwa [Bool.false_or]) (And.imp_left fun hb => by rwa [Bool.false_or]) ?_
    rw [hna, hnb, Bool.not_false, Bool.and_true, Bool.and_true] at hvast
    have hzero : Num.zeroTimesInf (g.val a) (g.val b) = false := htimes.trans hz
    rcases operand_plain h hna with ⟨m, e, hva, -, hfa, hia⟩ | ⟨hva, -, -, hia⟩ <;>
      rcases operand_plain h hnb with ⟨m', e', hvb, -, hfb, hib⟩ | ⟨hvb, -, -, hib⟩
    · rcases operand_plain h hnc with ⟨m'', e'', hvc, -, hfc, hic⟩ | ⟨hvc, -, -, hic⟩
      · rw [hfa, hfb, hfc] at habc
        exact absurd habc (by decide)
      · rw [hia, hib] at hvast
        rw [hva, hvb, hvc, hvast]
        exact .inr ⟨rfl, rfl⟩
    · refine infinite_product_special h r (.right hva hvb fun hm => ?_) (hvast.trans (by rw [hib, Bool.or_true])) hnc
      rw [hva, hvb] at hzero
      exact absurd (beq_iff_eq.2 hm) (by rw [show (m == 0) = false from hzero]; decide)
    · refine infinite_product_special h r (.left hva hvb fun hm => ?_) (hvast.trans (by rw [hia, Bool.true_or])) hnc
      rw [hva, hvb] at hzero
      exact absurd (beq_iff_eq.2 hm) (by rw [show (m' == 0) = false from hzero]; decide)
    · exact infinite_product_special h r (.both hva hvb) (hvast.trans (by rw [hia, Bool.true_or])) hnc

end

/-! ## The settlement -/

theorem product_number {t : FloatRow} {a b : Nat} {ma mb : Nat} {ea eb : Int}
    (ha : t.number a = withSign (t.negative a) ((ma : ℚ) * 2 ^ ea)) (hb : t.number b = withSign (t.negative b) ((mb : ℚ) * 2 ^ eb)) :
    t.number a * t.number b = withSign (t.negative a != t.negative b) (((ma * mb : Nat) : ℚ) * 2 ^ (ea + eb)) := by
  rw [ha, hb, withSign_mul, zpow_add₀ two_ne_zero]
  congr 1
  push_cast
  ring

/-- Sums, products and fused products of numbers are the rounded exact results (R220). -/
theorem finite_results {t : FloatRow} {g : Num.Fmt} (h : IeeeRow t g) (r : Num.Rnd) (hmode : r.mode < 6) {a b : Nat}
    (ha : t.finite a = true) (hb : t.finite b = true) :
    RoundsTo t r (sumSign r.mode (t.negative a) (t.negative b) (t.number a + t.number b)) |t.number a + t.number b|
      (Num.fadd g r 0 (g.val a) (g.val b)) ∧
    RoundsTo t r (t.negative a != t.negative b) |t.number a * t.number b| (Num.fmul g r (g.val a) (g.val b)) ∧
    ∀ c, t.finite c = true → RoundsTo t r
      (sumSign r.mode (t.negative a != t.negative b) (t.negative c) (t.number a * t.number b + t.number c))
      |t.number a * t.number b + t.number c| (Num.ffma g r (g.val a) (g.val b) (g.val c)) := by
  have hfinite : ∀ x, t.finite x = true → ∃ m e, g.val x = .num (t.negative x) m e ∧
      t.number x = withSign (t.negative x) ((m : ℚ) * 2 ^ e) := fun x hx => by
    rcases operand h x with ⟨m, e, hval, hnum, -, -, -, -⟩ | ⟨-, -, hfin, -, -, -⟩ | ⟨-, -, hfin, -, -⟩
    · exact ⟨m, e, hval, hnum⟩
    all_goals exact absurd (hfin.symm.trans hx) Bool.false_ne_true
  obtain ⟨ma, ea, hva, hna⟩ := hfinite a ha
  obtain ⟨mb, eb, hvb, hnb⟩ := hfinite b hb
  have hproduct := product_number hna hnb
  rw [hva, hvb]
  refine ⟨?_, ?_, fun c hc => ?_⟩
  · exact addFinite_roundsTo h.row r hmode _ _ _ _ _ _ (by rw [← hna, ← hnb])
  · rw [hproduct, abs_withSign _ (by positivity)]
    exact round_roundsTo h.row r hmode _ _ _
  · obtain ⟨mc, ec, hvc, hnc⟩ := hfinite c hc
    rw [hvc]
    exact addFinite_roundsTo h.row r hmode _ _ _ _ _ _ (by rw [← hproduct, ← hnc])

/-- Rounding in every format and mode (R217 to R222). -/
theorem rounding : Rounding := by
  intro t r ht hmode _ _ fmt
  refine ⟨round_roundsTo (rowOf ht) r hmode, roundInt_roundTo r, fun hty a b c _ _ _ => ?_⟩
  have h : IeeeRow t fmt := ieeeRow ht hty
  refine ⟨fun ha hb => ?_, fun hab => ⟨fadd_special h r a b hab, fmul_special h r a b hab⟩, ffma_special h r a b c⟩
  obtain ⟨hsum, hproduct, hfused⟩ := finite_results h r hmode ha hb
  exact ⟨hsum, hproduct, hfused c⟩

/-- Settles O4: the operations yield their results, and the model's rounding is that of R217 over the rationals. -/
theorem scalarFloatResults : Obligations.ScalarFloatResults := ⟨completes_of_yields fpEffect_yields, rounding⟩

end Sys2Proof
end
